-- ==== Sys2Proof/Word.lean ====
section
/-! DEFINITION. The words of the machine: a lane of a token, a byte of memory, a register, a node record.
Widths as R16 (lanes of 32 bits), R40 (bytes), R44 (64-bit registers) and R86 (96-bit records) give them. -/

namespace Sys2Proof

/-- One lane of a token payload (R16). -/
abbrev Word := BitVec 32

/-- One byte of a memory, a page store or a weight store (R8). -/
abbrev Byte := BitVec 8

/-- A system register, a VA or a PA carried in a token (R41, R44). -/
abbrev Word64 := BitVec 64

/-- A node record (R86). -/
abbrev Record := BitVec 96

end Sys2Proof
end

