-- ==== Sys2Proof/Machine/Bits.lean ====
section
/-! DEFINITION. Bit fields, byte order, integers of a width, and sparse tables kept as sorted lists.
R7 (bit ranges), R8 (little-endian), R54 (`sat_int`, `wrap`). -/

namespace Sys2Proof.Machine

/-! ### Bit fields (R7) -/

/-- `x[hi:lo]` of a natural number read as bits. -/
def fld (x hi lo : Nat) : Nat := (x >>> lo) % 2 ^ (hi + 1 - lo)

/-- `x[n]`. -/
def bitAt (x n : Nat) : Bool := x.testBit n

/-- `x` with `[hi:lo]` replaced by `v`. -/
def setFld (x hi lo v : Nat) : Nat :=
  let w := hi + 1 - lo
  x - (fld x hi lo) * 2 ^ lo + (v % 2 ^ w) * 2 ^ lo

def boolNat (b : Bool) : Nat := if b then 1 else 0

/-! ### Integers of a width (R54) -/

/-- `wrap(v, n, signed)`: an exact integer reduced modulo `2^n`. -/
def wrapInt (v : Int) (n : Nat) (signed : Bool) : Int :=
  let w := v % (2 ^ n : Int)
  if signed && decide (w ≥ 2 ^ (n - 1)) then w - 2 ^ n else w

/-- The `n`-bit pattern of an exact integer. -/
def patOf (v : Int) (n : Nat) : Nat := (v % (2 ^ n : Int)).toNat

/-- The value of an `n`-bit pattern, read as signed or unsigned. -/
def valOf (p n : Nat) (signed : Bool) : Int :=
  if signed && decide (p ≥ 2 ^ (n - 1)) then (p : Int) - 2 ^ n else p

/-- Ends of the range of an `n`-bit integer. -/
def intLo (n : Nat) (signed : Bool) : Int := if signed then -(2 ^ (n - 1)) else 0
def intHi (n : Nat) (signed : Bool) : Int := if signed then 2 ^ (n - 1) - 1 else 2 ^ n - 1

/-! ### Bytes (R8) -/

/-- The `k` little-endian bytes of `x`. -/
def bytesOf (x : Nat) : Nat → List Byte
  | 0 => []
  | k + 1 => BitVec.ofNat 8 x :: bytesOf (x / 256) k

/-- The value of little-endian bytes. -/
def natOfBytes : List Byte → Nat
  | [] => 0
  | b :: bs => b.toNat + 256 * natOfBytes bs

/-- Bits of a byte stream: stream bit `b` is bit `b mod 8` of byte `b / 8` (R68), as one number. -/
abbrev streamNat := natOfBytes

/-- `k` equal chunks of `n` from the front of a list. -/
def chunks {α : Type} (n : Nat) : Nat → List α → List (List α)
  | 0, _ => []
  | k + 1, l => l.take n :: chunks n k (l.drop n)

/-! ### Serial numbers (R20) -/

/-- SEQ `a` precedes SEQ `b`. -/
def seqPrecedes (a b : BitVec 26) : Bool :=
  let d := (b - a).toNat
  decide (1 ≤ d) && decide (d ≤ 2 ^ 25 - 1)

/-- How far SEQ `b` lies after SEQ `a`, modulo 2^26. -/
def seqAfter (a b : BitVec 26) : Nat := (b - a).toNat

/-! ### Sparse tables: lists sorted by key, no key twice -/

/-- A finite table by natural-number key. -/
abbrev Tab (α : Type) := List (Nat × α)

def Tab.find? {α : Type} (t : Tab α) (k : Nat) : Option α := (List.find? (fun e => e.1 == k) t).map Prod.snd

def Tab.getD {α : Type} (t : Tab α) (k : Nat) (d : α) : α := (Tab.find? t k).getD d

def Tab.set {α : Type} : Tab α → Nat → α → Tab α
  | [], k, v => [(k, v)]
  | (k', v') :: r, k, v =>
    if k < k' then (k, v) :: (k', v') :: r
    else if k = k' then (k, v) :: r
    else (k', v') :: Tab.set r k v

def Tab.del {α : Type} (t : Tab α) (k : Nat) : Tab α := t.filter (fun e => e.1 != k)

def Tab.vals {α : Type} (t : Tab α) : List α := t.map (·.2)

/-- Sorted list of numbers with no repeats: insertion and removal. -/
def insNat : List Nat → Nat → List Nat
  | [], a => [a]
  | b :: r, a => if a < b then a :: b :: r else if a = b then b :: r else b :: insNat r a

def delNat (l : List Nat) (a : Nat) : List Nat := l.filter (· != a)

/-- Apply `f` to the `k`-th element of a list. -/
def modNth {α : Type} (f : α → α) : Nat → List α → List α
  | _, [] => []
  | 0, a :: l => f a :: l
  | k + 1, a :: l => a :: modNth f k l

/-- A list without its `k`-th element. -/
def dropNth {α : Type} : Nat → List α → List α
  | _, [] => []
  | 0, _ :: l => l
  | k + 1, a :: l => a :: dropNth k l

/-- The elements of a list with their positions. -/
def indexed {α : Type} (l : List α) : List (Nat × α) := l.zipIdx.map (fun p => (p.2, p.1))

/-- Position of the first element that satisfies `p`. -/
def firstIdx {α : Type} (p : α → Bool) (l : List α) : Option Nat := (indexed l).find? (fun e => p e.2) |>.map (·.1)

/-- Insertion sort by a strict order. -/
def insertBy {α : Type} (lt : α → α → Bool) (a : α) : List α → List α
  | [] => [a]
  | b :: l => if lt a b then a :: b :: l else b :: insertBy lt a l

def sortBy {α : Type} (lt : α → α → Bool) (l : List α) : List α := l.foldl (fun acc a => insertBy lt a acc) []

def ceilDiv (a b : Nat) : Nat := (a + b - 1) / b

end Sys2Proof.Machine
end

