-- ==== Sys2Proof/Syntax.lean ====
section
/-! DEFINITION. The instructions: the fields of a node record (R86 to R100) and one constructor for each row of
opcode_table.json. A node instruction carries its decoded record; a step of the hardware or of an outside agent has no
encoding and takes its occasion from the state (`Machine.Occ`). -/

namespace Sys2Proof

/-- Element formats, FMT codes 0 to 15 (R109). -/
inductive Fmt where
  | i32 | n32 | i16x2 | n16x2 | i8x4 | n8x4 | i64 | n64 | f32 | f64 | bf16x2 | f16x2 | e4m3x4 | e5m2x4 | c64 | b32
  deriving DecidableEq, Repr

/-- Arity codes 0 to 3 (R89). -/
inductive Ary where
  | l | lr | lrc | lit
  deriving DecidableEq, Repr

/-- Predicate codes 0 to 3 (R91). -/
inductive Prd where
  | none | t | f | steer
  deriving DecidableEq, Repr

/-- Tag-arithmetic codes 0 to 6; code 7 is reserved (R93). -/
inductive Tga where
  | keep | inc | zero | liti | fnew | fret | dec
  deriving DecidableEq, Repr

/-- Operand ports (R89, R100). -/
inductive Port where
  | l | r | c | p
  deriving DecidableEq, Repr

/-- A destination of a record: none, or a node's port at an FE offset (R100). -/
inductive Dst where
  | none
  | to (dx dy : BitVec 5) (node : BitVec 10) (port : Port)
  deriving DecidableEq, Repr

/-- The fields of a node record beside its opcode (R86). -/
structure NodeRec where
  fmt : Fmt
  ary : Ary
  prd : Prd
  tga : Tga
  seq : Bool
  dsta : Dst
  dstb : Dst
  lit : Word
  deriving DecidableEq, Repr

/-- One constructor for each row of opcode_table.json: the 200 node instructions with their records, then the 108 steps. -/
inductive Instr where
  /-- R131: Copies the L token unchanged, including its class and LVL. -/
  | id (n : NodeRec)
  /-- R131: Emits the literal, taken by FMT, in every lane with all lanes valid. -/
  | const (n : NodeRec)
  /-- R131: Integer element add that wraps. -/
  | add (n : NodeRec)
  /-- R131: Integer element subtract that wraps. -/
  | sub (n : NodeRec)
  /-- R131: Saturating integer add that counts sat. -/
  | adds (n : NodeRec)
  /-- R131: Saturating integer subtract that counts sat. -/
  | subs (n : NodeRec)
  /-- R131: Integer negate. -/
  | neg (n : NodeRec)
  /-- R131: Signed integer absolute value. -/
  | abs (n : NodeRec)
  /-- R131: Integer multiply giving the low half. -/
  | mul (n : NodeRec)
  /-- R131: Integer multiply giving the high half of the 2n-bit product. -/
  | mulh (n : NodeRec)
  /-- R131: Integer multiply-add l*r+c. -/
  | mad (n : NodeRec)
  /-- R132: Integer quotient truncated towards zero, with no fault on division by zero. -/
  | div (n : NodeRec)
  /-- R132: Integer remainder with the sign of the dividend. -/
  | rem (n : NodeRec)
  /-- R131: Integer minimum. -/
  | min (n : NodeRec)
  /-- R131: Integer maximum. -/
  | max (n : NodeRec)
  /-- R131: Bitwise and. -/
  | and (n : NodeRec)
  /-- R131: Bitwise or. -/
  | or (n : NodeRec)
  /-- R131: Bitwise exclusive or. -/
  | xor (n : NodeRec)
  /-- R131: Bitwise not. -/
  | not (n : NodeRec)
  /-- R131: Bitwise l and not r. -/
  | andn (n : NodeRec)
  /-- R133: Shift left by r modulo n. -/
  | shl (n : NodeRec)
  /-- R133: Logical shift right. -/
  | shr (n : NodeRec)
  /-- R133: Arithmetic shift right. -/
  | sar (n : NodeRec)
  /-- R133: Rotate left within n bits. -/
  | rol (n : NodeRec)
  /-- R131: Count leading zero bits. -/
  | clz (n : NodeRec)
  /-- R131: Count one bits. -/
  | popc (n : NodeRec)
  /-- R131: Reverse the bit order of each element. -/
  | brev (n : NodeRec)
  /-- R135: Extracts a bit field given by the literal, sign- or zero-extended. -/
  | bfx (n : NodeRec)
  /-- R135: Inserts the low bits of r into a field of l. -/
  | bfi (n : NodeRec)
  /-- R131: Selects l where c is nonzero, and r otherwise. -/
  | sel (n : NodeRec)
  /-- R131: Mask of integer equality. -/
  | cmpeq (n : NodeRec)
  /-- R131: Mask of integer inequality. -/
  | cmpne (n : NodeRec)
  /-- R131: Mask of less-than, with signedness by FMT. -/
  | cmplt (n : NodeRec)
  /-- R131: Mask of less-or-equal, with signedness by FMT. -/
  | cmple (n : NodeRec)
  /-- R131: Mask of unsigned less-than. -/
  | cmpltn (n : NodeRec)
  /-- R131: Mask of unsigned less-or-equal. -/
  | cmplen (n : NodeRec)
  /-- R134: Add with carry-in; the sum goes to DSTA and the carry to DSTB. -/
  | addc (n : NodeRec)
  /-- R134: Subtract with borrow-in; the difference goes to DSTA and the borrow to DSTB. -/
  | subb (n : NodeRec)
  /-- R136: Forms the 64-bit address l + r*2^SH + DISP. -/
  | lea (n : NodeRec)
  /-- R103: Relays each L arrival unchanged to an absolute target FE, node and port. -/
  | far (n : NodeRec)
  /-- R137: Emits a chosen field of the firing's tag in every lane. -/
  | tagv (n : NodeRec)
  /-- R131: Integer clamp min(max(l, r), c). -/
  | clamp (n : NodeRec)
  /-- R138: Computes hash32 of each lane with seed r. -/
  | hash (n : NodeRec)
  /-- R139: Stateless 32-bit random draw by WEYL or MIX. -/
  | rnd (n : NodeRec)
  /-- R140: Floating-point add, rounded once by RNE. -/
  | fadd (n : NodeRec)
  /-- R140: Floating-point subtract. -/
  | fsub (n : NodeRec)
  /-- R140: Floating-point multiply. -/
  | fmul (n : NodeRec)
  /-- R140: Fused multiply-add l*r+c, rounded once. -/
  | ffma (n : NodeRec)
  /-- R140: Fused multiply-subtract l*r-c, rounded once. -/
  | ffms (n : NodeRec)
  /-- R141: Floating-point minimum with NaN and signed-zero rules. -/
  | fmin (n : NodeRec)
  /-- R141: Floating-point maximum with NaN and signed-zero rules. -/
  | fmax (n : NodeRec)
  /-- R140: Floating-point absolute value. -/
  | fabs (n : NodeRec)
  /-- R140: Floating-point negate. -/
  | fneg (n : NodeRec)
  /-- R140: Mask of floating-point equality. -/
  | fcmpeq (n : NodeRec)
  /-- R140: Mask of floating-point less-than. -/
  | fcmplt (n : NodeRec)
  /-- R140: Mask of floating-point less-or-equal. -/
  | fcmple (n : NodeRec)
  /-- R140: Mask of an unordered comparison (either operand NaN). -/
  | fcmpun (n : NodeRec)
  /-- R142: Correctly rounded reciprocal. -/
  | frcp (n : NodeRec)
  /-- R142: Correctly rounded reciprocal square root. -/
  | frsq (n : NodeRec)
  /-- R142: Correctly rounded square root. -/
  | fsqrt (n : NodeRec)
  /-- R140: Correctly rounded division. -/
  | fdiv (n : NodeRec)
  /-- R142: Correctly rounded 2^l. -/
  | fexp2 (n : NodeRec)
  /-- R142: Correctly rounded log2(l). -/
  | flog2 (n : NodeRec)
  /-- R142: Correctly rounded sin(pi*l). -/
  | fsin (n : NodeRec)
  /-- R142: Correctly rounded cos(pi*l). -/
  | fcos (n : NodeRec)
  /-- R142: Correctly rounded tanh(l). -/
  | ftanh (n : NodeRec)
  /-- R143: Rounds to an integral value in the same format by RM. -/
  | frnd (n : NodeRec)
  /-- R144: Classifies the raw operand into a one-hot class mask. -/
  | fclass (n : NodeRec)
  /-- R145: Computes l*2^k with k read from r, rounded once. -/
  | fscale (n : NodeRec)
  /-- R146: Converts between floating-point formats, placing elements by PART. -/
  | cvtf (n : NodeRec)
  /-- R146: Converts floating-point to integer. -/
  | cvtfi (n : NodeRec)
  /-- R146: Converts integer to floating-point. -/
  | cvtif (n : NodeRec)
  /-- R147: Complex C64 multiply, each part rounded once. -/
  | cmul (n : NodeRec)
  /-- R147: Complex C64 fused multiply-add. -/
  | cfma (n : NodeRec)
  /-- R148: Two-element dot product per lane into FP32. -/
  | dot2 (n : NodeRec)
  /-- R148: Four-element FP8 or INT8 dot product per lane. -/
  | dot4 (n : NodeRec)
  /-- R151: Emits the FP32 block amax per block, optionally folded with an earlier amax. -/
  | amax (n : NodeRec)
  /-- R152: Computes block scales for a target and emits only the scale token. -/
  | scaleq (n : NodeRec)
  /-- R153: Quantises blocks into an MX or DX stream with a computed or supplied scale. -/
  | qnt (n : NodeRec)
  /-- R154: Decodes an MX or DX b32 stream into a floating-point format. -/
  | dqnt (n : NodeRec)
  /-- R155: Packs the low W bits of each byte into a b32 stream. -/
  | pack (n : NodeRec)
  /-- R155: Unpacks W-bit elements into bytes. -/
  | unpack (n : NodeRec)
  /-- R156: Emits the span's count set as a stat token and clears it unless KEEP is set. -/
  | stat (n : NodeRec)
  /-- R157: Adds two stat tokens lane by lane, saturating. -/
  | ssum (n : NodeRec)
  /-- R158: Decodes a scale token into FP32 scale values. -/
  | cvtsDec (n : NodeRec)
  /-- R158: Encodes FP32 values into a scale token. -/
  | cvtsEnc (n : NodeRec)
  /-- R159: Broadcasts one unit of L to every unit. -/
  | bcast (n : NodeRec)
  /-- R159: Shuffles L lanes by the indices in R. -/
  | shuf (n : NodeRec)
  /-- R160: Permutes units by a fixed pattern. -/
  | perm (n : NodeRec)
  /-- R161: Reduces units by a fixed pairwise tree. -/
  | red (n : NodeRec)
  /-- R162: Inclusive or exclusive serial prefix fold over units. -/
  | scan (n : NodeRec)
  /-- R159: Emits BASE+j in lane j. -/
  | laneid (n : NodeRec)
  /-- R163: Splits a token into two half-width tokens. -/
  | split (n : NodeRec)
  /-- R163: Joins two half-width tokens into one. -/
  | join (n : NodeRec)
  /-- R164: Applies a lane mask from R to the validity of L. -/
  | vmaskSet (n : NodeRec)
  /-- R164: Emits L's valid bits as a mask. -/
  | vmaskGet (n : NodeRec)
  /-- R165: Packs the kept units to the front and reports their count. -/
  | compact (n : NodeRec)
  /-- R165: Scatters L units into the positions that R marks. -/
  | expand (n : NodeRec)
  /-- R170: Sends L to DSTA or DSTB by P, or splits its lanes in lane mode. -/
  | steer (n : NodeRec)
  /-- R170: Forwards each ONCE arrival on L or R alone to both destinations. -/
  | merge (n : NodeRec)
  /-- R176: Emits L with ITER advanced by DIST. -/
  | carry (n : NodeRec)
  /-- R173: An entry token starts a loop with bound N for its frame. -/
  | loopb (n : NodeRec)
  /-- R177: Sends an exit request of LVL 0 to a LOOPB's C port. -/
  | lexit (n : NodeRec)
  /-- R170: Sends L to three destinations. -/
  | fan (n : NodeRec)
  /-- R170: Discards L, in SEQ order when it is an ordered sink. -/
  | sink (n : NodeRec)
  /-- R170: Passes L once a matching R token is present. -/
  | gate (n : NodeRec)
  /-- R170: Joins operands and emits an all-invalid data token. -/
  | ord (n : NodeRec)
  /-- R178: Allocates a frame, writes its link and sends the argument to the callee. -/
  | fcall (n : NodeRec)
  /-- R179: Reads and clears the frame link, returns L to the caller and starts the release sweep. -/
  | fretn (n : NodeRec)
  /-- R181: Emits L as a STICKY token. -/
  | stick (n : NodeRec)
  /-- R181: Emits L as a PURGE token. -/
  | purge (n : NodeRec)
  /-- R182: Emits L as an end-of-stream control token of the given LVL. -/
  | eos (n : NodeRec)
  /-- R183: Forwards items and holds each end-of-stream token until its item count has passed. -/
  | eosw (n : NodeRec)
  /-- R184: Enters the next round and sends markers on every output. -/
  | round (n : NodeRec)
  /-- R185: Writes FRAME, ITER or SEQ of L from R lanes. -/
  | tagset (n : NodeRec)
  /-- R185: Emits FRAME, ITER, SEQ and CID as lanes. -/
  | tagget (n : NodeRec)
  /-- R186: Queues L to be emitted after a delay. -/
  | timer (n : NodeRec)
  /-- R187: Counts arrivals per frame and emits on the N-th. -/
  | cntr (n : NodeRec)
  /-- R188: Stamps SEQ as base plus stride times ITER. -/
  | seqsIter (n : NodeRec)
  /-- R188: Stamps SEQ from L lane 0. -/
  | seqsLane (n : NodeRec)
  /-- R189: Reads the expected value X of an ordered sink. -/
  | commitGet (n : NodeRec)
  /-- R189: Reads and then sets X of an ordered sink. -/
  | commitSet (n : NodeRec)
  /-- R191: Reads a launch record and queues a graph in another context. -/
  | launch (n : NodeRec)
  /-- R192: Registers a wait for a completion generation of a context. -/
  | waitl (n : NodeRec)
  /-- R193: Ends the graph: drains accesses and tasks, discards state and completes with cause 0. -/
  | doneGraph (n : NodeRec)
  /-- R193: Ends the fabric load and places the next one, or completes after the last load. -/
  | doneNext (n : NodeRec)
  /-- R195: Traps the firing frame with a TRAP fault record. -/
  | trap (n : NodeRec)
  /-- R195: Traps the firing frame with cause BRK and raises a breakpoint event. -/
  | brk (n : NodeRec)
  /-- R196: Reads a system register, own or another's. -/
  | rdsr (n : NodeRec)
  /-- R196: Writes a system register and emits its value after the write. -/
  | wrsr (n : NodeRec)
  /-- R197: Emits L and gives up the rest of the quantum. -/
  | yield (n : NodeRec)
  /-- R198: Re-issues the held access of a fault with a fresh translation. -/
  | resumeRetry (n : NodeRec)
  /-- R198: Resolves a fault that holds no port and releases the frame's parked tokens. -/
  | resumeRelease (n : NodeRec)
  /-- R198: Discards every token of the faulted frame and drops its held accesses. -/
  | resumeKill (n : NodeRec)
  /-- R199: Stops the context in state STOPPED, keeping its tokens. -/
  | halt (n : NodeRec)
  /-- R211: Loads a contiguous run of lanes by VA. -/
  | ld (n : NodeRec)
  /-- R211: Stores a contiguous run of lanes by VA. -/
  | st (n : NodeRec)
  /-- R214: Loads from the page's scratch store. -/
  | lds (n : NodeRec)
  /-- R214: Stores to the page's scratch store. -/
  | sts (n : NodeRec)
  /-- R212: Gathers one element per lane pair of addresses. -/
  | ldg (n : NodeRec)
  /-- R212: Scatters one element per lane pair of addresses. -/
  | stg (n : NodeRec)
  /-- R217: Integer atomic read-modify-write that returns the old value. -/
  | atom (n : NodeRec)
  /-- R218: Compare-and-swap that returns the old value and a flag. -/
  | cas (n : NodeRec)
  /-- R217: Floating-point atomic that returns the old value. -/
  | atomf (n : NodeRec)
  /-- R216: Atomic with no returned value. -/
  | atoms (n : NodeRec)
  /-- R220: Translates VAs to PAs and pins the mappings. -/
  | xlat (n : NodeRec)
  /-- R222: Loads by physical address within a pinned mapping. -/
  | ldp (n : NodeRec)
  /-- R222: Stores by physical address within a pinned mapping. -/
  | stp (n : NodeRec)
  /-- R224: Closes the named streams until their earlier accesses are performed at scope. -/
  | sbar (n : NodeRec)
  /-- R225: Emits once every earlier access of the page is performed at scope. -/
  | fence (n : NodeRec)
  /-- R227: Writes back dirty bank lines in a range. -/
  | flush (n : NodeRec)
  /-- R227: Invalidates bank lines in a range, writing dirty ones back unless DISC is set. -/
  | inval (n : NodeRec)
  /-- R228: Binds a page-store range as a cache bank. -/
  | bind (n : NodeRec)
  /-- R228: Writes back a bank's dirty lines and removes the binding. -/
  | bindUnbind (n : NodeRec)
  /-- R230: Sends a message to a mailbox of a context. -/
  | msend (n : NodeRec)
  /-- R231: Takes the oldest message of its own mailbox. -/
  | mrecv (n : NodeRec)
  /-- R229: Prefetches a range into banks or the TLB, never faulting. -/
  | pref (n : NodeRec)
  /-- R232: Reads a node record from node memory. -/
  | ldnode (n : NodeRec)
  /-- R232: Writes a node record into node memory. -/
  | wrnode (n : NodeRec)
  /-- R249: Writes a handler slot and runs its task chain. -/
  | mtaskRun (n : NodeRec)
  /-- R249: Writes a handler slot without running it. -/
  | mtaskDef (n : NodeRec)
  /-- R249: Runs a handler slot as it stands. -/
  | mtaskGo (n : NodeRec)
  /-- R260: Zeroes a bank or both banks and clears their poison. -/
  | mzero (n : NodeRec)
  /-- R257: Drains a bank as row tokens through a route entry. -/
  | mdrainTok (n : NodeRec)
  /-- R258: Writes a bank to memory in padded rows. -/
  | mdrainMem (n : NodeRec)
  /-- R255: Writes a route entry and returns a status. -/
  | mdrainRoute (n : NodeRec)
  /-- R259: Copies bytes from memory into the weight store. -/
  | mwload (n : NodeRec)
  /-- R252: Configures a tray. -/
  | mtrayCfg (n : NodeRec)
  /-- R253: Adds one row to a tray's filling side. -/
  | mtrayPush (n : NodeRec)
  /-- R254: Fires a tray's filling side. -/
  | mtrayFlush (n : NodeRec)
  /-- R261: Emits once every earlier tile operation has completed. -/
  | mwait (n : NodeRec)
  /-- R251: Writes a handler slot's scale extension. -/
  | mscale (n : NodeRec)
  /-- R266: Runs an MXINT8 convolution with implicit im2col and requantises the output to memory. -/
  | mconv (n : NodeRec)
  /-- R262: Emits the tile's counters and clears them unless KEEP is set. -/
  | mstat (n : NodeRec)
  /-- R278: Ranks gate scores, sends the manifest and dispatches the row to its top-k experts. -/
  | route (n : NodeRec)
  /-- R277: Sets a context's expert directory base and count. -/
  | exdirBase (n : NodeRec)
  /-- R277: Writes a directory entry and refreshes every Sifter's copy. -/
  | exdirWrite (n : NodeRec)
  /-- R277: Drops cached directory entries. -/
  | exdirInval (n : NodeRec)
  /-- R281: Configures a Rack for the context. -/
  | combCfg (n : NodeRec)
  /-- R281: Completes once every earlier manifest has committed. -/
  | combSync (n : NodeRec)
  /-- R281: Emits the Rack counters. -/
  | combStat (n : NodeRec)
  /-- R283: Copies a box of bytes by descriptor. -/
  | pcopy (n : NodeRec)
  /-- R285: Gathers indexed boxes into a packed side. -/
  | pgath (n : NodeRec)
  /-- R285: Scatters packed boxes to indexed positions. -/
  | pscat (n : NodeRec)
  /-- R283: Fills a box with an 8-byte pattern. -/
  | pfill (n : NodeRec)
  /-- R286: Decodes a T.81 or T.6 codestream into resized patches. -/
  | pdec (n : NodeRec)
  /-- R290: Joins a collective over a rank list. -/
  | coll (n : NodeRec)
  /-- R293: Drops cached rank lists. -/
  | rlinv (n : NodeRec)
  /-- R294: Requests migration of the leaves of a range to a tier and package. -/
  | migr (n : NodeRec)
  /-- R294: Pins the leaves of a range. -/
  | mpin (n : NodeRec)
  /-- R294: Removes the pins of a range. -/
  | mpinOff (n : NodeRec)
  /-- R346: Makes the leaves of a range read-duplicated on a copy set. -/
  | mrdupSys (n : NodeRec)
  /-- R347: Splits and collapses RDUP leaves of a range to a single owner. -/
  | mrdupMod (n : NodeRec)
  /-- R294: Sets or clears the tiering hint of a range. -/
  | mhint (n : NodeRec)
  /-- R296: Applies a dense controlled gate to local amplitudes. -/
  | bgate (n : NodeRec)
  /-- R297: Exchanges two index bits across members and updates MAP. -/
  | bswap (n : NodeRec)
  /-- R296: Applies a diagonal gate. -/
  | bdiag (n : NodeRec)
  /-- R298: Computes the state vector's total probability. -/
  | bprobNorm (n : NodeRec)
  /-- R298: Computes marginal probabilities of up to four qubits. -/
  | bprobMarg (n : NodeRec)
  /-- R298: Draws samples from the state vector. -/
  | bprobSamp (n : NodeRec)
  /-- R173: Admits the next batch of iterations once the window allows and no pre-emption is pending. -/
  | loopbAdmit
  /-- R174: A retire token on R retires the named live iteration and may emit the completion token. -/
  | loopbRetire
  /-- R174: A control token on C retires its iteration, stops admission and may emit the completion token. -/
  | loopbExitRequest
  /-- R97: A waiting reorder-stage entry is performed once the expected value X reaches it. -/
  | orderedSinkRelease
  /-- R381: Round logic takes a marker, counts it against its input, may enter the next round and may complete a cut. -/
  | markerArrival
  /-- R186: A pending TIMER token reaches its deadline and is emitted when there is downstream space. -/
  | timerDue
  /-- R192: A pending wait is satisfied and emits status, cause and g. -/
  | waitlRelease
  /-- R363: A memory port accepts the head access of a stream queue when its data path is free. -/
  | accessAccept
  /-- R305: An accepted access is served or performed at its scope, and its data and completion tokens leave. -/
  | accessPerform
  /-- R249: The last task of a chain completes and its drains are handed on, releasing the completion token. -/
  | hearthChainComplete
  /-- R254: A tray side fires on its threshold or once the other side is freed, running TSLOT. -/
  | trayFire
  /-- R254: D resident cycles pass after a side's first row, and the side fires. -/
  | trayTimerExpiry
  /-- R289: A patch record is performed and its patch token is emitted. -/
  | pdecPatchEmit
  /-- R292: A member will read its source no further and emits SRCFREE. -/
  | collSrcfree
  /-- R292: A member's destination is complete and performed, and it emits LOCALDONE. -/
  | collLocaldone
  /-- R292: Every member has reached LOCALDONE, and ALLDONE goes to ADEST. -/
  | collAlldone
  /-- R448: A Braid task held by the interlock starts once the previous task on its vector completes. -/
  | braidTaskStart
  /-- R272: An engine task's named event occurs and its completion tokens are emitted. -/
  | engineTaskComplete
  /-- R374: An island accepts a packet from its channel, freeing the packet slot. -/
  | islandPacketAccept
  /-- R374: A result token leaves the row gateway into the load, freeing its result slot. -/
  | islandResultDelivery
  /-- R27: A token arrives at an FE port and takes a matching-store entry or a sticky slot, or moves to the spill path. -/
  | tokenArrival
  /-- R376: The spill engine inserts a token into the spill table, raising MSFULL when it is full. -/
  | spillInsert
  /-- R376: The spill engine finds partners in the spill table and returns them. -/
  | spillLookup
  /-- R372: A combining entry holds meeting tokens and emits their sum once every input has supplied one. -/
  | switchCombine
  /-- R282: A Rack takes a manifest within its window and reserves an entry. -/
  | manifestArrival
  /-- R432: A tile writes a dispatched row into a tray, or bounces it. -/
  | dispatchArrival
  /-- R438: A Rack stores a contribution and folds complete KIDX in order. -/
  | contribArrival
  /-- R438: A Rack marks a KIDX complete with a null contribution. -/
  | nullArrival
  /-- R430: A Sifter adds returned credits to a tray's count. -/
  | creditArrival
  /-- R437: A Sifter re-examines the heads of its overflow queues, on a credit or every 1,024 cycles. -/
  | overflowQueueScan
  /-- R440: The row at X commits to the output buffer, with its flag token, and X advances. -/
  | rackRowCommit
  /-- R425: A Sifter's directory miss read returns and the waiting ROUTE proceeds. -/
  | directoryFill
  /-- R334: Every TLB has dropped the range and old accesses are performed, so held accesses are released. -/
  | shootdownComplete
  /-- R337: Leaven sets STATE MOVE and shoots down the leaf. -/
  | migrationEnter
  /-- R337: Leaven copies one locked line from source to destination. -/
  | migrationCopyLine
  /-- R337: Leaven switches the PTE to the destination and posts the source frame. -/
  | migrationSwitch
  /-- R339: A migration stops and restores the previous state at the source. -/
  | migrationAbort
  /-- R339: The migration deadline expires before the switch. -/
  | migrationDeadline
  /-- R342: Hotness counters of frames are halved at the end of their decay period. -/
  | hotDecay
  /-- R343: Leaven evaluates candidate leaves and starts promotions or demotions. -/
  | tieringEvaluation
  /-- R350: Leaven fills weight stores or migrates expert slices by popularity. -/
  | expertResidencyAction
  /-- R350: Expert popularity counts are halved at the end of each period. -/
  | popularityDecay
  /-- R351: An uncorrectable error marks poison and enters the error log. -/
  | uncorrectableError
  /-- R353: The loader restores logged lines and the last complete cut. -/
  | rollback
  /-- R406: The loader writes a fault record to the fault queue, or counts it as LOST. -/
  | faultPost
  /-- R410: The loader parks the context and enlarges and rebuilds its spill tables. -/
  | msfullHandling
  /-- R397: The loader places queued loads and chooses victims, on its events and every 2^16 cycles. -/
  | loaderDecision
  /-- R396: A resident context's DEFICIT reaches zero or below. -/
  | deficitExhausted
  /-- R398: A queued load stays unplaced for 2^24 cycles and becomes blocked. -/
  | loadBlocked
  /-- R383: The loader places a fabric load or restores a saved one, and injects its tokens. -/
  | placement
  /-- R414: A pre-emption is requested, and LOOPB admission stops. -/
  | preemptionRequest
  /-- R414: At a batch boundary, the context's state is saved and its pages released. -/
  | preemptionSave
  /-- R415: No batch boundary comes within 2^20 cycles, and the state is saved in place. -/
  | forcedPreemption
  /-- R385: The loader moves a resident load to another rectangle at a batch boundary. -/
  | relocation
  /-- R387: The loader relocates a die's loads to make room for a queued load. -/
  | compaction
  /-- R387: A load reaches no batch boundary within 2^20 cycles and is skipped. -/
  | compactionSkip
  /-- R121: The loader reads and checks a queued image and writes its data segments, or rejects it. -/
  | loaderImageCheck
  /-- R392: The context completes and the loader updates windows, writes the notice and sends MSI-X. -/
  | contextCompletion
  /-- R50: Setting EN moves a FREE context to IDLE. -/
  | ctxcfgEnSet
  /-- R51: Clearing EN stops admission, releases pages and discards the context's tokens. -/
  | ctxcfgEnClear
  /-- R51: The last token of a disabled context is gone; it enters FREE and completes with cause 2. -/
  | contextFreed
  /-- R49: A write clears every field of STALLCNT. -/
  | stallcntWrite
  /-- R49: A write invalidates the page's first-level TLB and clears MISS. -/
  | tlbctlWrite
  /-- R49: A write removes the oldest error-log entry. -/
  | errlogWrite
  /-- R393: A write moves the context to the tail of its new class at the next decision. -/
  | prioWrite
  /-- R393: A write changes the quantum from the next refill, storing 1 for 0. -/
  | weightWrite
  /-- R411: A write to SPILLBASE or SPILLSIZE of a PARKED context makes the loader rebuild its tables. -/
  | spillRegisterWrite
  /-- R45: A write to a register that has no behaviour of its own stores the value under the access rules. -/
  | registerWrite
  /-- R526: A write that does not cover a 64-bit register whole is dropped and logged. -/
  | partialRegisterWrite
  /-- R345: Starts a shoot-down of N pages from LVSHVA. -/
  | lvshcmdRange
  /-- R345: Starts a shoot-down of every translation of a CID. -/
  | lvshcmdAll
  /-- R345: A write clears both migration counters. -/
  | lvstatWrite
  /-- R464: A write clears the port's counters. -/
  | sbpstClearCounters
  /-- R464: Writing STATE 4 disables the port. -/
  | sbpstDisable
  /-- R464: Writing STATE 1 starts port training. -/
  | sbpstTrain
  /-- R464: Sets the package number, only while Sterabel is disabled. -/
  | sbidWrite
  /-- R476: Host command to pre-empt a context. -/
  | ctxcmdPreempt
  /-- R476: Host command to halt a context, as HALT with CODE 0. -/
  | ctxcmdHalt
  /-- R476: Host command to clear a STOPPED context, which completes with cause 1. -/
  | ctxcmdClear
  /-- R476: Host command to kill a context by clearing EN. -/
  | ctxcmdKill
  /-- R476: Writing 1 to a bit clears a context's breakpoint flag. -/
  | brkstClear
  /-- R482: Enabling the debug window extends measurement slot 15. -/
  | dbgctlEnable
  /-- R476: Writing 1 clears the dropped-debug-write flag. -/
  | dbgctlWerrClear
  /-- R484: A write through the debug window is performed on an idle unit, or dropped with WERR set. -/
  | debugWindowWrite
  /-- R390: A host write to RING copies LREC and launches the graph. -/
  | ring
  /-- R391: A host write to IRING injects IREC as a token into the inbound queue. -/
  | iring
  /-- R466: A host access through BAR 2 reaches device memory, or is refused. -/
  | hostBar2Access
  /-- R465: Clears EN of every context and resets every ingress window. -/
  | functionLevelReset
  /-- R474: Answers an SPDM attestation request over DOE. -/
  | spdmRequest
  /-- R473: Extends a measurement slot with a digest. -/
  | measurementExtend
  /-- R472: Verifies a replacement image written to the recovery buffer. -/
  | recoveryVerify
  /-- R485: Power-on: verifies firmware, trains and zeroes memory, and resets every register. -/
  | coldReset
  /-- R456: A port checks a flit's CRC and sequence number, accepting it or requesting a replay. -/
  | flitReceive
  /-- R456: Training ends with the port up, degraded or down. -/
  | portTrainingComplete
  /-- R459: No port of the mask is up for 2^20 cycles, and LINKF is raised. -/
  | routeLinkTimeout
  /-- R461: The target package checks JOBID and serves or refuses a remote request. -/
  | remoteRequestArrival
  /-- R462: A remote request gets no response within RSPDL, and TIMEOUT is raised. -/
  | responseTimeout
  /-- R463: Peers do not all join within CJOIN, and TIMEOUT is raised. -/
  | collJoinTimeout
  /-- R477: The die's arbiter numbers an event, updates ERRCNT and appends it to the log. -/
  | eventArbitration
  /-- R487: A sensor passes its throttle limit and work starts are reduced. -/
  | throttleStart
  /-- R487: Readings fall below their limits and throttling ends. -/
  | throttleEnd
  /-- R487: A sensor passes its trip limit and all work stops until a cold reset. -/
  | thermalTrip
  /-- R394: Each cycle advances MCYC, charges page-cycles to PGCYCLES and DEFICIT, and advances stall records and STALLCNT for nodes that wait without firing. -/
  | clockCycle
  /-- R481: The copy of a lasting row or line to its spare ends, and the accesses held meanwhile are released. -/
  | spareRemapComplete
  /-- R350: Leaven's residency fills of every tile of a group finish, and the directory RES becomes 2. -/
  | weightStoreFillComplete
  /-- R464: A write to SBCTL.EN holds every Sterabel port down, or releases the ports to train. -/
  | sbctlEnWrite
  /-- R468: A non-posted egress read to the host window gets no PCIe completion in time, and TIMEOUT is raised with the port held. -/
  | completionTimeout
  /-- R470: A CXL root port's link goes down, after which accesses to its range raise LINKF. -/
  | cxlPortLinkDown
  deriving DecidableEq, Repr

end Sys2Proof
end

