-- ==== Sys2Proof/Decode.lean ====
section
/-! DEFINITION. Records decoded and encoded (R86, R89 to R95, R100, R109 to R111). Decoding is total on 96 bits and names why it rejects. -/

namespace Sys2Proof
open Machine

/-- Why 96 bits are no record of an instruction (R111). -/
inductive DecodeError where
  | illegalOpcode
  | unassignedOpcode
  | reservedTga
  | reservedMode
  deriving DecidableEq, Repr

/-- The instruction of an opcode, told apart by the mode bits of LIT where several rows share the opcode (R110). -/
def ctorOf (opc lit : Nat) : Except DecodeError (NodeRec → Instr) :=
  match opc with
  | 0x00 => .error .illegalOpcode
  | 0xFF => .error .illegalOpcode
  | 0x01 => .ok .id
  | 0x02 => .ok .const
  | 0x03 => .ok .add
  | 0x04 => .ok .sub
  | 0x05 => .ok .adds
  | 0x06 => .ok .subs
  | 0x07 => .ok .neg
  | 0x08 => .ok .abs
  | 0x09 => .ok .mul
  | 0x0A => .ok .mulh
  | 0x0B => .ok .mad
  | 0x0C => .ok .div
  | 0x0D => .ok .rem
  | 0x0E => .ok .min
  | 0x0F => .ok .max
  | 0x10 => .ok .and
  | 0x11 => .ok .or
  | 0x12 => .ok .xor
  | 0x13 => .ok .not
  | 0x14 => .ok .andn
  | 0x15 => .ok .shl
  | 0x16 => .ok .shr
  | 0x17 => .ok .sar
  | 0x18 => .ok .rol
  | 0x19 => .ok .clz
  | 0x1A => .ok .popc
  | 0x1B => .ok .brev
  | 0x1C => .ok .bfx
  | 0x1D => .ok .bfi
  | 0x1E => .ok .sel
  | 0x1F => .ok .cmpeq
  | 0x20 => .ok .cmpne
  | 0x21 => .ok .cmplt
  | 0x22 => .ok .cmple
  | 0x23 => .ok .cmpltn
  | 0x24 => .ok .cmplen
  | 0x25 => .ok .addc
  | 0x26 => .ok .subb
  | 0x27 => .ok .lea
  | 0x28 => .ok .far
  | 0x29 => .ok .tagv
  | 0x2A => .ok .clamp
  | 0x2B => .ok .hash
  | 0x2C => .ok .rnd
  | 0x40 => .ok .fadd
  | 0x41 => .ok .fsub
  | 0x42 => .ok .fmul
  | 0x43 => .ok .ffma
  | 0x44 => .ok .ffms
  | 0x45 => .ok .fmin
  | 0x46 => .ok .fmax
  | 0x47 => .ok .fabs
  | 0x48 => .ok .fneg
  | 0x49 => .ok .fcmpeq
  | 0x4A => .ok .fcmplt
  | 0x4B => .ok .fcmple
  | 0x4C => .ok .fcmpun
  | 0x4D => .ok .frcp
  | 0x4E => .ok .frsq
  | 0x4F => .ok .fsqrt
  | 0x50 => .ok .fdiv
  | 0x51 => .ok .fexp2
  | 0x52 => .ok .flog2
  | 0x53 => .ok .fsin
  | 0x54 => .ok .fcos
  | 0x55 => .ok .ftanh
  | 0x56 => .ok .frnd
  | 0x57 => .ok .fclass
  | 0x58 => .ok .fscale
  | 0x59 => .ok .cvtf
  | 0x5A => .ok .cvtfi
  | 0x5B => .ok .cvtif
  | 0x5C => .ok .cmul
  | 0x5D => .ok .cfma
  | 0x5E => .ok .dot2
  | 0x5F => .ok .dot4
  | 0x70 => .ok .amax
  | 0x71 => .ok .scaleq
  | 0x72 => .ok .qnt
  | 0x73 => .ok .dqnt
  | 0x74 => .ok .pack
  | 0x75 => .ok .unpack
  | 0x76 => .ok .stat
  | 0x77 => .ok .ssum
  | 0x78 => match fld lit 0 0 with | 0 => .ok .cvtsDec | _ => .ok .cvtsEnc
  | 0x80 => .ok .bcast
  | 0x81 => .ok .shuf
  | 0x82 => .ok .perm
  | 0x83 => .ok .red
  | 0x84 => .ok .scan
  | 0x85 => .ok .laneid
  | 0x86 => .ok .split
  | 0x87 => .ok .join
  | 0x88 => match fld lit 0 0 with | 0 => .ok .vmaskSet | _ => .ok .vmaskGet
  | 0x89 => .ok .compact
  | 0x8A => .ok .expand
  | 0x90 => .ok .steer
  | 0x91 => .ok .merge
  | 0x92 => .ok .carry
  | 0x93 => .ok .loopb
  | 0x94 => .ok .lexit
  | 0x95 => .ok .fan
  | 0x96 => .ok .sink
  | 0x97 => .ok .gate
  | 0x98 => .ok .ord
  | 0x99 => .ok .fcall
  | 0x9A => .ok .fretn
  | 0x9B => .ok .stick
  | 0x9C => .ok .purge
  | 0x9D => .ok .eos
  | 0x9E => .ok .eosw
  | 0x9F => .ok .round
  | 0xA0 => .ok .tagset
  | 0xA1 => .ok .tagget
  | 0xA2 => .ok .timer
  | 0xA3 => .ok .cntr
  | 0xA4 => match fld lit 1 0 with | 0 => .ok .seqsIter | 1 => .ok .seqsLane | _ => .error .reservedMode
  | 0xA5 => match fld lit 10 10 with | 0 => .ok .commitGet | _ => .ok .commitSet
  | 0xA6 => .ok .launch
  | 0xA7 => .ok .waitl
  | 0xA8 => match fld lit 0 0 with | 0 => .ok .doneGraph | _ => .ok .doneNext
  | 0xB0 => .ok .ld
  | 0xB1 => .ok .st
  | 0xB2 => .ok .lds
  | 0xB3 => .ok .sts
  | 0xB4 => .ok .ldg
  | 0xB5 => .ok .stg
  | 0xB6 => .ok .atom
  | 0xB7 => .ok .cas
  | 0xB8 => .ok .atomf
  | 0xB9 => .ok .atoms
  | 0xBA => .ok .xlat
  | 0xBB => .ok .ldp
  | 0xBC => .ok .stp
  | 0xBD => .ok .sbar
  | 0xBE => .ok .fence
  | 0xBF => .ok .flush
  | 0xC0 => .ok .inval
  | 0xC1 => match fld lit 18 18 with | 0 => .ok .bind | _ => .ok .bindUnbind
  | 0xC2 => .ok .msend
  | 0xC3 => .ok .mrecv
  | 0xC4 => .ok .pref
  | 0xC5 => .ok .ldnode
  | 0xC6 => .ok .wrnode
  | 0xD0 => match fld lit 16 15 with | 0 => .ok .mtaskRun | 1 => .ok .mtaskDef | 2 => .ok .mtaskGo | _ => .error .reservedMode
  | 0xD1 => .ok .mzero
  | 0xD2 => match fld lit 16 15 with | 0 => .ok .mdrainTok | 1 => .ok .mdrainMem | 2 => .ok .mdrainRoute | _ => .error .reservedMode
  | 0xD3 => .ok .mwload
  | 0xD4 => match fld lit 16 15 with | 0 => .ok .mtrayCfg | 1 => .ok .mtrayPush | 2 => .ok .mtrayFlush | _ => .error .reservedMode
  | 0xD5 => .ok .mwait
  | 0xD6 => .ok .mscale
  | 0xD7 => .ok .mconv
  | 0xD8 => .ok .mstat
  | 0xE0 => .ok .route
  | 0xE1 => match fld lit 12 11 with | 0 => .ok .exdirBase | 1 => .ok .exdirWrite | 2 => .ok .exdirInval | _ => .error .reservedMode
  | 0xE2 => match fld lit 12 11 with | 0 => .ok .combCfg | 1 => .ok .combSync | 2 => .ok .combStat | _ => .error .reservedMode
  | 0xE3 => .ok .pcopy
  | 0xE4 => .ok .pgath
  | 0xE5 => .ok .pscat
  | 0xE6 => .ok .pfill
  | 0xE7 => .ok .pdec
  | 0xE8 => .ok .coll
  | 0xE9 => .ok .rlinv
  | 0xF0 => .ok .migr
  | 0xF1 => match fld lit 11 11 with | 0 => .ok .mpin | _ => .ok .mpinOff
  | 0xF2 => match fld lit 13 11 with | 3 => .ok .mrdupMod | 4 => .ok .mrdupSys | _ => .error .reservedMode
  | 0xF3 => .ok .mhint
  | 0xF4 => .ok .bgate
  | 0xF5 => .ok .bswap
  | 0xF6 => .ok .bdiag
  | 0xF7 => match fld lit 12 11 with | 0 => .ok .bprobNorm | 1 => .ok .bprobMarg | 2 => .ok .bprobSamp | _ => .error .reservedMode
  | 0xF8 => .ok .trap
  | 0xF9 => .ok .brk
  | 0xFA => .ok .rdsr
  | 0xFB => .ok .wrsr
  | 0xFC => .ok .yield
  | 0xFD => match fld lit 1 0 with | 0 => .ok .resumeRetry | 1 => .ok .resumeRelease | 2 => .ok .resumeKill | _ => .error .reservedMode
  | 0xFE => .ok .halt
  | _ => .error .unassignedOpcode

def decFmt (c : Nat) : Fmt :=
  match c with
  | 0 => .i32 | 1 => .n32 | 2 => .i16x2 | 3 => .n16x2 | 4 => .i8x4 | 5 => .n8x4 | 6 => .i64 | 7 => .n64
  | 8 => .f32 | 9 => .f64 | 10 => .bf16x2 | 11 => .f16x2 | 12 => .e4m3x4 | 13 => .e5m2x4 | 14 => .c64 | _ => .b32
def encFmt : Fmt → Nat
  | .i32 => 0 | .n32 => 1 | .i16x2 => 2 | .n16x2 => 3 | .i8x4 => 4 | .n8x4 => 5 | .i64 => 6 | .n64 => 7
  | .f32 => 8 | .f64 => 9 | .bf16x2 => 10 | .f16x2 => 11 | .e4m3x4 => 12 | .e5m2x4 => 13 | .c64 => 14 | .b32 => 15
def decAry (c : Nat) : Ary := match c with | 0 => .l | 1 => .lr | 2 => .lrc | _ => .lit
def encAry : Ary → Nat | .l => 0 | .lr => 1 | .lrc => 2 | .lit => 3
def decPrd (c : Nat) : Prd := match c with | 0 => .none | 1 => .t | 2 => .f | _ => .steer
def encPrd : Prd → Nat | .none => 0 | .t => 1 | .f => 2 | .steer => 3
def decTga (c : Nat) : Except DecodeError Tga :=
  match c with
  | 0 => .ok .keep | 1 => .ok .inc | 2 => .ok .zero | 3 => .ok .liti | 4 => .ok .fnew | 5 => .ok .fret | 6 => .ok .dec
  | _ => .error .reservedTga
def encTga : Tga → Nat | .keep => 0 | .inc => 1 | .zero => 2 | .liti => 3 | .fnew => 4 | .fret => 5 | .dec => 6
def decPort (c : Nat) : Port := match c with | 0 => .l | 1 => .r | 2 => .c | _ => .p
def encPort : Port → Nat | .l => 0 | .r => 1 | .c => 2 | .p => 3

/-- A 22-bit destination (R100, R101). NODE 0x3FF with another field nonzero is no well-formed one: the loader rejects it, and a firing that emits
raises ILLOP (R111). -/
def decDst (c : Nat) : Dst :=
  if c = 0xFFC then .none
  else .to (BitVec.ofNat 5 (fld c 21 17)) (BitVec.ofNat 5 (fld c 16 12)) (BitVec.ofNat 10 (fld c 11 2)) (decPort (fld c 1 0))

def encDst : Dst → Nat
  | .none => 0xFFC
  | .to dx dy node q => dx.toNat * 2 ^ 17 + dy.toNat * 2 ^ 12 + node.toNat * 2 ^ 2 + encPort q

/-- The decoder: a record as a 96-bit number, W2 lowest (R86). -/
def decodeNat (w : Nat) : Except DecodeError Instr :=
  match ctorOf (fld w 95 88) (fld w 31 0), decTga (fld w 79 77) with
  | .ok mk, .ok tga =>
    .ok (mk { fmt := decFmt (fld w 87 84), ary := decAry (fld w 83 82), prd := decPrd (fld w 81 80), tga, seq := bitAt w 76
              dsta := decDst (fld w 75 54), dstb := decDst (fld w 53 32), lit := BitVec.ofNat 32 (fld w 31 0) })
  | .error e, _ => .error e
  | _, .error e => .error e

def decodeRec (r : Record) : Except DecodeError Instr := decodeNat r.toNat

def instrOf? (r : Record) : Option Instr := match decodeRec r with | .ok i => some i | .error _ => none

/-- The instruction of the table word `w` of `nbits` bits: bit 0 is the least significant bit of W2, the lowest word in memory (R86); the bits
above `nbits` are zero. -/
def decodeTableWord (nbits w : Nat) : Option Instr := instrOf? (BitVec.ofNat 96 (w % 2 ^ nbits))

/-- Opcode, the value of the mode bits, and the fields of a node instruction; a step has no encoding. -/
def partsOf : Instr → Option (Nat × Nat × NodeRec)
  | .id n => some (0x01, 0x0, n)
  | .const n => some (0x02, 0x0, n)
  | .add n => some (0x03, 0x0, n)
  | .sub n => some (0x04, 0x0, n)
  | .adds n => some (0x05, 0x0, n)
  | .subs n => some (0x06, 0x0, n)
  | .neg n => some (0x07, 0x0, n)
  | .abs n => some (0x08, 0x0, n)
  | .mul n => some (0x09, 0x0, n)
  | .mulh n => some (0x0A, 0x0, n)
  | .mad n => some (0x0B, 0x0, n)
  | .div n => some (0x0C, 0x0, n)
  | .rem n => some (0x0D, 0x0, n)
  | .min n => some (0x0E, 0x0, n)
  | .max n => some (0x0F, 0x0, n)
  | .and n => some (0x10, 0x0, n)
  | .or n => some (0x11, 0x0, n)
  | .xor n => some (0x12, 0x0, n)
  | .not n => some (0x13, 0x0, n)
  | .andn n => some (0x14, 0x0, n)
  | .shl n => some (0x15, 0x0, n)
  | .shr n => some (0x16, 0x0, n)
  | .sar n => some (0x17, 0x0, n)
  | .rol n => some (0x18, 0x0, n)
  | .clz n => some (0x19, 0x0, n)
  | .popc n => some (0x1A, 0x0, n)
  | .brev n => some (0x1B, 0x0, n)
  | .bfx n => some (0x1C, 0x0, n)
  | .bfi n => some (0x1D, 0x0, n)
  | .sel n => some (0x1E, 0x0, n)
  | .cmpeq n => some (0x1F, 0x0, n)
  | .cmpne n => some (0x20, 0x0, n)
  | .cmplt n => some (0x21, 0x0, n)
  | .cmple n => some (0x22, 0x0, n)
  | .cmpltn n => some (0x23, 0x0, n)
  | .cmplen n => some (0x24, 0x0, n)
  | .addc n => some (0x25, 0x0, n)
  | .subb n => some (0x26, 0x0, n)
  | .lea n => some (0x27, 0x0, n)
  | .far n => some (0x28, 0x0, n)
  | .tagv n => some (0x29, 0x0, n)
  | .clamp n => some (0x2A, 0x0, n)
  | .hash n => some (0x2B, 0x0, n)
  | .rnd n => some (0x2C, 0x0, n)
  | .fadd n => some (0x40, 0x0, n)
  | .fsub n => some (0x41, 0x0, n)
  | .fmul n => some (0x42, 0x0, n)
  | .ffma n => some (0x43, 0x0, n)
  | .ffms n => some (0x44, 0x0, n)
  | .fmin n => some (0x45, 0x0, n)
  | .fmax n => some (0x46, 0x0, n)
  | .fabs n => some (0x47, 0x0, n)
  | .fneg n => some (0x48, 0x0, n)
  | .fcmpeq n => some (0x49, 0x0, n)
  | .fcmplt n => some (0x4A, 0x0, n)
  | .fcmple n => some (0x4B, 0x0, n)
  | .fcmpun n => some (0x4C, 0x0, n)
  | .frcp n => some (0x4D, 0x0, n)
  | .frsq n => some (0x4E, 0x0, n)
  | .fsqrt n => some (0x4F, 0x0, n)
  | .fdiv n => some (0x50, 0x0, n)
  | .fexp2 n => some (0x51, 0x0, n)
  | .flog2 n => some (0x52, 0x0, n)
  | .fsin n => some (0x53, 0x0, n)
  | .fcos n => some (0x54, 0x0, n)
  | .ftanh n => some (0x55, 0x0, n)
  | .frnd n => some (0x56, 0x0, n)
  | .fclass n => some (0x57, 0x0, n)
  | .fscale n => some (0x58, 0x0, n)
  | .cvtf n => some (0x59, 0x0, n)
  | .cvtfi n => some (0x5A, 0x0, n)
  | .cvtif n => some (0x5B, 0x0, n)
  | .cmul n => some (0x5C, 0x0, n)
  | .cfma n => some (0x5D, 0x0, n)
  | .dot2 n => some (0x5E, 0x0, n)
  | .dot4 n => some (0x5F, 0x0, n)
  | .amax n => some (0x70, 0x0, n)
  | .scaleq n => some (0x71, 0x0, n)
  | .qnt n => some (0x72, 0x0, n)
  | .dqnt n => some (0x73, 0x0, n)
  | .pack n => some (0x74, 0x0, n)
  | .unpack n => some (0x75, 0x0, n)
  | .stat n => some (0x76, 0x0, n)
  | .ssum n => some (0x77, 0x0, n)
  | .cvtsDec n => some (0x78, 0x0, n)
  | .cvtsEnc n => some (0x78, 0x1, n)
  | .bcast n => some (0x80, 0x0, n)
  | .shuf n => some (0x81, 0x0, n)
  | .perm n => some (0x82, 0x0, n)
  | .red n => some (0x83, 0x0, n)
  | .scan n => some (0x84, 0x0, n)
  | .laneid n => some (0x85, 0x0, n)
  | .split n => some (0x86, 0x0, n)
  | .join n => some (0x87, 0x0, n)
  | .vmaskSet n => some (0x88, 0x0, n)
  | .vmaskGet n => some (0x88, 0x1, n)
  | .compact n => some (0x89, 0x0, n)
  | .expand n => some (0x8A, 0x0, n)
  | .steer n => some (0x90, 0x0, n)
  | .merge n => some (0x91, 0x0, n)
  | .carry n => some (0x92, 0x0, n)
  | .loopb n => some (0x93, 0x0, n)
  | .lexit n => some (0x94, 0x0, n)
  | .fan n => some (0x95, 0x0, n)
  | .sink n => some (0x96, 0x0, n)
  | .gate n => some (0x97, 0x0, n)
  | .ord n => some (0x98, 0x0, n)
  | .fcall n => some (0x99, 0x0, n)
  | .fretn n => some (0x9A, 0x0, n)
  | .stick n => some (0x9B, 0x0, n)
  | .purge n => some (0x9C, 0x0, n)
  | .eos n => some (0x9D, 0x0, n)
  | .eosw n => some (0x9E, 0x0, n)
  | .round n => some (0x9F, 0x0, n)
  | .tagset n => some (0xA0, 0x0, n)
  | .tagget n => some (0xA1, 0x0, n)
  | .timer n => some (0xA2, 0x0, n)
  | .cntr n => some (0xA3, 0x0, n)
  | .seqsIter n => some (0xA4, 0x0, n)
  | .seqsLane n => some (0xA4, 0x1, n)
  | .commitGet n => some (0xA5, 0x0, n)
  | .commitSet n => some (0xA5, 0x400, n)
  | .launch n => some (0xA6, 0x0, n)
  | .waitl n => some (0xA7, 0x0, n)
  | .doneGraph n => some (0xA8, 0x0, n)
  | .doneNext n => some (0xA8, 0x1, n)
  | .trap n => some (0xF8, 0x0, n)
  | .brk n => some (0xF9, 0x0, n)
  | .rdsr n => some (0xFA, 0x0, n)
  | .wrsr n => some (0xFB, 0x0, n)
  | .yield n => some (0xFC, 0x0, n)
  | .resumeRetry n => some (0xFD, 0x0, n)
  | .resumeRelease n => some (0xFD, 0x1, n)
  | .resumeKill n => some (0xFD, 0x2, n)
  | .halt n => some (0xFE, 0x0, n)
  | .ld n => some (0xB0, 0x0, n)
  | .st n => some (0xB1, 0x0, n)
  | .lds n => some (0xB2, 0x0, n)
  | .sts n => some (0xB3, 0x0, n)
  | .ldg n => some (0xB4, 0x0, n)
  | .stg n => some (0xB5, 0x0, n)
  | .atom n => some (0xB6, 0x0, n)
  | .cas n => some (0xB7, 0x0, n)
  | .atomf n => some (0xB8, 0x0, n)
  | .atoms n => some (0xB9, 0x0, n)
  | .xlat n => some (0xBA, 0x0, n)
  | .ldp n => some (0xBB, 0x0, n)
  | .stp n => some (0xBC, 0x0, n)
  | .sbar n => some (0xBD, 0x0, n)
  | .fence n => some (0xBE, 0x0, n)
  | .flush n => some (0xBF, 0x0, n)
  | .inval n => some (0xC0, 0x0, n)
  | .bind n => some (0xC1, 0x0, n)
  | .bindUnbind n => some (0xC1, 0x40000, n)
  | .msend n => some (0xC2, 0x0, n)
  | .mrecv n => some (0xC3, 0x0, n)
  | .pref n => some (0xC4, 0x0, n)
  | .ldnode n => some (0xC5, 0x0, n)
  | .wrnode n => some (0xC6, 0x0, n)
  | .mtaskRun n => some (0xD0, 0x0, n)
  | .mtaskDef n => some (0xD0, 0x8000, n)
  | .mtaskGo n => some (0xD0, 0x10000, n)
  | .mzero n => some (0xD1, 0x0, n)
  | .mdrainTok n => some (0xD2, 0x0, n)
  | .mdrainMem n => some (0xD2, 0x8000, n)
  | .mdrainRoute n => some (0xD2, 0x10000, n)
  | .mwload n => some (0xD3, 0x0, n)
  | .mtrayCfg n => some (0xD4, 0x0, n)
  | .mtrayPush n => some (0xD4, 0x8000, n)
  | .mtrayFlush n => some (0xD4, 0x10000, n)
  | .mwait n => some (0xD5, 0x0, n)
  | .mscale n => some (0xD6, 0x0, n)
  | .mconv n => some (0xD7, 0x0, n)
  | .mstat n => some (0xD8, 0x0, n)
  | .route n => some (0xE0, 0x0, n)
  | .exdirBase n => some (0xE1, 0x0, n)
  | .exdirWrite n => some (0xE1, 0x800, n)
  | .exdirInval n => some (0xE1, 0x1000, n)
  | .combCfg n => some (0xE2, 0x0, n)
  | .combSync n => some (0xE2, 0x800, n)
  | .combStat n => some (0xE2, 0x1000, n)
  | .pcopy n => some (0xE3, 0x0, n)
  | .pgath n => some (0xE4, 0x0, n)
  | .pscat n => some (0xE5, 0x0, n)
  | .pfill n => some (0xE6, 0x0, n)
  | .pdec n => some (0xE7, 0x0, n)
  | .coll n => some (0xE8, 0x0, n)
  | .rlinv n => some (0xE9, 0x0, n)
  | .migr n => some (0xF0, 0x0, n)
  | .mpin n => some (0xF1, 0x0, n)
  | .mpinOff n => some (0xF1, 0x800, n)
  | .mrdupSys n => some (0xF2, 0x2000, n)
  | .mrdupMod n => some (0xF2, 0x1800, n)
  | .mhint n => some (0xF3, 0x0, n)
  | .bgate n => some (0xF4, 0x0, n)
  | .bswap n => some (0xF5, 0x0, n)
  | .bdiag n => some (0xF6, 0x0, n)
  | .bprobNorm n => some (0xF7, 0x0, n)
  | .bprobMarg n => some (0xF7, 0x800, n)
  | .bprobSamp n => some (0xF7, 0x1000, n)
  | _ => none

/-- The 96 bits of fields under an opcode (R86). -/
def packRec (opc : Nat) (n : NodeRec) : Nat :=
  opc * 2 ^ 88 + encFmt n.fmt * 2 ^ 84 + encAry n.ary * 2 ^ 82 + encPrd n.prd * 2 ^ 80 + encTga n.tga * 2 ^ 77
  + boolNat n.seq * 2 ^ 76 + encDst n.dsta * 2 ^ 54 + encDst n.dstb * 2 ^ 32 + n.lit.toNat

/-- The encoder. The mode bits of LIT are those of a well-formed instruction's own literal. -/
def encode (i : Instr) : Option Record := (partsOf i).map fun x => BitVec.ofNat 96 (packRec x.1 x.2.2)

end Sys2Proof
end

