-- ==== Sys2Proof/Config.lean ====
section
/-! DEFINITION. What the spec leaves open: constants of no stated value. None has a body that a proof could use. -/

namespace Sys2Proof.Config

/-- A free value of `w` bits for each moment (assumption log 2). -/
opaque freeBits (w : Nat) : Nat → BitVec w

/-- A byte that another package or the host answers for an address, at a moment, and whether it is poisoned; and whether its owner refuses an
access there, or gives no answer by the response deadline (assumption log 8). -/
opaque outsideByte : Nat → Nat → BitVec 8
opaque outsidePoison : Nat → Nat → Bool
opaque outsideRefuses : Nat → Nat → Bool
opaque outsideSilent : Nat → Nat → Bool

/-- Whether the context of another package that a rank list names has a JOBID of its own that differs from that of the member here, at a moment
(R290; assumption log 8). -/
opaque outsideJob : Nat → Nat → Nat → Bool

/-- The fuses (R471, R473, R482): the four key hashes and which of them are revoked, the least security version, whether the debug fuse is blown,
and the digest of the fuse state. -/
opaque keyHash : Nat → BitVec 384
opaque keyRevoked : Nat → Bool
opaque minVersion : Nat
opaque debugFuse : Bool
opaque fuseDigest : BitVec 384

/-- The keys and signatures of attestation (R474): the identity key, derived from a fused secret, and Dunuisia's signature of its certificate; the alias key, derived
from that secret and slots 0 to 3; and what each of the two keys signs for a digest (assumption log 28). -/
opaque identityKey : BitVec 768
opaque makerSig : BitVec 768
opaque aliasKey : List (BitVec 384) → BitVec 768
opaque identitySign : BitVec 384 → BitVec 768
opaque aliasSign : List (BitVec 384) → BitVec 384 → BitVec 768

/-- Bytes of the undo-log region that one logged line takes (R352, R354; assumption log 31). -/
opaque undoRecord : Nat

end Sys2Proof.Config
end

