-- ==== Sys2Proof/Machine/Flags.lean ====
section
/-! DEFINITION. The machine's only arithmetic flags: the statistics kinds of R61, counted by the helper functions and gathered in
count sets (R128). -/

namespace Sys2Proof.Machine

/-- Counts made by one operation, one number for each kind of R61. -/
structure Counts where
  ovf : Nat := 0
  nan : Nat := 0
  sat : Nat := 0
  scaleuf : Nat := 0
  flush : Nat := 0
  deriving DecidableEq, Repr

def Counts.zero : Counts := {}

def Counts.add (a b : Counts) : Counts :=
  ⟨a.ovf + b.ovf, a.nan + b.nan, a.sat + b.sat, a.scaleuf + b.scaleuf, a.flush + b.flush⟩

def Counts.sum (l : List Counts) : Counts := l.foldl Counts.add .zero

def cOvf : Counts := { ovf := 1 }
def cNan : Counts := { nan := 1 }
def cSat : Counts := { sat := 1 }
def cScaleuf (n : Nat) : Counts := { scaleuf := n }
def cFlush : Counts := { flush := 1 }

/-- A 32-bit counter that saturates (R128, R237, R281). -/
def sat32 (n : Nat) : Nat := min n 0xFFFFFFFF

/-- The count set after a firing or task made counts (R128). -/
def Counts.gather (set new : Counts) : Counts :=
  ⟨sat32 (set.ovf + new.ovf), sat32 (set.nan + new.nan), sat32 (set.sat + new.sat), sat32 (set.scaleuf + new.scaleuf),
   sat32 (set.flush + new.flush)⟩

/-- The counters in the order of R61, as STAT emits them (R156). -/
def Counts.toList (c : Counts) : List Nat := [c.ovf, c.nan, c.sat, c.scaleuf, c.flush]

end Sys2Proof.Machine
end

