-- ==== Sys2Proof/Machine/Real.lean ====
section
/-! DEFINITION. Exact values: rationals with a sign on zero, infinities and NaN, and their exact arithmetic.
R13 (real operators compute exact results), R60 (NaN), R81 (special values in exact sums), R126 (IEEE 754 for special operands). -/

namespace Sys2Proof.Machine

/-- Rounding modes (R71). -/
inductive Rm where
  | rne | rtz | rup | rdn | sr
  deriving DecidableEq, Repr

/-- An exact value: a NaN or an infinity with its sign, or the magnitude `num / den` with a sign that zero keeps. -/
inductive XR where
  | nan (neg : Bool)
  | inf (neg : Bool)
  | fin (neg : Bool) (num den : Nat)
  deriving DecidableEq, Repr

def XR.isNan : XR → Bool | .nan _ => true | _ => false
def XR.isInf : XR → Bool | .inf _ => true | _ => false
def XR.isFin : XR → Bool | .fin .. => true | _ => false
def XR.neg? : XR → Bool | .nan s => s | .inf s => s | .fin s _ _ => s
def XR.isZero : XR → Bool | .fin _ n _ => n == 0 | _ => false

/-- The value zero of a sign. -/
def XR.zero (neg : Bool) : XR := .fin neg 0 1

/-- An exact integer. -/
def XR.ofInt (v : Int) : XR := .fin (decide (v < 0)) v.natAbs 1

/-- `m · 2^e` with a sign. -/
def XR.dyadic (neg : Bool) (m : Nat) (e : Int) : XR :=
  if e ≥ 0 then .fin neg (m * 2 ^ e.toNat) 1 else .fin neg m (2 ^ (-e).toNat)

/-- Multiplication by a power of two. -/
def XR.scale (x : XR) (e : Int) : XR :=
  match x with
  | .fin s n d => if e ≥ 0 then .fin s (n * 2 ^ e.toNat) d else .fin s n (d * 2 ^ (-e).toNat)
  | y => y

def XR.negate : XR → XR
  | .nan s => .nan (!s)
  | .inf s => .inf (!s)
  | .fin s n d => .fin (!s) n d

def XR.abs : XR → XR
  | .nan _ => .nan false
  | .inf _ => .inf false
  | .fin _ n d => .fin false n d

/-- The signed numerator over the (positive) denominator. -/
def XR.toInt : XR → Int
  | .fin s n _ => if s then -(n : Int) else n
  | _ => 0

def XR.den : XR → Nat
  | .fin _ _ d => d
  | _ => 1

/-- Order of two finite values, −0 equal to +0. -/
def XR.ltFin (a b : XR) : Bool := decide (a.toInt * b.den < b.toInt * a.den)
def XR.eqFin (a b : XR) : Bool := decide (a.toInt * b.den = b.toInt * a.den)

/-- IEEE comparison: false when an operand is NaN (R140). -/
def XR.lt (a b : XR) : Bool :=
  match a, b with
  | .nan _, _ => false
  | _, .nan _ => false
  | .inf s, .inf t => s && !t
  | .inf s, .fin .. => s
  | .fin .., .inf t => !t
  | .fin .., .fin .. => a.ltFin b

def XR.eq (a b : XR) : Bool :=
  match a, b with
  | .nan _, _ => false
  | _, .nan _ => false
  | .inf s, .inf t => s == t
  | .fin .., .fin .. => a.eqFin b
  | _, _ => false

def XR.le (a b : XR) : Bool := a.lt b || a.eq b

/-- Exact product; 0 · ∞ is a NaN of positive sign (R60). -/
def XR.mul (a b : XR) : XR :=
  match a, b with
  | .nan _, _ => .nan false
  | _, .nan _ => .nan false
  | .inf s, .inf t => .inf (s != t)
  | .inf s, .fin t n _ => if n = 0 then .nan false else .inf (s != t)
  | .fin s n _, .inf t => if n = 0 then .nan false else .inf (s != t)
  | .fin s n d, .fin t n' d' => .fin (s != t) (n * n') (d * d')

/-- Sum of two signed fractions over a common denominator (kept small where one divides the other). -/
def addFrac (a : Int) (b : Nat) (c : Int) (d : Nat) : Int × Nat :=
  if b = d then (a + c, b)
  else if d % b = 0 then (a * (d / b : Nat) + c, d)
  else if b % d = 0 then (a + c * (b / d : Nat), b)
  else (a * d + c * b, b * d)

/-- Exact sum of two finite values as numerator and denominator. -/
def sumFrac : List XR → Int × Nat
  | [] => (0, 1)
  | x :: xs => let (a, b) := sumFrac xs; addFrac x.toInt x.den a b

/-- The exact sum of a list (R81): NaN when a term is NaN or infinities of both signs occur, an infinity when those of one
sign occur. An exact zero is −0 when every term is −0, else +0, or −0 under RDN (IEEE 754-2019, R126). -/
def XR.sum (rm : Rm) (l : List XR) : XR :=
  if l.any XR.isNan then .nan false
  else
    let pi := l.any (fun x => x.isInf && !x.neg?)
    let ni := l.any (fun x => x.isInf && x.neg?)
    if pi && ni then .nan false
    else if pi then .inf false
    else if ni then .inf true
    else
      let (a, b) := sumFrac l
      if a = 0 then
        let allNeg := l.all (fun x => x.neg?)
        let allPos := l.all (fun x => !x.neg?)
        .fin (if allNeg && !l.isEmpty then true else if allPos && l.all XR.isZero then false else rm == .rdn) 0 1
      else .fin (decide (a < 0)) a.natAbs b

def XR.add (rm : Rm) (a b : XR) : XR := XR.sum rm [a, b]

/-- Exact quotient (R142): x/0 is an infinity, 0/0 and ∞/∞ are NaN. -/
def XR.div (a b : XR) : XR :=
  match a, b with
  | .nan _, _ => .nan false
  | _, .nan _ => .nan false
  | .inf _, .inf _ => .nan false
  | .inf s, .fin t _ _ => .inf (s != t)
  | .fin s _ _, .inf t => .zero (s != t)
  | .fin s n d, .fin t n' d' =>
    if n' = 0 then (if n = 0 then .nan false else .inf (s != t)) else .fin (s != t) (n * d') (d * n')

/-- `floor_log2` of a positive fraction: the `e` with 2^e ≤ n/d < 2^(e+1) (R76). -/
def floorLog2 (n d : Nat) : Int :=
  let e : Int := (n.log2 : Int) - d.log2
  let ge := if e ≥ 0 then decide (d * 2 ^ e.toNat ≤ n) else decide (d ≤ n * 2 ^ (-e).toNat)
  if ge then e else e - 1

/-- `floor_log2` of the magnitude of a nonzero finite value. -/
def XR.floorLog2 : XR → Int
  | .fin _ n d => Machine.floorLog2 n d
  | _ => 0

/-- `round_int` (R73): a non-negative fraction `n/d` of a value of sign `s` rounded to an integer. `rb` are the random bits of an
element, absent where its random lane is invalid, and then SR acts as RNE (R72). -/
def roundInt (n d : Nat) (rm : Rm) (s : Bool) (rb : Option Nat) (rw : Nat) : Nat :=
  let lo := n / d
  let r := n % d
  let nearest := if 2 * r > d || (2 * r == d && lo % 2 == 1) then lo + 1 else lo
  if r = 0 then lo
  else match rm with
    | .rne => nearest
    | .rtz => lo
    | .rup => if s then lo else lo + 1
    | .rdn => if s then lo + 1 else lo
    | .sr => match rb with
      | none => nearest
      | some b => if r * 2 ^ rw / d > b then lo + 1 else lo

/-- Larger magnitude first element: the greatest finite magnitude of a list, 0 where none is finite (R76). -/
def amaxFin (l : List XR) : XR :=
  l.foldl (fun m x => match x with
    | .fin _ n d => if m.ltFin (.fin false n d) then .fin false n d else m
    | _ => m) (.zero false)

end Sys2Proof.Machine
end

