-- ==== Sys2Proof/Machine/Formats.lean ====
section
/-! DEFINITION. Number formats: encodings, `decode_fp`, `scaled_in`, `round_to`, `to_int`, block scales and quantisation
(R54 to R79), and the sums of R80 to R84. Every helper returns its result with the counts it made (R61). -/

namespace Sys2Proof.Machine

/-! ### Floating-point formats (R58) -/

/-- A floating-point format: exponent bits, trailing bits, bias, greatest finite value `maxSig · 2^(maxExp − m)`. -/
structure FpFmt where
  ebits : Nat
  m : Nat
  bias : Nat
  narrow : Bool
  hasNan : Bool
  maxSig : Nat
  maxExp : Int
  deriving DecidableEq, Repr

def FpFmt.w (f : FpFmt) : Nat := 1 + f.ebits + f.m

def fp64 : FpFmt := ⟨11, 52, 1023, false, true, 2 ^ 53 - 1, 1023⟩
def fp32 : FpFmt := ⟨8, 23, 127, false, true, 2 ^ 24 - 1, 127⟩
def fbf16 : FpFmt := ⟨8, 7, 127, false, true, 255, 127⟩
def ffp16 : FpFmt := ⟨5, 10, 15, false, true, 2047, 15⟩
def fe4m3 : FpFmt := ⟨4, 3, 7, true, true, 14, 8⟩
def fe5m2 : FpFmt := ⟨5, 2, 15, true, true, 7, 15⟩
def fe2m3 : FpFmt := ⟨2, 3, 1, true, false, 15, 2⟩
def fe3m2 : FpFmt := ⟨3, 2, 3, true, false, 7, 4⟩
def fe2m1 : FpFmt := ⟨2, 1, 1, true, false, 3, 2⟩

/-- The canonical NaN, with its sign clear (R58, R60). -/
def FpFmt.canonNan (f : FpFmt) : Nat :=
  if f = fe4m3 then 0x7F
  else (2 ^ f.ebits - 1) * 2 ^ f.m + 2 ^ (f.m - 1)

def FpFmt.signBit (f : FpFmt) (neg : Bool) : Nat := if neg then 2 ^ (f.ebits + f.m) else 0

/-- The code of an infinity of a format that has one (R58). -/
def FpFmt.infCode (f : FpFmt) (neg : Bool) : Nat := f.signBit neg + (2 ^ f.ebits - 1) * 2 ^ f.m

/-- The code of a magnitude `k · 2^(e − m)` with `e` at least `1 − bias`. -/
def FpFmt.pack (f : FpFmt) (neg : Bool) (k : Nat) (e : Int) : Nat :=
  let (k, e) := if k ≥ 2 ^ (f.m + 1) then (k / 2, e + 1) else (k, e)
  if k < 2 ^ f.m then f.signBit neg + k
  else f.signBit neg + (e + f.bias).toNat * 2 ^ f.m + (k - 2 ^ f.m)

/-- `max_code(f, s)` (R74). -/
def FpFmt.maxCode (f : FpFmt) (neg : Bool) : Nat := f.pack neg f.maxSig f.maxExp

def FpFmt.isNanCode (f : FpFmt) (b : Nat) : Bool :=
  let e := fld b (f.ebits + f.m - 1) f.m
  let t := fld b (f.m - 1) 0
  if f = fe4m3 then e == 15 && t == 7
  else f.hasNan && e == 2 ^ f.ebits - 1 && t != 0

def FpFmt.isInfCode (f : FpFmt) (b : Nat) : Bool :=
  let e := fld b (f.ebits + f.m - 1) f.m
  let t := fld b (f.m - 1) 0
  f != fe4m3 && f.hasNan && e == 2 ^ f.ebits - 1 && t == 0

/-- `decode_fp` (R70). -/
def decodeFp (f : FpFmt) (b : Nat) : XR :=
  let s := bitAt b (f.ebits + f.m)
  let e := fld b (f.ebits + f.m - 1) f.m
  let t := fld b (f.m - 1) 0
  if f.isNanCode b then .nan s
  else if f.isInfCode b then .inf s
  else if e = 0 then XR.dyadic s t (1 - (f.bias : Int) - f.m)
  else XR.dyadic s (2 ^ f.m + t) ((e : Int) - f.bias - f.m)

/-- `abs(x) < f.min_normal` for a finite value (R70, R74). -/
def FpFmt.belowNormal (f : FpFmt) : XR → Bool
  | .fin _ n d => decide (n * 2 ^ (f.bias - 1) < d)
  | _ => false

/-- `scaled_in` (R70): a block scale exponent and the flush test of FPCTL.FTZ. -/
def scaledIn (ftz : Bool) (v : XR) (sc : Int) (cf : FpFmt) : XR × Counts :=
  match v with
  | .fin s _ _ =>
    let y := v.scale sc
    if ftz && !y.isZero && cf.belowNormal y then (.zero s, cFlush) else (y, .zero)
  | _ => (v, .zero)

/-- `round_to` (R74): an exact value rounded once to a floating-point format. -/
def roundTo (ftz : Bool) (x : XR) (f : FpFmt) (rm : Rm) (rb : Option Nat := none) (rw : Nat := 16) : Nat × Counts :=
  match x with
  | .nan s => (if f.hasNan then f.canonNan else f.maxCode s, cNan)
  | .inf s => if f.narrow then (f.maxCode s, cSat) else (f.infCode s, .zero)
  | .fin s n d =>
    if n = 0 then (f.signBit s, .zero)
    else if ftz && f.belowNormal x then (f.signBit s, cFlush)
    else
      let e := max (floorLog2 n d) (1 - (f.bias : Int))
      let sh : Int := e - f.m
      let k := if sh ≥ 0 then roundInt n (d * 2 ^ sh.toNat) rm s rb rw else roundInt (n * 2 ^ (-sh).toNat) d rm s rb rw
      let tooBig := decide (e > f.maxExp) || (decide (e = f.maxExp) && decide (k > f.maxSig))
      if tooBig then
        if f.narrow then (f.maxCode s, cSat)
        else
          let toInf := rm == .rne || rm == .sr || (rm == .rup && !s) || (rm == .rdn && s)
          (if toInf then f.infCode s else f.maxCode s, cOvf)
      else (f.pack s k e, .zero)

/-- `sat_int` (R54). -/
def satInt (v : Int) (n : Nat) (signed : Bool) : Int × Counts :=
  if v < intLo n signed then (intLo n signed, cSat)
  else if v > intHi n signed then (intHi n signed, cSat)
  else (v, .zero)

/-- The exact integer of a value rounded by `round_int` with its sign. -/
def roundSigned (x : XR) (rm : Rm) (rb : Option Nat) (rw : Nat) : Int :=
  match x with
  | .fin s n d => let k := roundInt n d rm s rb rw; if s then -(k : Int) else k
  | _ => 0

/-- `to_int` (R75). -/
def toIntFmt (x : XR) (n : Nat) (signed : Bool) (rm : Rm) (rb : Option Nat := none) (rw : Nat := 16) : Int × Counts :=
  match x with
  | .nan _ => (0, cNan)
  | .inf s => satInt (if s then -(2 ^ n) else 2 ^ n) n signed
  | .fin .. => satInt (roundSigned x rm rb rw) n signed

/-! ### Element formats of tokens (R55, R109, R124) -/

/-- What an element of a format is. -/
inductive ElKind where
  | int (n : Nat) (signed : Bool)
  | fp (f : FpFmt)
  | raw
  | cplx
  deriving DecidableEq, Repr

def fmtKind : Fmt → ElKind
  | .i32 => .int 32 true | .n32 => .int 32 false
  | .i16x2 => .int 16 true | .n16x2 => .int 16 false
  | .i8x4 => .int 8 true | .n8x4 => .int 8 false
  | .i64 => .int 64 true | .n64 => .int 64 false
  | .f32 => .fp fp32 | .f64 => .fp fp64 | .bf16x2 => .fp fbf16 | .f16x2 => .fp ffp16
  | .e4m3x4 => .fp fe4m3 | .e5m2x4 => .fp fe5m2
  | .c64 => .cplx | .b32 => .raw

/-- Width of an element in bits; a complex element is 64 (R55). -/
def fmtBits : Fmt → Nat
  | .i32 | .n32 | .f32 | .b32 => 32
  | .i16x2 | .n16x2 | .bf16x2 | .f16x2 => 16
  | .i8x4 | .n8x4 | .e4m3x4 | .e5m2x4 => 8
  | .i64 | .n64 | .f64 | .c64 => 64

/-- Lane-pair formats (R55). -/
def fmtPair (f : Fmt) : Bool := fmtBits f == 64

/-- Elements held by `n` lanes (R124). -/
def elemsIn (f : Fmt) (n : Nat) : Nat := n * 32 / fmtBits f

/-- The compute format (R70). -/
def computeFmt (f : Fmt) : FpFmt := if f = .f64 then fp64 else fp32

def fmtFp (f : Fmt) : FpFmt := match fmtKind f with | .fp g => g | _ => fp32
def fmtSigned (f : Fmt) : Bool := match fmtKind f with | .int _ s => s | _ => false

/-- The format with an FMT code (R109). -/
def fmtOfCode (c : Nat) : Fmt :=
  match c with
  | 0 => .i32 | 1 => .n32 | 2 => .i16x2 | 3 => .n16x2 | 4 => .i8x4 | 5 => .n8x4 | 6 => .i64 | 7 => .n64
  | 8 => .f32 | 9 => .f64 | 10 => .bf16x2 | 11 => .f16x2 | 12 => .e4m3x4 | 13 => .e5m2x4 | 14 => .c64 | _ => .b32

def fmtCode : Fmt → Nat
  | .i32 => 0 | .n32 => 1 | .i16x2 => 2 | .n16x2 => 3 | .i8x4 => 4 | .n8x4 => 5 | .i64 => 6 | .n64 => 7
  | .f32 => 8 | .f64 => 9 | .bf16x2 => 10 | .f16x2 => 11 | .e4m3x4 => 12 | .e5m2x4 => 13 | .c64 => 14 | .b32 => 15

/-- The rounding mode with a code of R71; codes 5 to 7 are reserved. -/
def rmOfCode? (c : Nat) : Option Rm :=
  match c with
  | 0 => some .rne | 1 => some .rtz | 2 => some .rup | 3 => some .rdn | 4 => some .sr | _ => none

def rmOfCode (c : Nat) : Rm := (rmOfCode? c).getD .rne

/-- Reductions that name SR round by RNE (R73). -/
def rmReduce (c : Nat) : Rm := match rmOfCode c with | .sr => .rne | r => r

/-! ### Block formats (R62 to R69) -/

/-- The target of a block conversion (R149), and the element format of a block (R63, R66). -/
inductive BlkFmt where
  | mxe4m3 | mxe5m2 | mxe2m3 | mxe3m2 | mxfp4 | mxint8 | dx4 | dx6 | dx9
  deriving DecidableEq, Repr

/-- The target with a code of R149; codes 9 to 15 are reserved. -/
def blkOfCode? (c : Nat) : Option BlkFmt :=
  match c with
  | 0 => some .mxe4m3 | 1 => some .mxe5m2 | 2 => some .mxe2m3 | 3 => some .mxe3m2 | 4 => some .mxfp4 | 5 => some .mxint8
  | 6 => some .dx4 | 7 => some .dx6 | 8 => some .dx9 | _ => none

def BlkFmt.isDx : BlkFmt → Bool | .dx4 | .dx6 | .dx9 => true | _ => false
def BlkFmt.size (b : BlkFmt) : Nat := if b.isDx then 16 else 32

/-- Element width in bits (R63, R66). -/
def BlkFmt.w : BlkFmt → Nat
  | .mxe4m3 | .mxe5m2 | .mxint8 | .dx9 => 8
  | .mxe2m3 | .mxe3m2 => 6
  | .mxfp4 => 4
  | .dx4 => 3
  | .dx6 => 5

/-- Magnitude bits of a DX element (R66). -/
def BlkFmt.dxM : BlkFmt → Nat | .dx4 => 2 | .dx6 => 4 | .dx9 => 7 | _ => 0

/-- Bytes of a DX block image (R66, R67). -/
def BlkFmt.image : BlkFmt → Nat | .dx4 => 8 | .dx6 => 12 | .dx9 => 18 | _ => 0

/-- The element format of an MX block; MXINT8 has none (R63). -/
def BlkFmt.fp? : BlkFmt → Option FpFmt
  | .mxe4m3 => some fe4m3 | .mxe5m2 => some fe5m2 | .mxe2m3 => some fe2m3 | .mxe3m2 => some fe3m2 | .mxfp4 => some fe2m1
  | _ => none

/-- `emax_el` (R63; 0 for DX, R78). -/
def BlkFmt.emax : BlkFmt → Int
  | .mxe4m3 => 8 | .mxe5m2 => 15 | .mxe2m3 => 2 | .mxe3m2 => 4 | .mxfp4 => 2 | _ => 0

/-- The exact value of an element of a block before its scale: MXINT8 is i · 2^−6, a DX element its signed magnitude (R63, R66). -/
def BlkFmt.decodeEl (b : BlkFmt) (code : Nat) : XR :=
  match b.fp? with
  | some f => decodeFp f code
  | none =>
    if b = .mxint8 then
      let v := valOf code 8 true
      .fin (decide (v < 0)) v.natAbs 64
    else XR.dyadic (bitAt code b.dxM) (code % 2 ^ b.dxM) 0

/-- The scale exponent of an element: c − 127 for MX, E − 127 − µ − (m − 1) for DX; none for the NaN code 0xFF (R62, R66, R70). -/
def BlkFmt.scaleExp (b : BlkFmt) (c : Nat) (mu : Nat) (j : Nat) : Option Int :=
  if c = 0xFF then none
  else if b.isDx then some ((c : Int) - 127 - boolNat (bitAt mu (j / 2)) - (b.dxM - 1))
  else some ((c : Int) - 127)

/-- `block_scale` (R76) of an amax, for blocks of `size` elements. -/
def blockScale (amax : XR) (emax : Int) (size : Nat) : Nat × Counts :=
  match amax with
  | .fin _ n d =>
    if n = 0 then (0, .zero)
    else
      let c := floorLog2 n d - emax + 127
      if c < 0 then (0, cScaleuf size)
      else if c > 254 then (254, cSat)
      else (c.toNat, .zero)
  | _ => (0, .zero)

/-- `sat_int_sym` (R77). -/
def satIntSym (k : Int) : Int × Counts :=
  if k > 127 then (127, cSat) else if k < -127 then (-127, cSat) else (k, .zero)

/-- `to_int_unchecked` (R77): an infinity becomes ±2^40. -/
def toIntUnchecked (y : XR) (rm : Rm) (rb : Option Nat) (rw : Nat) : Int :=
  match y with
  | .inf s => if s then -(2 ^ 40) else 2 ^ 40
  | _ => roundSigned y rm rb rw

/-- One MXINT8 element under scale exponent `x` (R77, R268). -/
def quantMxint8 (v : XR) (x : Int) (rm : Rm) (rb : Option Nat) (rw : Nat) : Int × Counts :=
  match v with
  | .nan s => (if s then -127 else 127, cNan)
  | _ => satIntSym (toIntUnchecked (v.scale (6 - x)) rm rb rw)

/-- One MX element under scale code `c` (R77). -/
def quantMxEl (ftz : Bool) (b : BlkFmt) (v : XR) (c : Nat) (rm : Rm) (rb : Option Nat) (rw : Nat) : Nat × Counts :=
  let x : Int := (c : Int) - 127
  match b.fp? with
  | some f => roundTo ftz (v.scale (-x)) f rm rb rw
  | none => let (k, n) := quantMxint8 v x rm rb rw; (patOf k 8, n)

/-- The micro-exponent byte of `quant_dx` for scale exponent `x` (R78). -/
def dxMicro (v : List XR) (x : Int) : Nat :=
  ((List.range 8).map fun p =>
    let pm := amaxFin ((v.drop (2 * p)).take 2)
    if pm.ltFin (XR.dyadic false 1 x) then 2 ^ p else 0).sum

/-- One DX element under shared exponent code `e` and micro-exponent byte `mu` (R78). -/
def quantDxEl (b : BlkFmt) (v : XR) (e mu j : Nat) (rm : Rm) (rb : Option Nat) (rw : Nat) : Nat × Counts :=
  let x : Int := (e : Int) - 127
  let u := boolNat (bitAt mu (j / 2))
  let top := 2 ^ b.dxM - 1
  let sgn := fun s : Bool => if s then 2 ^ b.dxM else 0
  match v with
  | .nan s => (sgn s + top, cNan)
  | .inf s => (sgn s + top, cSat)
  | .fin s _ _ =>
    let k := (roundSigned ((v.scale ((b.dxM : Int) - 1 - x + u)).abs) (match rm with | .rup => if s then .rtz else .rup | .rdn => if s then .rup else .rtz | r => r) rb rw).natAbs
    if k > top then (sgn s + top, cSat) else (sgn s + k, .zero)

/-- The scale that a block's values give: the MX code, or E and the micro-exponent byte (R76 to R78, R152). -/
def computeScale (b : BlkFmt) (v : List XR) : (Nat × Nat) × Counts :=
  let (c, n) := blockScale (amaxFin v) b.emax b.size
  ((c, if b.isDx then dxMicro v ((c : Int) - 127) else 0), n)

/-- A block quantised under a scale, computed or supplied (R77 to R79): element codes and counts. -/
def quantBlock (ftz : Bool) (b : BlkFmt) (v : List XR) (c mu : Nat) (rm : Rm) (rbs : List (Option Nat)) (rw : Nat) : List Nat × Counts :=
  let r := (indexed v).map fun (j, x) =>
    let rb := (rbs[j]?).getD none
    if b.isDx then quantDxEl b x c mu j rm rb rw else quantMxEl ftz b x c rm rb rw
  (r.map (·.1), Counts.sum (r.map (·.2)))

/-- An element of a block decoded with its scale: `scaled_in(decode(element), sc)`, NaN under the NaN scale (R62, R66, R70). -/
def blockValue (ftz : Bool) (b : BlkFmt) (code c mu j : Nat) (cf : FpFmt) : XR × Counts :=
  match b.scaleExp c mu j with
  | none => (.nan false, .zero)
  | some sc => scaledIn ftz (b.decodeEl code) sc cf

/-! ### Sums (R80 to R84) -/

/-- `add_rounded` for a floating-point format (R82). -/
def addRoundedFp (ftz : Bool) (a b : XR) (f : FpFmt) (rm : Rm) : Nat × Counts := roundTo ftz (XR.add rm a b) f rm

/-- `exact_sum` of products (R80, R81, R84). -/
def dotExact (a b : List XR) : XR := XR.sum .rne (List.zipWith XR.mul a b)

/-- `cell_group` (R80): the accumulator is held as its code in `af`. -/
def cellGroup (ftz : Bool) (acc : Nat) (a b : List XR) (af : FpFmt) : Nat × Counts :=
  let (t, c1) := roundTo ftz (dotExact a b) af .rne
  let (r, c2) := roundTo ftz (XR.add .rne (decodeFp af acc) (decodeFp af t)) af .rne
  (r, c1.add c2)

/-- `cell_group_int` (R80). -/
def cellGroupInt (acc : Int) (a b : List Int) : Int × Counts :=
  satInt (acc + (List.zipWith (· * ·) a b).sum) 32 true

/-- Minimum and maximum of two values with −0 below +0; a single NaN gives the other operand (R141). The answer is one of the
operands, or a NaN. -/
def fminmax (isMax : Bool) (a b : XR) : XR :=
  if a.isNan then (if b.isNan then .nan false else b)
  else if b.isNan then a
  else
    let less := a.lt b || (a.eq b && a.neg? && !b.neg?)
    if isMax then (if less then b else a) else (if less then a else b)

end Sys2Proof.Machine
end

