-- ==== Sys2Proof/Machine/Token.lean ====
section
/-! DEFINITION. Tokens: tags, classes, payload lanes with valid bits, and physical destinations (R16 to R19, R105, R106). -/

namespace Sys2Proof.Machine

/-- One lane: 32 bits and its valid bit (R16). -/
structure Lane where
  val : Word
  ok : Bool
  deriving DecidableEq, Repr

/-- The payload of a token: 8, 16, 32, 64 or 128 lanes. -/
abbrev Payload := List Lane

/-- An invalid lane of zero bits (R125). -/
def Lane.none : Lane := ⟨0, false⟩
def Lane.some (v : Nat) : Lane := ⟨BitVec.ofNat 32 v, true⟩
def Lane.nat (l : Lane) : Nat := l.val.toNat

/-- Lane `j` of an operand. -/
def laneOf (p : Payload) (j : Nat) : Lane := (p[j]?).getD .none

/-- The context, activation frame and iteration of a token (R17). -/
structure Tag where
  cid : BitVec 6
  frame : BitVec 14
  iter : BitVec 16
  deriving DecidableEq, Repr

/-- Match actions; code 3 is never produced (R19, R23). -/
inductive Ma where
  | once | sticky | purge
  deriving DecidableEq, Repr

/-- Token classes; code 7 is never produced (R16, R19). -/
inductive Cls where
  | data | scale | stat | marker | control | fault | resume
  deriving DecidableEq, Repr

/-- A physical destination (R105): compute die 0–3, physical page 0–79, FE 0–63 (8·row + column), node and port. -/
structure Dest where
  die : Nat
  page : Nat
  fe : Nat
  node : Nat
  port : Port
  deriving DecidableEq, Repr

/-- A token (R16). Its WID is that of its payload's length. -/
structure Token where
  tag : Tag
  seq : BitVec 26
  ma : Ma
  poi : Bool
  cls : Cls
  lvl : BitVec 3
  payload : Payload
  dest : Dest
  deriving DecidableEq, Repr

/-- WID of a lane count: 0 to 4 for 8 to 128 lanes. -/
def widOf (lanes : Nat) : Nat := (lanes / 8).log2

def Token.wid (t : Token) : Nat := widOf t.payload.length

/-- Lanes of a WID. -/
def lanesOf (wid : Nat) : Nat := 8 * 2 ^ wid

def clsCode : Cls → Nat
  | .data => 0 | .scale => 1 | .stat => 2 | .marker => 3 | .control => 4 | .fault => 5 | .resume => 6

def clsOf? (c : Nat) : Option Cls :=
  match c with
  | 0 => some .data | 1 => some .scale | 2 => some .stat | 3 => some .marker | 4 => some .control | 5 => some .fault
  | 6 => some .resume | _ => none

def maCode : Ma → Nat | .once => 0 | .sticky => 1 | .purge => 2
def maOf? (c : Nat) : Option Ma := match c with | 0 => some .once | 1 => some .sticky | 2 => some .purge | _ => none

def portCode : Port → Nat | .l => 0 | .r => 1 | .c => 2 | .p => 3
def portOf (c : Nat) : Port := match c % 4 with | 0 => .l | 1 => .r | 2 => .c | _ => .p

/-- Number of an FE in the package: die, page and FE together. -/
def feKey (die page fe : Nat) : Nat := (die * 80 + page) * 64 + fe

def Dest.key (d : Dest) : Nat := feKey d.die d.page d.fe

/-- The destination at an FE key. -/
def destAt (key node : Nat) (port : Port) : Dest := ⟨key / 5120, key / 64 % 80, key % 64, node, port⟩

/-- Page number in the package of an FE key. -/
def pageOfFe (key : Nat) : Nat := key / 64

/-- The 13-bit DFE of a destination (R105). -/
def Dest.dfe (d : Dest) : Nat := d.page * 64 + d.fe

/-- The header of a token as a 128-bit number (R105). -/
def Token.header (t : Token) : Nat :=
  t.tag.cid.toNat * 2 ^ 122 + t.tag.frame.toNat * 2 ^ 108 + t.tag.iter.toNat * 2 ^ 92 + t.seq.toNat * 2 ^ 66
  + maCode t.ma * 2 ^ 64 + boolNat t.poi * 2 ^ 63 + clsCode t.cls * 2 ^ 60 + t.lvl.toNat * 2 ^ 57 + t.wid * 2 ^ 54
  + t.dest.die * 2 ^ 52 + t.dest.dfe * 2 ^ 39 + t.dest.node * 2 ^ 29 + portCode t.dest.port * 2 ^ 27

/-- The lane-valid mask (R107). -/
def maskOf (p : Payload) : Nat := ((indexed p).map fun (j, l) => if l.ok then 2 ^ j else 0).sum

/-- A token image (R108). -/
def Token.image (t : Token) : List Byte :=
  bytesOf t.header 16 ++ bytesOf (maskOf t.payload) 16 ++ t.payload.flatMap (fun l => bytesOf l.nat 4)

/-- Lanes from bytes, under a mask. -/
def lanesOfBytes (mask : Nat) (bs : List Byte) (n : Nat) : Payload :=
  (indexed (chunks 4 n bs)).map fun (j, w) => ⟨BitVec.ofNat 32 (natOfBytes w), bitAt mask j⟩

/-- The token of an image (R108); none where it holds a reserved code. -/
def tokenOfImage? (bs : List Byte) : Option Token :=
  let h := natOfBytes (bs.take 16)
  let mask := natOfBytes ((bs.drop 16).take 16)
  let wid := fld h 56 54
  match maOf? (fld h 65 64), clsOf? (fld h 62 60) with
  | some ma, some cls =>
    if wid > 4 then none
    else some { tag := ⟨BitVec.ofNat 6 (fld h 127 122), BitVec.ofNat 14 (fld h 121 108), BitVec.ofNat 16 (fld h 107 92)⟩
                seq := BitVec.ofNat 26 (fld h 91 66), ma, poi := bitAt h 63, cls, lvl := BitVec.ofNat 3 (fld h 59 57)
                payload := lanesOfBytes mask (bs.drop 32) (lanesOf wid)
                dest := ⟨fld h 53 52, fld h 51 45, fld h 44 39, fld h 38 29, portOf (fld h 28 27)⟩ }
  | _, _ => none

end Sys2Proof.Machine
end

