-- ==== Sys2Proof/Machine/Accept.lean ====
section
/-! DEFINITION. What each opcode accepts: the FMT, ARY, PRD and TGA codes, the LIT bits it reads, the ports it uses and the token classes
they take (R111, R123, R127, R130, R166 to R168, R201 to R207, R241, R242, R270, R271, and the tables of each instruction). -/

namespace Sys2Proof.Machine

def aryCode : Ary → Nat | .l => 0 | .lr => 1 | .lrc => 2 | .lit => 3
def aryOf (c : Nat) : Ary := match c % 4 with | 0 => .l | 1 => .lr | 2 => .lrc | _ => .lit
def prdCode : Prd → Nat | .none => 0 | .t => 1 | .f => 2 | .steer => 3
def prdOf (c : Nat) : Prd := match c % 4 with | 0 => .none | 1 => .t | 2 => .f | _ => .steer
def tgaCode : Tga → Nat | .keep => 0 | .inc => 1 | .zero => 2 | .liti => 3 | .fnew => 4 | .fret => 5 | .dec => 6
def tgaOf? (c : Nat) : Option Tga :=
  match c with
  | 0 => some .keep | 1 => some .inc | 2 => some .zero | 3 => some .liti | 4 => some .fnew | 5 => some .fret | 6 => some .dec
  | _ => none

/-- A row of the opcode map: opcode, mode bits of LIT that tell rows of one opcode apart, accepted codes, and the LIT bits that have a
meaning (the others are reserved). -/
structure Row where
  opc : Nat
  fmts : List Nat
  arys : List Nat
  prds : List Nat := [0, 1, 2, 3]
  tgas : List Nat := [0, 1, 2, 3, 6]
  mask : Nat := 0xFFFFFFFF
  modeMask : Nat := 0
  mode : Nat := 0
  destNone : Bool := false
  sink : Bool := false
  seqZero : Bool := false
  priv : Bool := false
  deriving DecidableEq, Repr

def cInt : List Nat := [0, 1, 2, 3, 4, 5, 6, 7]
def cSint : List Nat := [0, 2, 4, 6]
def cBit : List Nat := cInt ++ [15]
def cFp : List Nat := [8, 9, 10, 11]
def cFps : List Nat := [8, 10, 11]
def cF8 : List Nat := [12, 13]
def cAny : List Nat := List.range 16

/-- Rows of chapter 4 with LIT unused, and with LIT fields (TGA 3 refused, R123). -/
def rowU (opc : Nat) (fmts arys : List Nat) : Row := { opc, fmts, arys }
def rowF (opc : Nat) (fmts arys : List Nat) (mask : Nat) : Row := { opc, fmts, arys, mask, tgas := [0, 1, 2, 6] }

/-- Rows of chapter 5: FMT 0, and TGA as given (R166). -/
def rowC (opc : Nat) (arys prds tgas : List Nat) (mask : Nat) : Row := { opc, fmts := [0], arys, prds, tgas, mask }

/-- Rows of chapter 6: address class (ARY 0, 1) and value class (ARY 1, 2), PRD 0 to 2, TGA 0, 1, 2, 6 (R201, R204). -/
def rowA (opc : Nat) (fmts : List Nat) (mask : Nat) : Row :=
  { opc, fmts, arys := [0, 1], prds := [0, 1, 2], tgas := [0, 1, 2, 6], mask }
def rowV (opc : Nat) (fmts : List Nat) (mask : Nat) : Row :=
  { opc, fmts, arys := [1, 2], prds := [0, 1, 2], tgas := [0, 1, 2, 6], mask }

/-- LIT bits of the memory literal, of LDS and STS, and of the atomics (R206, R214, R216). -/
def litMem : Nat := 0x001FFFFF
def litScratch : Nat := 0x000FE000
def litAtom : Nat := 0x0001FFFF

def rowArith : Instr → Option Row
  | .id _ => some (rowU 0x01 cAny [0])
  | .const _ => some (rowF 0x02 cAny [0] 0xFFFFFFFF)
  | .add _ => some (rowU 0x03 cInt [1, 3])
  | .sub _ => some (rowU 0x04 cInt [1, 3])
  | .adds _ => some (rowU 0x05 cInt [1, 3])
  | .subs _ => some (rowU 0x06 cInt [1, 3])
  | .neg _ => some (rowU 0x07 cInt [0])
  | .abs _ => some (rowU 0x08 cSint [0])
  | .mul _ => some (rowU 0x09 cInt [1, 3])
  | .mulh _ => some (rowU 0x0A cInt [1, 3])
  | .mad _ => some (rowU 0x0B cInt [2])
  | .div _ => some (rowU 0x0C cInt [1, 3])
  | .rem _ => some (rowU 0x0D cInt [1, 3])
  | .min _ => some (rowU 0x0E cInt [1, 3])
  | .max _ => some (rowU 0x0F cInt [1, 3])
  | .and _ => some (rowU 0x10 cBit [1, 3])
  | .or _ => some (rowU 0x11 cBit [1, 3])
  | .xor _ => some (rowU 0x12 cBit [1, 3])
  | .not _ => some (rowU 0x13 cBit [0])
  | .andn _ => some (rowU 0x14 cBit [1, 3])
  | .shl _ => some (rowU 0x15 cInt [1, 3])
  | .shr _ => some (rowU 0x16 cInt [1, 3])
  | .sar _ => some (rowU 0x17 cInt [1, 3])
  | .rol _ => some (rowU 0x18 cInt [1, 3])
  | .clz _ => some (rowU 0x19 cInt [0])
  | .popc _ => some (rowU 0x1A cInt [0])
  | .brev _ => some (rowU 0x1B cBit [0])
  | .bfx _ => some (rowF 0x1C cInt [0] 0x3FFF)
  | .bfi _ => some (rowF 0x1D cInt [1] 0x1FFF)
  | .sel _ => some (rowU 0x1E cBit [2])
  | .cmpeq _ => some (rowU 0x1F cInt [1, 3])
  | .cmpne _ => some (rowU 0x20 cInt [1, 3])
  | .cmplt _ => some (rowU 0x21 cInt [1, 3])
  | .cmple _ => some (rowU 0x22 cInt [1, 3])
  | .cmpltn _ => some (rowU 0x23 cInt [1, 3])
  | .cmplen _ => some (rowU 0x24 cInt [1, 3])
  | .addc _ => some (rowU 0x25 [1, 7] [2])
  | .subb _ => some (rowU 0x26 [1, 7] [2])
  | .lea _ => some (rowF 0x27 [7] [1] 0xFFFFFF07)
  | .far _ => some { opc := 0x28, fmts := [0], arys := [0], prds := [0], tgas := [0], mask := 0x01FFFFFF, destNone := true, seqZero := true }
  | .tagv _ => some (rowF 0x29 [1] [0] 0x3)
  | .clamp _ => some (rowU 0x2A cInt [2])
  | .hash _ => some (rowU 0x2B [1] [1, 3])
  | .rnd _ => some (rowF 0x2C [1] [1] 0x1)
  | .fadd _ => some (rowU 0x40 cFp [1, 3])
  | .fsub _ => some (rowU 0x41 cFp [1, 3])
  | .fmul _ => some (rowU 0x42 cFp [1, 3])
  | .ffma _ => some (rowU 0x43 cFp [2])
  | .ffms _ => some (rowU 0x44 cFp [2])
  | .fmin _ => some (rowU 0x45 cFp [1, 3])
  | .fmax _ => some (rowU 0x46 cFp [1, 3])
  | .fabs _ => some (rowU 0x47 cFp [0])
  | .fneg _ => some (rowU 0x48 cFp [0])
  | .fcmpeq _ => some (rowU 0x49 cFp [1, 3])
  | .fcmplt _ => some (rowU 0x4A cFp [1, 3])
  | .fcmple _ => some (rowU 0x4B cFp [1, 3])
  | .fcmpun _ => some (rowU 0x4C cFp [1, 3])
  | .frcp _ => some (rowU 0x4D cFp [0])
  | .frsq _ => some (rowU 0x4E cFps [0])
  | .fsqrt _ => some (rowU 0x4F cFp [0])
  | .fdiv _ => some (rowU 0x50 cFp [1, 3])
  | .fexp2 _ => some (rowU 0x51 cFps [0])
  | .flog2 _ => some (rowU 0x52 cFps [0])
  | .fsin _ => some (rowU 0x53 cFps [0])
  | .fcos _ => some (rowU 0x54 cFps [0])
  | .ftanh _ => some (rowU 0x55 cFps [0])
  | .frnd _ => some (rowF 0x56 cFp [0, 1] 0x7)
  | .fclass _ => some (rowU 0x57 cFp [0])
  | .fscale _ => some (rowU 0x58 cFp [1, 3])
  | .cvtf _ => some (rowF 0x59 (cFp ++ cF8) [0, 1] 0x7F7)
  | .cvtfi _ => some (rowF 0x5A (cFp ++ cF8) [0, 1] 0x7F7)
  | .cvtif _ => some (rowF 0x5B cInt [0, 1] 0x7F7)
  | .cmul _ => some (rowF 0x5C [14] [1] 0x8)
  | .cfma _ => some (rowF 0x5D [14] [2] 0x8)
  | .dot2 _ => some (rowU 0x5E [10, 11] [1, 2])
  | .dot4 _ => some (rowF 0x5F [12, 13, 4, 5] [1, 2] 0x10)
  | .amax _ => some (rowF 0x70 cFps [0, 1] 0x3)
  | .scaleq _ => some (rowF 0x71 cFps [0] 0xF0)
  | .qnt _ => some (rowF 0x72 cFps [0, 1, 2, 3] 0xF7)
  | .dqnt _ => some (rowF 0x73 cFps [0, 1] 0x7F7)
  | .pack _ => some (rowF 0x74 [4, 5] [0] 0xF)
  | .unpack _ => some (rowF 0x75 [4, 5] [0] 0x70F)
  | .stat _ => some (rowF 0x76 [1] [0] 0x1)
  | .ssum _ => some (rowU 0x77 [1] [1])
  | .cvtsDec _ => some { rowF 0x78 [1] [0] 0x703 with modeMask := 1, mode := 0 }
  | .cvtsEnc _ => some { rowF 0x78 [1] [0] 0x703 with modeMask := 1, mode := 1 }
  | .bcast _ => some (rowF 0x80 [15, 7] [0, 1] 0x7F)
  | .shuf _ => some (rowU 0x81 [15] [1])
  | .perm _ => some (rowF 0x82 [15, 7] [0] 0xFF07)
  | .red _ => some (rowF 0x83 (cInt ++ cFp ++ [15]) [0] 0x1F7)
  | .scan _ => some (rowF 0x84 (cInt ++ cFp ++ [15]) [0, 1] 0x1F7)
  | .laneid _ => some (rowF 0x85 [1] [0] 0xFFFFFFFF)
  | .split _ => some (rowU 0x86 [15] [0])
  | .join _ => some (rowU 0x87 [15] [1])
  | .vmaskSet _ => some { rowF 0x88 [15] [1] 0x1 with modeMask := 1, mode := 0 }
  | .vmaskGet _ => some { rowF 0x88 [15] [0] 0x1 with modeMask := 1, mode := 1 }
  | .compact _ => some (rowU 0x89 [15, 7] [0, 1])
  | .expand _ => some (rowU 0x8A [15, 7] [1])
  | _ => none

/-- TGA of a node whose LIT is unused, has fields, or whose outputs carry their own tag (R166). TAGGET takes the first list too: the table of R185 gives it TGA 0 to 6, but
R94 and R166 leave 4 to FCALL and 5 to FRETN (DEDUCED, log 83). -/
def tgU : List Nat := [0, 1, 2, 3, 6]
def tgF : List Nat := [0, 1, 2, 6]
def tgOwn : List Nat := [0]
def p02 : List Nat := [0, 1, 2]

def rowFlow : Instr → Option Row
  | .steer _ => some (rowC 0x90 [0] [3] tgF 0x1)
  | .merge _ => some (rowC 0x91 [1] [0] tgU 0xFFFFFFFF)
  | .carry _ => some (rowC 0x92 [0] p02 tgOwn 0x7FFF)
  | .loopb _ => some (rowC 0x93 [2] [0] tgOwn 0x3FFFFFFF)
  | .lexit _ => some (rowC 0x94 [0] p02 tgOwn 0xFFFFFFFF)
  | .fan _ => some (rowC 0x95 [0] p02 tgF 0x003FFFFF)
  | .sink _ => some { rowC 0x96 [0] p02 tgU 0xFFFFFFFF with destNone := true, sink := true }
  | .gate _ => some (rowC 0x97 [1] p02 tgU 0xFFFFFFFF)
  | .ord _ => some (rowC 0x98 [1, 2] p02 tgU 0xFFFFFFFF)
  | .fcall _ => some (rowC 0x99 [0] p02 [4] 0xFFFFFFFF)
  | .fretn _ => some { rowC 0x9A [0] p02 [5] 0xFFFFFFFF with destNone := true }
  | .stick _ => some (rowC 0x9B [0] p02 tgU 0xFFFFFFFF)
  | .purge _ => some (rowC 0x9C [0] p02 tgU 0xFFFFFFFF)
  | .eos _ => some (rowC 0x9D [0] p02 tgF 0x7)
  | .eosw _ => some (rowC 0x9E [1] [0] tgU 0xFFFFFFFF)
  | .round _ => some (rowC 0x9F [0] p02 tgOwn 0xFFFFFFFF)
  | .tagset _ => some (rowC 0xA0 [1] p02 tgOwn 0x7)
  | .tagget _ => some (rowC 0xA1 [0] p02 tgU 0xFFFFFFFF)
  | .timer _ => some (rowC 0xA2 [0, 1] p02 tgF 0xFFFFFFFF)
  | .cntr _ => some (rowC 0xA3 [0, 1] p02 tgF 0xFFFFFFFF)
  | .seqsIter _ => some { rowC 0xA4 [1] p02 tgF 0x0FFFFFFF with modeMask := 3, mode := 0, seqZero := true }
  | .seqsLane _ => some { rowC 0xA4 [0] p02 tgF 0x3 with modeMask := 3, mode := 1, seqZero := true }
  | .commitGet _ => some { rowC 0xA5 [0] p02 tgF 0x7FF with modeMask := 0x400, mode := 0 }
  | .commitSet _ => some { rowC 0xA5 [0] p02 tgF 0x7FF with modeMask := 0x400, mode := 0x400 }
  | .launch _ => some (rowC 0xA6 [0] p02 tgU 0xFFFFFFFF)
  | .waitl _ => some (rowC 0xA7 [0] p02 tgU 0xFFFFFFFF)
  | .doneGraph _ => some { rowC 0xA8 [0] p02 tgF 0x1 with modeMask := 1, mode := 0, destNone := true }
  | .doneNext _ => some { rowC 0xA8 [0] p02 tgF 0x1 with modeMask := 1, mode := 1, destNone := true }
  | .trap _ => some { rowC 0xF8 [0] p02 tgF 0xFFFF with destNone := true }
  | .brk _ => some { rowC 0xF9 [0] p02 tgF 0xFFFF with destNone := true }
  | .rdsr _ => some (rowC 0xFA [0, 1] p02 tgF 0x1FFF)
  | .wrsr _ => some (rowC 0xFB [0, 1] p02 tgF 0x1FFF)
  | .yield _ => some (rowC 0xFC [0] p02 tgU 0xFFFFFFFF)
  | .resumeRetry _ => some { rowC 0xFD [0] p02 tgF 0x3 with modeMask := 3, mode := 0, priv := true }
  | .resumeRelease _ => some { rowC 0xFD [0] p02 tgF 0x3 with modeMask := 3, mode := 1, priv := true }
  | .resumeKill _ => some { rowC 0xFD [0] p02 tgF 0x3 with modeMask := 3, mode := 2, priv := true }
  | .halt _ => some { rowC 0xFE [0] p02 tgF 0xFFFF with destNone := true }
  | _ => none

def rowMem : Instr → Option Row
  | .ld _ => some (rowA 0xB0 cAny litMem)
  | .st _ => some (rowV 0xB1 cAny litMem)
  | .lds _ => some (rowA 0xB2 cAny litScratch)
  | .sts _ => some (rowV 0xB3 cAny litScratch)
  | .ldg _ => some (rowA 0xB4 cAny litMem)
  | .stg _ => some (rowV 0xB5 cAny litMem)
  | .atom _ => some (rowV 0xB6 [0, 1, 6, 7] litAtom)
  | .cas _ => some (rowV 0xB7 [0, 1, 6, 7] litAtom)
  | .atomf _ => some (rowV 0xB8 [8, 9] litAtom)
  | .atoms _ => some (rowV 0xB9 [0, 1, 6, 7, 8, 9] litAtom)
  | .xlat _ => some (rowA 0xBA [7] 0x7)
  | .ldp _ => some (rowA 0xBB cAny litMem)
  | .stp _ => some (rowV 0xBC cAny litMem)
  | .sbar _ => some { rowA 0xBD [0] 0xFFF with arys := [0, 1] }
  | .fence _ => some { rowA 0xBE [0] 0x700 with arys := [0] }
  | .flush _ => some (rowA 0xBF [0] 0x10700)
  | .inval _ => some (rowA 0xC0 [0] 0x30700)
  | .bind _ => some { rowA 0xC1 [0] 0x40000 with modeMask := 0x40000, mode := 0 }
  | .bindUnbind _ => some { rowA 0xC1 [0] 0x40000 with modeMask := 0x40000, mode := 0x40000 }
  | .msend _ => some (rowV 0xC2 [0] 0xF)
  | .mrecv _ => some (rowA 0xC3 [0] 0x1F)
  | .pref _ => some (rowA 0xC4 [0] litMem)
  | .ldnode _ => some { rowA 0xC5 [0] 0xFFFFFFFF with tgas := [0, 1, 2, 3, 6], priv := true }
  | .wrnode _ => some { rowV 0xC6 [0] 0xFFFFFFFF with tgas := [0, 1, 2, 3, 6], priv := true }
  | _ => none

/-- Rows of chapters 7 and 8: FMT 0, ARY 0 or 1, PRD 0 to 2 (R241, R270). -/
def rowE (opc : Nat) (mask : Nat) : Row := { opc, fmts := [0], arys := [0, 1], prds := [0, 1, 2], tgas := [0, 1, 2, 6], mask }
def rowEM (opc mask modeMask mode : Nat) : Row := { rowE opc mask with modeMask, mode }

def rowEngine : Instr → Option Row
  | .mtaskRun _ => some (rowEM 0xD0 0x1FFFF 0x18000 0)
  | .mtaskDef _ => some (rowEM 0xD0 0x1FFFF 0x18000 0x08000)
  | .mtaskGo _ => some (rowEM 0xD0 0x1FFFF 0x18000 0x10000)
  | .mzero _ => some (rowE 0xD1 0x187FF)
  | .mdrainTok _ => some (rowEM 0xD2 0xF87FF 0x18000 0)
  | .mdrainMem _ => some (rowEM 0xD2 0x7F87FF 0x18000 0x08000)
  | .mdrainRoute _ => some (rowEM 0xD2 0x1FFFF 0x18000 0x10000)
  | .mwload _ => some (rowE 0xD3 0x7FF)
  | .mtrayCfg _ => some (rowEM 0xD4 0x19FFF 0x18000 0)
  | .mtrayPush _ => some (rowEM 0xD4 0x19FFF 0x18000 0x08000)
  | .mtrayFlush _ => some (rowEM 0xD4 0x19FFF 0x18000 0x10000)
  | .mwait _ => some (rowE 0xD5 0x7FF)
  | .mscale _ => some (rowE 0xD6 0x7FFF)
  | .mconv _ => some (rowE 0xD7 0x7FF)
  | .mstat _ => some (rowE 0xD8 0x87FF)
  | .route _ => some { rowE 0xE0 0x7FFFFFF with arys := [2] }
  | .exdirBase _ => some { rowEM 0xE1 0x1FFF 0x1800 0 with priv := true }
  | .exdirWrite _ => some { rowEM 0xE1 0x1FFF 0x1800 0x0800 with priv := true }
  | .exdirInval _ => some { rowEM 0xE1 0x1FFF 0x1800 0x1000 with priv := true }
  | .combCfg _ => some (rowEM 0xE2 0x1FFF 0x1800 0)
  | .combSync _ => some (rowEM 0xE2 0x1FFF 0x1800 0x0800)
  | .combStat _ => some (rowEM 0xE2 0x3FFF 0x1800 0x1000)
  | .pcopy _ => some (rowE 0xE3 0x7FF)
  | .pgath _ => some (rowE 0xE4 0x7FF)
  | .pscat _ => some (rowE 0xE5 0x7FF)
  | .pfill _ => some (rowE 0xE6 0x7FF)
  | .pdec _ => some (rowE 0xE7 0x7FF)
  | .coll _ => some (rowE 0xE8 0x7FF)
  | .rlinv _ => some (rowE 0xE9 0xFFF)
  | .migr _ => some (rowE 0xF0 0x3FFF)
  | .mpin _ => some (rowEM 0xF1 0xFFF 0x800 0)
  | .mpinOff _ => some (rowEM 0xF1 0xFFF 0x800 0x800)
  | .mrdupMod _ => some (rowEM 0xF2 0x3FFF 0x3800 0x1800)
  | .mrdupSys _ => some { rowEM 0xF2 0x3FFF 0x3800 0x2000 with priv := true }
  | .mhint _ => some (rowE 0xF3 0x1FFF)
  | .bgate _ => some (rowE 0xF4 0x3FFFFFF)
  | .bswap _ => some (rowE 0xF5 0x7FF)
  | .bdiag _ => some (rowE 0xF6 0x3FFFFFF)
  | .bprobNorm _ => some (rowEM 0xF7 0x1FFF 0x1800 0)
  | .bprobMarg _ => some (rowEM 0xF7 0x1FFF 0x1800 0x0800)
  | .bprobSamp _ => some (rowEM 0xF7 0x1FFF 0x1800 0x1000)
  | _ => none

/-- Operand ports of a Hearth or engine node: L, with the after-port C under ARY 1; ROUTE takes L, R and C (R241, R270). -/
def enginePorts (i : Instr) (n : NodeRec) : Option (List Port) :=
  if (rowEngine i).isSome then
    match n.ary with
    | .l | .lit => some [.l]
    | .lr => some [.l, .c]
    | .lrc => some [.l, .r, .c]
  else none

/-- The row of a node instruction; a step has none. -/
def rowOf (i : Instr) : Option Row :=
  match rowArith i with
  | some r => some r
  | none => match rowFlow i with
    | some r => some r
    | none => match rowMem i with
      | some r => some r
      | none => rowEngine i

def privileged (i : Instr) : Bool := ((rowOf i).map (·.priv)).getD false
def isSink (i : Instr) : Bool := ((rowOf i).map (·.sink)).getD false

/-! ### Ports (R89, R168, R201) -/

/-- The ports that ARY names for an ordinary node. -/
def aryPorts (a : Ary) : List Port := match a with | .l => [.l] | .lr => [.l, .r] | .lrc => [.l, .r, .c] | .lit => [.l]

/-- The ports of the address class and of the value class (R201). -/
def addrPorts (a : Ary) : List Port := match a with | .l => [.l] | _ => [.l, .c]
def valPorts (a : Ary) : List Port := match a with | .lr => [.l, .r] | _ => [.l, .r, .c]

/-- Operand ports other than P. -/
def opPorts (i : Instr) (n : NodeRec) : List Port :=
  match i with
  | .qnt _ => (match n.ary with | .l => [.l] | .lr => [.l, .c] | .lrc => [.l, .r, .c] | .lit => [.l, .r])
  | .dqnt _ => (match n.ary with | .l => [.l] | _ => [.l, .c])
  | .loopb _ => [.l, .r, .c]
  | .ld _ | .lds _ | .ldg _ | .xlat _ | .ldp _ | .flush _ | .inval _ | .bind _ | .bindUnbind _ | .mrecv _ | .pref _ | .ldnode _ =>
    addrPorts n.ary
  | .st _ | .sts _ | .stg _ | .atom _ | .cas _ | .atomf _ | .atoms _ | .stp _ | .msend _ | .wrnode _ => valPorts n.ary
  | _ => (enginePorts i n).getD (aryPorts n.ary)

/-- Every port of a node (R91). -/
def portsOf (i : Instr) (n : NodeRec) : List Port := opPorts i n ++ (if n.prd = .none then [] else [.p])

/-- Ports on which each token is handled on its own (R168). -/
def unmatched (i : Instr) (q : Port) : Bool :=
  match i with
  | .merge _ => q == .l || q == .r
  | .loopb _ => q == .l || q == .r || q == .c
  | .eosw _ => q == .l || q == .r
  | _ => false

/-- Token classes that a port accepts (R130, R167, R202). The value port of a store takes stat tokens too: the root of a tree of SSUM nodes may feed any
memory store (R157; log 80). -/
def portTakes (i : Instr) (q : Port) (k : Cls) : Bool :=
  match i with
  | .id _ => if q == .l then true else k == .data
  | .stat _ => if q == .l then k == .data || k == .control || k == .marker else k == .data
  | .ssum _ => k == .stat
  | .qnt _ | .dqnt _ => if q == .c then k == .scale else k == .data
  | .cvtsDec _ => if q == .l then k == .scale else k == .data
  | .steer _ | .merge _ | .gate _ | .fan _ | .sink _ | .carry _ | .stick _ | .purge _ | .timer _ | .yield _ | .eosw _ =>
    if q == .l then k == .data || k == .control || k == .fault else k == .data || k == .control
  | .loopb _ => if q == .c then k == .control else k == .data || k == .control
  | .route _ => k == .data
  | .st _ | .sts _ | .stg _ | .stp _ => if q == .c then k == .data || k == .control else k == .data || (q == .r && k == .stat)
  | .far _ => true
  | _ =>
    if (rowFlow i).isSome then k == .data || k == .control
    else if (rowArith i).isSome then k == .data
    else if q == .c then k == .data || k == .control else k == .data

/-- The MERGE, EOSW and LOOPB rule on match actions (R168). -/
def maTaken (i : Instr) (q : Port) (m : Ma) : Bool := !unmatched i q || m == .once

/-! ### What a record may hold (R111) -/

/-- Cause `k` unless `b`. -/
def need (b : Bool) (k : Nat) : Option Nat := if b then none else some k

def orCause (a b : Option Nat) : Option Nat := match a with | some k => some k | none => b

/-- The first cause of a list. -/
def firstCause (l : List (Option Nat)) : Option Nat := l.foldr orCause none

/-- RM given by a literal with an RM field that takes codes 0 to 4, and ARY as R127 asks. -/
def rmCause (n : NodeRec) : Option Nat :=
  let rm := fld n.lit.toNat 2 0
  firstCause [need (decide (rm ≤ 4)) 5, need (decide ((rm = 4) ↔ (n.ary = .lr))) 5]

/-- The elements of a span's token hold at least one block of `size` (R150). -/
def blkFits (n : NodeRec) (lanes size : Nat) : Option Nat := need (decide (elemsIn n.fmt lanes ≥ size)) 5

/-- ORD, SCOPE and LEN of the memory literal (R206). -/
def memLitCause (n : NodeRec) (lanes : Nat) (ords : List Nat) (lenZero : Bool) : Option Nat :=
  let lit := n.lit.toNat
  let len := fld lit 19 13
  firstCause [need (decide (fld lit 10 8 ≤ 4)) 4, need (ords.contains (fld lit 12 11)) 5,
    need (decide (len ≤ lanes)) 4, need (!lenZero || len == 0) 4, need (fmtBits n.fmt != 64 || len % 2 == 0) 4]

def atomCause (n : NodeRec) (ints fps : Bool) : Option Nat :=
  let lit := n.lit.toNat
  let op := fld lit 16 13
  let isFp := fmtCode n.fmt ≥ 8
  firstCause [need (decide (fld lit 10 8 ≤ 4)) 4,
    need ((ints && !isFp && decide (op ≤ 6)) || (fps && isFp && decide (8 ≤ op) && decide (op ≤ 10))) 5]

/-- CV bits at or above NC are zero, and NC is at most 8 (R270). -/
def gateCause (n : NodeRec) (tmax : Nat) : Option Nat :=
  let lit := n.lit.toNat
  let nc := fld lit 17 14
  firstCause [need (decide (fld lit 13 11 ≤ tmax)) 4, need (decide (nc ≤ 8)) 4, need (decide (fld lit 25 18 < 2 ^ nc)) 4]

def engineCause (i : Instr) (n : NodeRec) (lanes : Nat) : Option Nat :=
  let lit := n.lit.toNat
  match i with
  | .mzero _ => need (!(bitAt lit 15 && bitAt lit 16)) 4
  | .mdrainTok _ => need (decide (fld lit 19 18 ≤ 2)) 4
  | .mdrainMem _ => firstCause [need (decide (fld lit 19 18 ≤ 2)) 4, need (decide (fld lit 22 20 ≤ 4)) 4]
  | .route _ =>
    let e := fld lit 26 17 + 1
    let gf := fld lit 16 15
    need (decide (gf ≥ 2) || decide (e ≤ lanes * (if gf = 1 then 2 else 1))) 5
  | .migr _ => need (decide (fld lit 13 12 ≤ 2)) 4
  | .mhint _ => need (decide (fld lit 12 11 ≤ 2)) 4
  | .bgate _ => gateCause n 3
  | .bdiag _ => gateCause n 7
  | _ => none

/-- Rules of one opcode beyond its row's codes, for a node of `lanes` lanes. -/
def extraCause (i : Instr) (n : NodeRec) (lanes : Nat) : Option Nat :=
  let lit := n.lit.toNat
  match i with
  | .bfx _ | .bfi _ =>
    need (decide (1 ≤ bfLenOf lit) && decide (bfLenOf lit ≤ fmtBits n.fmt) && decide (bfPosOf lit + bfLenOf lit ≤ fmtBits n.fmt)) 4
  | .fscale _ => need (!(n.ary == .lit && n.fmt == .f64)) 5
  | .frnd _ => rmCause n
  | .cvtf _ | .cvtif _ =>
    let d := fld lit 7 4
    firstCause [rmCause n, need ((cFp ++ cF8).contains d) 4, need (partFits n.fmt (fmtOfCode d) lanes (fld lit 10 8)) 4]
  | .cvtfi _ =>
    let d := fld lit 7 4
    firstCause [rmCause n, need (cInt.contains d) 4, need (partFits n.fmt (fmtOfCode d) lanes (fld lit 10 8)) 4]
  | .amax _ =>
    let b := fld lit 1 0
    firstCause [need (decide (b ≤ 2)) 4, if b = 2 then none else blkFits n lanes (if b = 0 then 16 else 32)]
  | .scaleq _ => match blkOfCode? (fld lit 7 4) with | some t => blkFits n lanes t.size | none => some 4
  | .qnt _ =>
    let rm := fld lit 2 0
    match blkOfCode? (fld lit 7 4) with
    | none => some 4
    | some t => firstCause [need (decide (rm ≤ 4)) 5, need (decide ((rm = 4) ↔ (n.ary = .lrc ∨ n.ary = .lit))) 5, blkFits n lanes t.size]
  | .dqnt _ =>
    match blkOfCode? (fld lit 7 4) with
    | none => some 4
    | some t =>
      let blocks := if t.isDx then 4 * lanes / t.image else lanes / t.w
      firstCause [need (decide (fld lit 2 0 ≤ 3)) 5, need (decide (t.isDx ↔ n.ary = .l)) 5, blkFits n lanes t.size,
        need (partRule (blocks * t.size) (elemsIn n.fmt lanes) (fld lit 10 8)) 4]
  | .pack _ => need (decide (1 ≤ fld lit 3 0) && decide (fld lit 3 0 ≤ 8)) 4
  | .unpack _ =>
    let w := fld lit 3 0
    firstCause [need (decide (1 ≤ w) && decide (w ≤ 8)) 4, need (partRule (32 * lanes / w) (4 * lanes) (fld lit 10 8)) 4]
  | .cvtsDec _ => need (partRule (lanes * (if bitAt lit 1 then 2 else 4)) lanes (fld lit 10 8)) 4
  | .cvtsEnc _ => need (fld lit 10 8 == 0) 4
  | .bcast _ => need (n.ary == .l || lit == 0) 4
  | .perm _ => need (decide (fld lit 2 0 ≤ 4)) 4
  | .red _ | .scan _ =>
    let op := fld lit 2 0
    let isFp := cFp.contains (fmtCode n.fmt)
    firstCause [need (decide (op ≤ 5)) 4, need (decide (fld lit 6 4 ≤ 4)) 5, need (!(n.fmt == .b32 && decide (op ≤ 2))) 5,
      need (!(isFp && decide (op ≥ 3))) 5, need (!(isFp && bitAt lit 7)) 5]
  | .split _ | .join _ => need (decide (lanes > 8)) 5
  | .carry _ => need (lit != 0) 4
  | .loopb _ => need (decide (fld lit 29 15 ≤ fld lit 14 0)) 4
  | .tagset _ => need (fld lit 2 0 != 0) 4
  | .timer _ | .cntr _ => none
  | .rdsr _ | .wrsr _ => need (decide (bitAt lit 12 = (n.ary == .lr))) 5
  | .ld _ | .ldp _ => memLitCause n lanes [0, 1] false
  | .ldg _ => memLitCause n lanes [0, 1] true
  | .st _ | .stp _ => memLitCause n lanes [0, 2] false
  | .stg _ => memLitCause n lanes [0, 2] true
  | .pref _ => firstCause [need (decide (fld lit 10 8 ≤ 4)) 4, need (fld lit 12 11 == 0) 5, need (fld lit 19 13 == 0) 4]
  | .lds _ | .sts _ => firstCause [need (decide (fld lit 19 13 ≤ lanes)) 4, need (fmtBits n.fmt != 64 || fld lit 19 13 % 2 == 0) 4]
  | .atom _ => atomCause n true false
  | .atomf _ => atomCause n false true
  | .atoms _ => atomCause n true true
  | .cas _ => firstCause [need (decide (fld lit 10 8 ≤ 4)) 4, need (fld lit 16 13 == 0) 4]
  | .xlat _ => need (decide (fld lit 2 1 ≤ 2)) 4
  | .sbar _ => firstCause [need (decide (fld lit 10 8 ≤ 4)) 4, need (n.ary == .l || (fld lit 7 0 == 0 && !bitAt lit 11)) 4]
  | .fence _ | .flush _ | .inval _ => need (decide (fld lit 10 8 ≤ 4)) 4
  | _ => engineCause i n lanes
where
  bfLenOf (lit : Nat) : Nat := fld lit 12 6
  bfPosOf (lit : Nat) : Nat := fld lit 5 0
  partRule (nIn nOut part : Nat) : Bool := if nOut ≥ nIn then part == 0 else decide ((part + 1) * nOut ≤ nIn)
  partFits (src dst : Fmt) (lanes part : Nat) : Bool := partRule (elemsIn src lanes) (elemsIn dst lanes) part

/-- The row's codes. An instruction without destinations that names one has cause 7, as R166 says of its chapter's; that a FAR record has the same is DEDUCED
(R103 names no code; log 82). -/
def rowCause (r : Row) (n : NodeRec) : Option Nat :=
  firstCause [need (r.fmts.contains (fmtCode n.fmt)) 5, need (r.arys.contains (aryCode n.ary)) 5, need (r.prds.contains (prdCode n.prd)) 5,
    need (r.tgas.contains (tgaCode n.tga)) 5, need (!(n.tga == .liti && n.ary == .lit)) 5,
    need (n.lit.toNat &&& (0xFFFFFFFF - r.mask) == 0) 4, need (n.lit.toNat &&& r.modeMask == r.mode) 4, need (!(r.seqZero && n.seq)) 4,
    need (!(r.destNone && !(n.dsta == .none && n.dstb == .none))) 7]

/-- A destination's reserved offsets (R100). -/
def dstCause (d : Dst) : Option Nat :=
  match d with
  | .none => none
  | .to dx dy node _ => need (dx != 16 && dy != 16 && node != 0x3FF) 6

/-- Why a record's own fields are not those of a valid node, as a loader cause (R111, R121). -/
def fieldCause (i : Instr) (n : NodeRec) (lanes : Nat) : Option Nat :=
  match rowOf i with
  | none => some 2
  | some r => firstCause [rowCause r n, extraCause i n lanes]

/-- Why a record is not a valid node by itself, its destinations' reserved offsets included; none where it is one. -/
def nodeCause (i : Instr) (n : NodeRec) (lanes : Nat) : Option Nat := firstCause [fieldCause i n lanes, dstCause n.dsta, dstCause n.dstb]

end Sys2Proof.Machine
end

