-- ==== Sys2Proof/Machine/Elementary.lean ====
section
/-! DEFINITION. Correctly rounded square roots and transcendental functions (R142). A square root is decided exactly from an integer
root. A transcendental value is enclosed between two dyadic numbers, at more and more bits, until both ends round alike; its exact
cases (multiples of ½, powers of two, integers) are taken apart first, so the enclosed value is never a rounding boundary. -/

namespace Sys2Proof.Machine

/-! ### Integer square root -/

/-- Bitwise integer square root: `r` grown by the bits `k − 1 … 0`. -/
def isqrtFrom (x : Nat) : Nat → Nat → Nat
  | 0, r => r
  | k + 1, r => isqrtFrom x k (if (r + 2 ^ k) * (r + 2 ^ k) ≤ x then r + 2 ^ k else r)

def isqrt (x : Nat) : Nat := isqrtFrom x (x.log2 / 2 + 1) 0

/-- A value that rounds as `sqrt(n/d)` does in every format: the root itself where it is a fraction of 2^800, else the middle of the
interval of width 2^−800 that holds it, in whose interior no rounding boundary lies. -/
def sqrtRepr (n d : Nat) : XR :=
  let t := n * 2 ^ 1600 / d
  let q := isqrt t
  if n * 2 ^ 1600 % d = 0 ∧ q * q = t then .fin false q (2 ^ 800) else .fin false (2 * q + 1) (2 ^ 801)

/-! ### Intervals of fixed-point numbers: `(lo, hi)` stands for `[lo, hi] / 2^p` -/

abbrev Iv := Nat × Nat

def ivMul (p : Nat) (a b : Iv) : Iv := (a.1 * b.1 / 2 ^ p, ceilDiv (a.2 * b.2) (2 ^ p))
def ivDivNat (a : Iv) (k : Nat) : Iv := (a.1 / k, ceilDiv a.2 k)
def ivAdd (a b : Iv) : Iv := (a.1 + b.1, a.2 + b.2)
def ivSub (a b : Iv) : Iv := (a.1 - b.2, a.2 - b.1)
def ivDiv (p : Nat) (a b : Iv) : Iv := (a.1 * 2 ^ p / b.2, ceilDiv (a.2 * 2 ^ p) b.1)
def ivOf (p n d : Nat) : Iv := (n * 2 ^ p / d, ceilDiv (n * 2 ^ p) d)

/-- Sum over odd powers `z^(2k+1) / (2k+1)`, the terms of even `k` and of odd `k` apart. -/
def oddSeries (p : Nat) (z2 : Iv) : Nat → Nat → Iv → Iv × Iv → Iv × Iv
  | 0, _, zk, acc => (ivAdd acc.1 (0, 2 * zk.2 + 1), ivAdd acc.2 (0, 2 * zk.2 + 1))
  | n + 1, k, zk, acc =>
    let t := ivDivNat zk (2 * k + 1)
    oddSeries p z2 n (k + 1) (ivMul p zk z2) (if k % 2 = 0 then (ivAdd acc.1 t, acc.2) else (acc.1, ivAdd acc.2 t))

/-- `atanh z` for `z` at most 1/3, and `atan z` for `z` at most 1/5. -/
def ivAtanh (p : Nat) (z : Iv) : Iv := let r := oddSeries p (ivMul p z z) (p / 3 + 4) 0 z ((0, 0), (0, 0)); ivAdd r.1 r.2
def ivAtan (p : Nat) (z : Iv) : Iv := let r := oddSeries p (ivMul p z z) (p / 4 + 4) 0 z ((0, 0), (0, 0)); ivSub r.1 r.2

def ivLn2 (p : Nat) : Iv := let a := ivAtanh p (ivOf p 1 3); (2 * a.1, 2 * a.2)
def ivPi (p : Nat) : Iv :=
  let a := ivAtan p (ivOf p 1 5)
  let b := ivAtan p (ivOf p 1 239)
  ivSub (16 * a.1, 16 * a.2) (4 * b.1, 4 * b.2)

/-- `Σ_{k ≥ k0} y^k / k!` from the term `t = y^k0 / k0!`, for `y` at most 1. -/
def expSeries (p : Nat) (y : Iv) : Nat → Nat → Iv → Iv → Iv
  | 0, _, t, acc => ivAdd acc (0, 4 * t.2 + 1)
  | n + 1, k, t, acc => expSeries p y n (k + 1) (ivDivNat (ivMul p t y) (k + 1)) (ivAdd acc t)

/-- `e^y − 1` for `y` at most 1. -/
def ivExpm1 (p : Nat) (y : Iv) : Iv := expSeries p y (p / 4) 1 y (0, 0)
def ivExp (p : Nat) (y : Iv) : Iv := ivAdd (2 ^ p, 2 ^ p) (ivExpm1 p y)

/-- Terms `θ^(2k+1) / (2k+1)!`, of even `k` and of odd `k` apart. -/
def sinSeries (p : Nat) (th2 : Iv) : Nat → Nat → Iv → Iv × Iv → Iv × Iv
  | 0, _, t, acc => (ivAdd acc.1 (0, 2 * t.2 + 1), ivAdd acc.2 (0, 2 * t.2 + 1))
  | n + 1, k, t, acc =>
    sinSeries p th2 n (k + 1) (ivDivNat (ivMul p t th2) ((2 * k + 2) * (2 * k + 3)))
      (if k % 2 = 0 then (ivAdd acc.1 t, acc.2) else (acc.1, ivAdd acc.2 t))

/-- `sin(π·n/d)` for `n/d` from 0 to 1/2. -/
def ivSinPi (p n d : Nat) : Iv :=
  let th := ivMul p (ivPi p) (ivOf p n d)
  let r := sinSeries p (ivMul p th th) (p / 8) 0 th ((0, 0), (0, 0))
  ivSub r.1 r.2

/-- An interval raised to the power 2^k. -/
def ivSquare (p : Nat) : Nat → Iv → Iv
  | 0, a => a
  | k + 1, a => ivSquare p k (ivMul p a a)

/-! ### Rounding an enclosed value -/

/-- Round a value enclosed at growing precision: `encl p` encloses its magnitude in fixed point of `p` bits. -/
def roundEnclosed (ftz : Bool) (f : FpFmt) (neg : Bool) (encl : Nat → Iv) : List Nat → Nat × Counts
  | [] => roundTo ftz (.zero neg) f .rne
  | p :: ps =>
    let (lo, hi) := encl p
    let a := roundTo ftz (.fin neg lo (2 ^ p)) f .rne
    let b := roundTo ftz (.fin neg hi (2 ^ p)) f .rne
    if lo ≠ 0 && a = b then a else roundEnclosed ftz f neg encl ps

/-- The precisions tried. No result of a 24-bit format needs the last of them. -/
def precisions : List Nat := [640, 1280, 2560]

/-! ### The functions of R142 on finite values -/

/-- FSQRT and FRSQ. -/
def fsqrtOf (x : XR) : XR :=
  match x with
  | .fin s n d => if n = 0 then .zero s else if s then .nan false else sqrtRepr n d
  | .inf s => if s then .nan false else .inf false
  | .nan _ => .nan false

def frsqOf (x : XR) : XR :=
  match x with
  | .fin s n d => if n = 0 then .inf s else if s then .nan false else sqrtRepr d n
  | .inf s => if s then .nan false else .zero false
  | .nan _ => .nan false

/-- `m · 2^k` rounded, for the fixed-point magnitude `m / 2^p`. -/
def roundShifted (ftz : Bool) (f : FpFmt) (p m : Nat) (k : Int) : Nat × Counts :=
  if k ≥ 0 then roundTo ftz (.fin false (m * 2 ^ k.toNat) (2 ^ p)) f .rne
  else roundTo ftz (.fin false m (2 ^ (p + (-k).toNat))) f .rne

/-- `2^(k + g/d)` for a fraction `g/d` below 1. -/
def exp2Enclosed (ftz : Bool) (f : FpFmt) (g d : Nat) (k : Int) : List Nat → Nat × Counts
  | [] => roundTo ftz (.zero false) f .rne
  | p :: ps =>
    let e := ivExp p (ivMul p (ivLn2 p) (ivOf p g d))
    let a := roundShifted ftz f p e.1 k
    let b := roundShifted ftz f p e.2 k
    if a = b then a else exp2Enclosed ftz f g d k ps

/-- FEXP2. Beyond ±1000 every value rounds as at ±1000. -/
def fexp2 (ftz : Bool) (f : FpFmt) (x : XR) : Nat × Counts :=
  match x with
  | .nan _ => roundTo ftz (.nan false) f .rne
  | .inf s => roundTo ftz (if s then .zero false else .inf false) f .rne
  | .fin s n d =>
    let v := if s then -(n : Int) else n
    let k := max (-1000) (min 1000 (v / (d : Int)))
    let g := (v % (d : Int)).toNat
    if g = 0 then roundTo ftz (XR.dyadic false 1 k) f .rne else exp2Enclosed ftz f g d k precisions

/-- FLOG2. -/
def flog2 (ftz : Bool) (f : FpFmt) (x : XR) : Nat × Counts :=
  match x with
  | .nan _ => roundTo ftz (.nan false) f .rne
  | .inf s => roundTo ftz (if s then .nan false else .inf false) f .rne
  | .fin s n d =>
    if n = 0 then roundTo ftz (.inf true) f .rne
    else if s then roundTo ftz (.nan false) f .rne
    else
      let e := floorLog2 n d
      -- m = mn/md in [1, 2)
      let (mn, md) := if e ≥ 0 then (n, d * 2 ^ e.toNat) else (n * 2 ^ (-e).toNat, d)
      if mn = md then roundTo ftz (XR.ofInt e) f .rne
      else
        let frac := fun p => let a := ivAtanh p (ivOf p (mn - md) (mn + md)); ivDiv p (2 * a.1, 2 * a.2) (ivLn2 p)
        if e ≥ 0 then roundEnclosed ftz f false (fun p => ivAdd (e.toNat * 2 ^ p, e.toNat * 2 ^ p) (frac p)) precisions
        else roundEnclosed ftz f true (fun p => ivSub ((-e).toNat * 2 ^ p, (-e).toNat * 2 ^ p) (frac p)) precisions

/-- `sin(π·n/d)` of a non-negative fraction, signed by `s`. An integer gives a zero of sign `s`, a half gives ±1. -/
def sinPiCore (ftz : Bool) (f : FpFmt) (s : Bool) (n d : Nat) : Nat × Counts :=
  let r := n % (2 * d)
  let (neg, r) := if r ≥ d then (!s, r - d) else (s, r)
  if r = 0 then roundTo ftz (.zero s) f .rne
  else if 2 * r = d then roundTo ftz (.fin neg 1 1) f .rne
  else
    let r := if 2 * r > d then d - r else r
    roundEnclosed ftz f neg (fun p => ivSinPi p r d) precisions

/-- FSIN. -/
def fsinpi (ftz : Bool) (f : FpFmt) (x : XR) : Nat × Counts :=
  match x with
  | .fin s n d => sinPiCore ftz f s n d
  | _ => roundTo ftz (.nan false) f .rne

/-- FCOS: `cos(π·l) = sin(π·(|l| + ½))`; an odd multiple of ½ gives +0. -/
def fcospi (ftz : Bool) (f : FpFmt) (x : XR) : Nat × Counts :=
  match x with
  | .fin _ n d => sinPiCore ftz f false (2 * n + d) (2 * d)
  | _ => roundTo ftz (.nan false) f .rne

/-- FTANH: `(e^2x − 1) / (e^2x + 1)`; from 64 up the value lies between 1 − 2^−100 and 1. -/
def ftanh (ftz : Bool) (f : FpFmt) (x : XR) : Nat × Counts :=
  match x with
  | .nan _ => roundTo ftz (.nan false) f .rne
  | .inf s => roundTo ftz (.fin s 1 1) f .rne
  | .fin s n d =>
    if n = 0 then roundTo ftz (.zero s) f .rne
    else if n ≥ 64 * d then roundEnclosed ftz f s (fun p => (2 ^ p - 2 ^ (p - 100), 2 ^ p - 1)) precisions
    else if 2 * n ≤ d then
      roundEnclosed ftz f s (fun p => let m := ivExpm1 p (ivOf p (2 * n) d); ivDiv p m (ivAdd m (2 ^ (p + 1), 2 ^ (p + 1)))) precisions
    else
      roundEnclosed ftz f s (fun p =>
        let e := ivSquare p 7 (ivExp p (ivOf p (2 * n) (128 * d)))
        ivDiv p (ivSub e (2 ^ p, 2 ^ p)) (ivAdd e (2 ^ p, 2 ^ p))) precisions

end Sys2Proof.Machine
end

