-- ==== Sys2Proof/Machine/Lanes.lean ====
section
/-! DEFINITION. Payloads as elements: the operand forms of R90, R123 to R129, and the results of arithmetic nodes. -/

namespace Sys2Proof.Machine

/-- What an arithmetic firing computes with: the record's fields, the span's lane count, FTZ, the operand payloads (`r` already taken
from the literal under ARY 3), and the tag and SEQ that TAGV reads. -/
structure Args where
  fmt : Fmt
  ary : Ary
  lit : Nat
  n : Nat
  ftz : Bool
  l : Payload
  r : Payload
  c : Payload
  tag : Tag
  seq : BitVec 26
  cls : Cls
  lvl : BitVec 3
  deriving DecidableEq, Repr

/-- What it emits: a payload for each destination, their classes, and the counts it makes (R128, R130). -/
structure Res where
  a : Payload
  b : Payload
  clsA : Cls := .data
  clsB : Cls := .data
  lvl : BitVec 3 := 0
  counts : Counts := .zero
  deriving DecidableEq, Repr

/-- The same token to both destinations (R99). -/
def Res.both (p : Payload) (k : Counts := .zero) : Res := { a := p, b := p, counts := k }

/-! ### Elements of a payload (R55, R56) -/

/-- Lane pairs of a payload. -/
def pairsOf : Payload → List (Lane × Lane)
  | a :: b :: r => (a, b) :: pairsOf r
  | _ => []

/-- Pattern of each element, none where it is absent. -/
def elems (f : Fmt) (p : Payload) : List (Option Nat) :=
  match fmtBits f with
  | 64 => (pairsOf p).map fun (a, b) => if a.ok && b.ok then some (a.nat + b.nat * 2 ^ 32) else none
  | 32 => p.map fun a => if a.ok then some a.nat else none
  | w => p.flatMap fun a => (List.range (32 / w)).map fun k => if a.ok then some (fld a.nat (w * k + w - 1) (w * k)) else none

/-- A lane from its elements of width `w`; invalid with zero bits where one is absent (R125). -/
def laneFrom (w : Nat) (es : List (Option Nat)) : Lane :=
  if es.length * w = 32 ∧ es.all Option.isSome then Lane.some (((indexed es).map fun (k, e) => e.getD 0 * 2 ^ (w * k)).sum) else .none

/-- A payload of `n` lanes from element patterns. -/
def packElems (f : Fmt) (n : Nat) (es : List (Option Nat)) : Payload :=
  match fmtBits f with
  | 64 => (List.range (n / 2)).flatMap fun m =>
      match (es[m]?).join with
      | some v => [Lane.some (v % 2 ^ 32), Lane.some (v / 2 ^ 32)]
      | none => [.none, .none]
  | w => (List.range n).map fun j => laneFrom w ((es.drop (j * (32 / w))).take (32 / w))

/-- The FP64 pattern of an FP32 literal; a NaN pattern gives the canonical FP64 NaN (R90). -/
def f64OfF32 (x : Nat) : Nat := (roundTo false (decodeFp fp32 x) fp64 .rne).1

/-- The literal as an operand in every lane (R90). -/
def litPayload (f : Fmt) (n lit : Nat) : Payload :=
  let pair := fun v : Nat => (List.replicate (n / 2) [Lane.some (v % 2 ^ 32), Lane.some (v / 2 ^ 32)]).flatten
  match f with
  | .i64 => pair (patOf (valOf lit 32 true) 64)
  | .n64 => pair lit
  | .f64 => pair (f64OfF32 lit)
  | .c64 => pair lit
  | _ => List.replicate n (Lane.some lit)

/-! ### Element operations (R125) -/

abbrev El := Nat × Counts

def el (v : Nat) : El := (v, .zero)

/-- Gather computed elements into a payload and their counts. -/
def gatherEls (f : Fmt) (n : Nat) (es : List (Option El)) : Res :=
  Res.both (packElems f n (es.map (Option.map Prod.fst))) (Counts.sum (es.filterMap (Option.map Prod.snd)))

def el1 (a : Args) (g : Nat → El) : Res := gatherEls a.fmt a.n ((elems a.fmt a.l).map (Option.map g))

def el2 (a : Args) (g : Nat → Nat → El) : Res :=
  gatherEls a.fmt a.n (List.zipWith (fun x y => x.bind fun u => y.map (g u)) (elems a.fmt a.l) (elems a.fmt a.r))

def el3 (a : Args) (g : Nat → Nat → Nat → El) : Res :=
  gatherEls a.fmt a.n (List.zipWith (fun (xy : Option Nat × Option Nat) z => xy.1.bind fun u => xy.2.bind fun v => z.map (g u v))
    (List.zip (elems a.fmt a.l) (elems a.fmt a.r)) (elems a.fmt a.c))

/-! ### Integer elements (R131): patterns read by FMT, exact results wrapped -/

def Args.w (a : Args) : Nat := fmtBits a.fmt
def Args.sgn (a : Args) : Bool := fmtSigned a.fmt
def Args.val (a : Args) (p : Nat) : Int := valOf p a.w a.sgn

def int1 (a : Args) (g : Int → Int) : Res := el1 a fun x => el (patOf (g (a.val x)) a.w)
def int2 (a : Args) (g : Int → Int → Int) : Res := el2 a fun x y => el (patOf (g (a.val x) (a.val y)) a.w)
def int3 (a : Args) (g : Int → Int → Int → Int) : Res := el3 a fun x y z => el (patOf (g (a.val x) (a.val y) (a.val z)) a.w)

/-- A saturating integer operation (R54). -/
def intSat2 (a : Args) (g : Int → Int → Int) : Res :=
  el2 a fun x y => let (v, k) := satInt (g (a.val x) (a.val y)) a.w a.sgn; (patOf v a.w, k)

/-- A mask element: all bits set for true (R131). -/
def maskEl (w : Nat) (b : Bool) : Nat := if b then 2 ^ w - 1 else 0

def intCmp (a : Args) (g : Int → Int → Bool) : Res := el2 a fun x y => el (maskEl a.w (g (a.val x) (a.val y)))
def patCmp (a : Args) (g : Nat → Nat → Bool) : Res := el2 a fun x y => el (maskEl a.w (g x y))

/-- `int_div` (R132). -/
def intDiv (l r : Int) : Int × Int := if r = 0 then (-1, l) else (l.tdiv r, l - r * l.tdiv r)

/-! ### Floating-point elements (R126) -/

/-- An operand element after `scaled_in` with exponent 0. -/
def fpIn (a : Args) (x : Nat) : XR × Counts := scaledIn a.ftz (decodeFp (fmtFp a.fmt) x) 0 (computeFmt a.fmt)

def fpOut (a : Args) (x : XR) : El := roundTo a.ftz x (fmtFp a.fmt) .rne

def addK (k : Counts) (e : El) : El := (e.1, k.add e.2)

def fp1 (a : Args) (g : XR → El) : Res := el1 a fun x => let u := fpIn a x; addK u.2 (g u.1)
def fp2 (a : Args) (g : XR → XR → El) : Res :=
  el2 a fun x y => let u := fpIn a x; let v := fpIn a y; addK (u.2.add v.2) (g u.1 v.1)
def fp3 (a : Args) (g : XR → XR → XR → El) : Res :=
  el3 a fun x y z =>
    let u := fpIn a x; let v := fpIn a y; let w := fpIn a z
    addK ((u.2.add v.2).add w.2) (g u.1 v.1 w.1)

/-- A value chosen among operands, encoded without change; a NaN counts nan (R60, R141). -/
def encodeSame (f : FpFmt) (x : XR) : El :=
  match x with
  | .nan _ => (f.canonNan, cNan)
  | .inf s => (f.infCode s, .zero)
  | .fin .. => (roundTo false x f .rne)

def fpCmp (a : Args) (g : XR → XR → Bool) : Res := fp2 a fun x y => el (maskEl a.w (g x y))

/-! ### Random bits (R72) -/

/-- Bits of a rounding field: min(16, 32/n) for n elements per lane. -/
def rwOf (f : Fmt) : Nat := if fmtBits f ≤ 16 then fmtBits f else 16

/-- Random bits for element `e` of a token in format `f`, from the matching lane of the random token; none where that lane is invalid. -/
def randBits (f : Fmt) (rnd : Payload) (e : Nat) : Option Nat :=
  let w := fmtBits f
  let (lane, k) := if w = 64 then (2 * e, 0) else (e / (32 / w), e % (32 / w))
  match rnd[lane]? with
  | some l => if l.ok then some (fld l.nat (rwOf f * k + rwOf f - 1) (rwOf f * k)) else none
  | none => none

/-! ### Placement of converted elements (R129) -/

/-- Output elements: `some (some i)` comes from source element `i`, `some none` is absent. -/
def placeIndex (nIn nOut part k : Nat) : Option Nat :=
  if nOut ≥ nIn then (if k < nIn then some k else none) else some (part * nOut + k)

/-- PART is one that R129 allows. -/
def partOk (nIn nOut part : Nat) : Bool := if nOut ≥ nIn then part == 0 else decide ((part + 1) * nOut ≤ nIn)

/-- A payload from placed elements: a lane (or pair) is valid when it holds an element that is not absent and every element it holds
has valid sources. An element with valid sources counts even where its output lane is invalid for another element's sake: R125 speaks of invalid lanes
alone (DESIGN CHOICE, log 77). `es k` is none for an absent element, `some none` for one with an invalid source lane. -/
def placeEls (f : Fmt) (n : Nat) (es : List (Option (Option El))) : Res :=
  let per := if fmtBits f = 64 then 1 else 32 / fmtBits f
  let groups := chunks per (es.length / per) es
  let groupOk := fun g : List (Option (Option El)) => g.any Option.isSome && g.all (fun e => e != some none)
  let vals := groups.flatMap fun g => g.map fun e => if groupOk g then some (((e.join).map Prod.fst).getD 0) else none
  Res.both (packElems f n vals) (Counts.sum (es.filterMap fun e => e.join.map Prod.snd))

/-! ### Units of the lane instructions (R159) -/

/-- A unit: a lane for b32 and 32-bit uses, a lane pair for n64. -/
def unitLanes (f : Fmt) : Nat := if fmtBits f = 64 then 2 else 1

def unitsOf (f : Fmt) (p : Payload) : List (List Lane) := chunks (unitLanes f) (p.length / unitLanes f) p

def unitOk (u : List Lane) : Bool := !u.isEmpty && u.all (·.ok)

/-- A unit that is not valid as a whole is invalid in both its lanes. -/
def normUnit (u : List Lane) : List Lane := if unitOk u then u else u.map fun l => { l with ok := false }

def noUnit (f : Fmt) : List Lane := List.replicate (unitLanes f) .none

def unitAt (f : Fmt) (us : List (List Lane)) (i : Nat) : List Lane := normUnit ((us[i]?).getD (noUnit f))

def unitNat (u : List Lane) : Nat := ((indexed u).map fun (k, l) => l.nat * 2 ^ (32 * k)).sum

/-! ### b32 streams (R68, R149) -/

/-- Bytes of a payload, lane by lane, as one number: stream bit `b` is bit `b` of it. -/
def payloadBits (p : Payload) : Nat := natOfBytes (p.flatMap fun l => bytesOf l.nat 4)

/-- Lanes that hold stream bits `[hi:lo]` are all valid. -/
def bitsOk (p : Payload) (hi lo : Nat) : Bool := (List.range (hi / 32 + 1 - lo / 32)).all fun i => ((p[lo / 32 + i]?).map (·.ok)).getD false

end Sys2Proof.Machine
end

