-- ==== Sys2Proof/Machine/State.lean ====
section
/-! DEFINITION. The state of the machine as plain data: everything the spec gives one package, and what the package can see of the
agents around it. Each structure's docstring names the rules that give its parts; defaults are the values after reset. -/

namespace Sys2Proof.Machine

/-! ### Spans, pages and tokens in transit -/

/-- Where a token of a page is held (R26, R27, R37, R377): the matching store; on its way to the spill engine (VC1); an entry of the
spill table; held by the spill engine for MSFULL, with its place among the arrivals held; or returned by the engine for a firing that finds its partners in the table. -/
inductive Place where
  | store
  | vc1
  | table (ix : Nat)
  | held (at_ : Nat)
  | returned
  deriving DecidableEq, Repr

/-- What a held entry is: a token like any other; one parked because its arrival was refused, to be examined again when it becomes live (R38); one
withdrawn from the output queue of a span, to which it returns (R37); the sticky value of before a replacement or purge, kept for one firing of
a tag that was ready then (R25); or an entry that holds node state and has been spilled, named by the node, frame and CID of its token (R169). -/
inductive Role where
  | plain
  | refused
  | queued (span : Nat)
  | old (t : Tag)
  | state
  deriving DecidableEq, Repr

/-- A token held at an FE or spilled from it. `parked` keeps it out of matching (R38). -/
structure Entry where
  tok : Token
  place : Place
  parked : Bool
  role : Role
  deriving DecidableEq, Repr

/-- Loop state of a LOOPB (R169, R173): `live` are the admitted iterations that have not retired; the batch under way ends before `upto`. -/
structure LoopSt where
  node : Nat
  frame : BitVec 14
  n : Nat
  entry : Token
  adm : Nat
  live : List Nat
  exit : Option (Nat × Token)
  off : Nat
  upto : Nat
  deriving DecidableEq, Repr

/-- EOSW state (R183): item count and the end-of-stream tokens held. -/
structure EoswSt where
  node : Nat
  frame : BitVec 14
  count : Nat
  held : List Token
  deriving DecidableEq, Repr

/-- CNTR state (R187). -/
structure CntrSt where
  node : Nat
  frame : BitVec 14
  count : Nat
  deriving DecidableEq, Repr

/-- A pending TIMER token: the resident cycles that remain to its deadline, negative once it has passed, and where it goes (R186). -/
structure TimerSt where
  node : Nat
  left : Int
  dsts : List Dest
  tok : Token
  deriving DecidableEq, Repr

/-- What an ordered sink performs later: the operands of a ready firing in its reorder stage (R97). -/
structure Staged where
  tag : Tag
  seq : BitVec 26
  suppressed : Bool
  l : Token
  r : Option Token
  c : Option Token
  p : Option Token
  deriving DecidableEq, Repr

/-- Ordered-sink state (R97). -/
structure SinkSt where
  node : Nat
  x : BitVec 26
  stage : List Staged
  deriving DecidableEq, Repr

/-- A ready firing, the cycle in which it became ready, and how often the span has passed it over (R402). -/
structure ReadyMark where
  node : Nat
  tag : Tag
  port : Port
  since : Nat
  passed : Nat
  deriving DecidableEq, Repr

/-- An input of a span for rounds (R379). -/
inductive RInput where
  | span (key : Nat)
  | island
  | loader
  deriving DecidableEq, Repr

/-- Round state of a span (R36, R379 to R382): the counter, the last marker of each input (none before the first), and the tokens recorded for
incomplete cuts, each with the number of its cut. -/
structure RoundSt where
  round : BitVec 16 := 0
  inputs : List (RInput × Option (BitVec 16)) := []
  recorded : List (BitVec 16 × Token) := []
  deriving DecidableEq, Repr

/-- A span (R356): `anchor` is false for a key that anchors no span. `fired` is the cycle of its last firing, `last` the node of it and `turn` its rank (the cycle
in which it became ready, and its place in that cycle); `rr` the node chosen last in each firing class, and `marks` its ready firings in the order in which they became ready (R402); `stalls` the stall
records (R29). `arrived` is the cycle of its last arrival and the code of the port that took it (R25); `farQ` its FAR nodes' tokens (R103). -/
structure Span where
  anchor : Bool := false
  wid : Nat := 0
  nodes : Tab Record := []
  loops : List LoopSt := []
  eosws : List EoswSt := []
  cntrs : List CntrSt := []
  timers : List TimerSt := []
  seqs : Tab (BitVec 26) := []
  sinks : List SinkSt := []
  counts : Counts := .zero
  stalls : Tab (Nat × Nat) := []
  rnd : RoundSt := {}
  rr : List Nat := [0, 0, 0]
  marks : List ReadyMark := []
  fired : Option Nat := none
  last : Nat := 0
  turn : Option (Nat × Nat) := none
  arrived : Option (Nat × Nat) := none
  farQ : List Token := []
  deriving DecidableEq, Repr

/-- Where a token in transit comes from: a span's output queue, the islands through a row gateway, or the loader (R367, R379); or a switch box that
has combined tokens, of which the one from the lowest port came from a span (R372). -/
inductive Src where
  | span (key : Nat)
  | box (key box : Nat)
  | island
  | loader
  deriving DecidableEq, Repr

/-- The networks: the element mesh, Salt for scale tokens, Crumb for stat tokens (R370). -/
inductive Net where
  | elem | salt | crumb
  deriving DecidableEq, Repr

/-- A token in transit, with the context of its load. -/
structure Flight where
  cid : Nat
  src : Src
  net : Net
  tok : Token
  deriving DecidableEq, Repr

/-- A held token of a switch box's combining entry, with the input port and the span it came from (R372). -/
structure CombHeld where
  inp : Nat
  key : Nat
  tok : Token
  deriving DecidableEq, Repr

/-- A combining entry of a switch box (R371): `box` is the FE key of an element-mesh box, or 0x10000 + box for the I/O die, where the inputs are those
of block `block` of eight (0 elsewhere). -/
structure CombEntry where
  box : Nat
  block : Nat
  inmask : Nat
  fmt : Fmt
  rm : Nat
  dest : Dest
  held : List CombHeld
  deriving DecidableEq, Repr
/-! ### Parties, write elements and accesses -/

/-- Kinds of islands (R120, R375). -/
inductive IsleKind where
  | hearth | peel | sifter | rack | braid | leaven | coll
  deriving DecidableEq, Repr

/-- A physical island instance: kind, die and number on it. -/
structure Isle where
  kind : IsleKind
  die : Nat
  ix : Nat
  deriving DecidableEq, Repr

/-- The parties that issue accesses (R301): of an island, each task is a party of its own (R319). `ext` stands for the parties of another package. -/
inductive Party where
  | span (key : Nat)
  | isle (i : Isle) (task : Nat)
  | leaven
  | loader
  | coll
  | host
  | ext (pkg : Nat)
  deriving DecidableEq, Repr

/-- Scopes (R301), narrower first. -/
inductive Scope where
  | elem | page | die | mod | sys
  deriving DecidableEq, Repr

/-- A write element applied at its home (R302, R303): bytes from home address `addr`, its poisoned 4-byte granules, whether its access
writes the whole 64-byte line (R329), who wrote it, the widest scope of its writer at which it is performed, and the scopes of further parties in
which every party already sees it. -/
structure WEl where
  id : Nat
  addr : Nat
  bytes : List Byte
  poi : List Nat
  full : Bool
  owner : Party
  level : Option Scope
  seen : List (Party × Scope)
  deriving DecidableEq, Repr

/-- A write element that an engine task has made and that has no place in home order yet (R303, R319), with the context and the round of the task. -/
structure Pend where
  el : WEl
  cid : Nat
  round : BitVec 16
  deriving DecidableEq, Repr

/-- What an access does. -/
inductive AccKind where
  | load | store | atom | cas | pref | flush | lds | sts | msend
  deriving DecidableEq, Repr

/-- Progress of one element of an access: not begun; read, with the writes whose values it returned (none for initial contents);
applied at its home as the write elements named; or read and applied (an atomic). -/
inductive ElSt where
  | todo
  | read (rs : List Nat)
  | wrote (ws : List Nat)
  | both (rs ws : List Nat)
  deriving DecidableEq, Repr

/-- An element of an access: its VA (or PA, or offset), its home address once translated, its size, its place among the lanes, the value
to store, the value read, and whether a cache bank serves it. -/
structure Elem where
  va : Nat
  pa : Option Nat
  size : Nat
  lane : Nat
  val : Nat
  vpoi : Bool
  got : Nat
  gpoi : Bool
  bank : Bool
  st : ElSt
  deriving DecidableEq, Repr

/-- An access of a memory node (R208, R300). Port 0–3 are memory ports, 4 the page store, 5 the message port, 6 the cache banks. `qpos` is
its place among the arrivals at its port (R363); `acc` its place among those accepted, and `since` the cycle of its acceptance; `fault` the
FID of a fault that holds it; `retry` says that it is to be re-issued at the restore (R198, R422); `queued` that it has stood in a commit queue, which
drains in order (R234, R235); `aux` what its kind needs beside (the target of a message, the accesses a release or an acquire has waited for). -/
structure Access where
  id : Nat
  cid : Nat
  span : Nat
  node : Nat
  tok : Token
  kind : AccKind
  phys : Bool
  port : Nat
  stream : Nat
  acq : Bool
  rel : Bool
  scope : Scope
  nob : Bool
  fmt : Fmt
  op : Nat
  opnd : List Nat
  ftz : Bool
  els : List Elem
  round : BitVec 16
  qpos : Option Nat
  acc : Option Nat
  since : Nat
  fault : Option Nat
  retry : Bool
  queued : Bool := false
  aux : List Nat
  dataTo : List Dest
  doneTo : List Dest
  dataSent : Bool
  emit : Token
  deriving DecidableEq, Repr

/-- A waiting SBAR or FENCE (R224, R225): the accesses it waits for; an SBAR closes its streams. -/
structure Barrier where
  span : Nat
  sbar : Bool
  scope : Scope
  streams : List Nat
  waits : List Nat
  toks : List Token
  deriving DecidableEq, Repr

/-- A declared stream of a page (R115, R120). -/
structure StreamDef where
  id : Nat
  port : Nat
  num : Nat
  den : Nat
  deriving DecidableEq, Repr

/-- A line of a cache bank (R226, R315): its index, the written granules (bit k for granule k), and the writes whose values it holds, each with its granule (R305). A
listed line is valid. -/
structure BankLine where
  ix : Nat
  dirty : Bool
  written : Nat
  source : List (Nat × Nat) := []
  deriving DecidableEq, Repr

/-- A cache bank (R226). Its bytes lie in the page store at `off`. -/
structure Bank where
  va : Nat
  size : Nat
  off : Nat
  lines : List BankLine
  deriving DecidableEq, Repr

/-- A TLB entry (R333): a valid leaf translation. -/
structure TlbEntry where
  cid : Nat
  va : Nat
  size : Nat
  frame : Nat
  bits : Nat
  deriving DecidableEq, Repr

/-- A byte range that a Peel copy in flight writes in the page store (R215, R284). -/
structure ScoreRange where
  task : Nat
  off : Nat
  len : Nat
  deriving DecidableEq, Repr

/-- A page (R49, R358 to R364). `stale` are byte ranges of the loop area, the frame-link cache and the spill table that have been in use since the
placement, so that they need not read as zero (R361); `lost` are ranges whose contents a BIND has lost, each with the moment of their free values (R228); `wbacks` the bank write-backs, by VA and write element, for which a later FLUSH
of their bytes still answers (R318). -/
structure Page where
  cid : Option (BitVec 6) := none
  w : Nat := 0
  h : Nat := 0
  px : Nat := 0
  py : Nat := 0
  cycles : Word64 := 0
  stall : List Nat := [0, 0, 0, 0, 0]
  tlb : List TlbEntry := []
  miss : Nat := 0
  ftz : Bool := false
  store : Tab Byte := []
  poison : List Nat := []
  toks : List Entry := []
  accs : List Access := []
  last : List Nat := [0, 0, 0, 0]
  busy : List Nat := [0, 0, 0, 0]
  barriers : List Barrier := []
  streams : List StreamDef := []
  banks : List Bank := []
  score : List ScoreRange := []
  runs : List (Nat × Nat) := []
  links : List Nat := []
  spillBase : Nat := 0
  spillLog : Nat := 6
  stale : List (Nat × Nat) := []
  lost : List (Nat × Nat × Nat) := []
  wbacks : List (Nat × Nat) := []
  charged : Bool := false
  offline : Bool := false
  deriving DecidableEq, Repr

/-! ### Islands: packets, tasks, results (R243, R272 to R275, R374) -/

/-- An operand packet: the firing that sent it, its operands, and where its tokens go. -/
structure Packet where
  id : Nat
  cid : Nat
  span : Nat
  node : Nat
  instr : Instr
  tag : Tag
  seq : BitVec 26
  outTag : Tag
  outSeq : BitVec 26
  l : Payload
  r : Payload
  c : Payload
  poi : Bool
  a : Option Dest
  b : Option Dest
  lanes : Nat
  ftz : Bool
  round : BitVec 16
  hdr : Nat
  loc : Nat
  gw : Nat
  ix : Nat
  deriving DecidableEq, Repr

/-- The tag of a row of a tray or bank: the tag, SEQ and POI of the push, or the header of an expert message (R253, R432); `own` where it came
as a DISPATCH, so that its side owes a credit for it (R430). -/
structure RowTag where
  tag : Tag
  seq : BitVec 26
  poi : Bool
  hdr : Option (BitVec 256)
  own : Bool
  deriving DecidableEq, Repr

/-- What an island works on: a packet; a fire of a tray side, by threshold or by timer or flush, with the flush's packet, and the tag of row 0
of the side as its chain began (R250, R254); a weight-store fill by Leaven from a VA (R350). -/
inductive TaskKind where
  | packet
  | fire (tray side : Nat) (flush : Bool) (row : Option RowTag)
  | fill (va off len expid : Nat)
  deriving DecidableEq, Repr

/-- A token that an island emits: its task, its context, whether it waits for the earlier results of its task, and whether it keeps the
island's own order (R374, R440). -/
structure Result where
  task : Nat
  cid : Nat
  tok : Token
  last : Bool
  ord : Bool
  deriving DecidableEq, Repr

/-- A collective's descriptor as a member read it (R290, R297, R298), with the ranks of its list and the TIMER of its join. -/
structure CollDesc where
  op : Nat
  ef : Nat
  rop : Nat
  rm : Nat
  nr : Nat
  me : Nat
  cnt : Nat
  root : Nat
  coid : Nat
  sva : Nat
  dva : Nat
  scope : Nat
  adest : Nat
  ranks : List Nat
  joined : Nat
  map : List Nat := []
  lost : Bool := false
  deriving DecidableEq, Repr

/-- An element of memory that a task has read before the rest of its source: its home address, its bytes with the poison of each, and the writes that it
returned (R263, R302, R319). -/
structure Ahead where
  addr : Nat
  bytes : List (Byte × Bool)
  saw : List Nat
  deriving DecidableEq, Repr

/-- An expert message (R426): its 256-bit header and its payload. -/
structure EMsg where
  hdr : BitVec 256
  lanes : Payload
  deriving DecidableEq, Repr

/-- An end of an expert message's path (R427, R429). -/
inductive MEnd where
  | isle (i : Isle)
  | ext (pkg : Nat)
  deriving DecidableEq, Repr

/-- An expert message in transit, or waiting at its receiver. -/
structure EFlight where
  src : MEnd
  dst : MEnd
  msg : EMsg
  deriving DecidableEq, Repr

/-- An operation accepted by an island. `phase` 0: accepted; 1: under way; 2: its work is done and its tokens wait for `writes` to be
performed at `scope`. `out` are those tokens; `pend` the tokens of a PDEC still to come, or the SRCFREE token of a
COLL, each with the writes it waits for; `msgs` the contributions of a tray fire, which leave when its chain completes (R435); `num` are numbers
that the kind of task keeps: for a handler chain, the slot whose task is next and the tasks left of its 16 (R249, R265). `ahead` are elements that it has
read already: the reads of a task are not ordered among themselves (R319). `since` is the cycle of its first access that found no way or no answer, and after its work
that of its writes (R459, R462); `held` stands only within a step: such an access ends it no sooner than its deadline. -/
structure Task where
  id : Nat
  kind : TaskKind
  pk : Option Packet
  phase : Nat
  writes : List Nat
  scope : Scope
  out : List Result
  pend : List (List Nat × Result)
  num : List Nat
  coll : Option CollDesc
  ahead : List Ahead
  since : Option Nat := none
  held : Bool := false
  msgs : List (MEnd × EMsg) := []
  deriving DecidableEq, Repr

/-- The channel and the work of an island: packets not yet accepted (16 slots), accepted operations, and results not yet delivered (the
first 64 stand in result slots). -/
structure Chan where
  packets : List Packet := []
  tasks : List Task := []
  results : List Result := []
  deriving DecidableEq, Repr

/-- Accumulator formats of a bank record (R237, R244). -/
inductive AccFmt where
  | none | f32 | i32 | f64
  deriving DecidableEq, Repr

/-- An accumulator bank and its record (R237). Cells differ from zero where listed, by 128·row + column; with `base` some moment, an
unlisted cell holds an unspecified value (R248). -/
structure HBank where
  cells : Tab Nat := []
  poison : List Nat := []
  base : Option Nat := none
  m : Nat := 0
  n : Nat := 0
  fmt : AccFmt := .none
  rows : List RowTag := []
  deriving DecidableEq, Repr

/-- A handler slot: its descriptor once written, and its scale extension once written (R245, R251). -/
structure HSlot where
  words : Option (List Nat) := none
  ext : Option (Nat × Nat) := none
  deriving DecidableEq, Repr

/-- A side of a tray (R252 to R254): its rows, the timer's remaining resident cycles, whether it is due by timer or flush, and whether it has
fired and is not yet freed. -/
structure TraySide where
  rows : List RowTag := []
  left : Option Nat := none
  due : Bool := false
  firing : Bool := false
  deriving DecidableEq, Repr

/-- A tray: its configuration, the filling side, and both sides (R252). -/
structure Tray where
  tbase : Nat := 0
  rowb : Nat := 0
  tslot : Nat := 0
  thr : Nat := 0
  timer : Nat := 0
  tsc : Nat := 0
  scb : Nat := 0
  fill : Nat := 0
  s0 : TraySide := {}
  s1 : TraySide := {}
  deriving DecidableEq, Repr

/-- A Hearth tile (R237), with the context that binds it, the gateway and index of the binding, and the context of a saved load that holds
it (R432). -/
structure Tile where
  cid : Option Nat := none
  gw : Nat := 0
  ix : Nat := 0
  held : Option Nat := none
  b0 : HBank := {}
  b1 : HBank := {}
  slots : Tab HSlot := []
  trays : List Tray := [{}, {}, {}, {}]
  routes : Tab (Nat × Nat) := []
  hdrs : List (BitVec 256) := []
  counts : List Nat := [0, 0, 0, 0, 0, 0, 0, 0]
  inbound : List EMsg := []
  ws : Tab Byte := []
  wsPoison : List Nat := []
  deriving DecidableEq, Repr

/-- An entry of a credit cache (R430): its count, and the CRINIT with which it was made (R442). -/
structure Credit where
  n : Nat
  init : Nat
  deriving DecidableEq, Repr

/-- A Sifter (R424, R430, R441). The directory cache is keyed by EXPID, the credit cache by the tray's path; `late` has credits that have arrived, by path,
number and cycle, which a dispatch counts from the next cycle on (R430); `scanAt` is the cycle from which its overflow queues are due to be re-examined
(R437); `qtb` is SFQTB as its binding found it (R442). -/
structure Sifter where
  cid : Option Nat := none
  dir : Tab (BitVec 128) := []
  credits : Tab Credit := []
  late : List (Nat × Nat × Nat) := []
  pop : Tab Nat := []
  scanAt : Nat := 0
  qtb : Word64 := 0
  deriving DecidableEq, Repr

/-- A Rack's configuration (R281): output and flag entries with the width of the output's span, the output format, and N. -/
structure RackCfg where
  out : Nat
  flag : Nat
  of : Nat
  n : Nat
  deriving DecidableEq, Repr

/-- A KIDX of a live manifest (R438): its group size once known, a null, a late or repeated contribution, the contributions accepted, the weight of the first
of them, and the OR of their POI; by slice, those in the contribution store that are not folded yet, and those in the spill region, whose lanes lie in memory
(R439). -/
structure KState where
  g : Option Nat := none
  isNull : Bool := false
  bad : Bool := false
  n : Nat := 0
  wgt : Nat := 0
  poi : Bool := false
  got : List (Nat × EMsg) := []
  spilled : List (Nat × EMsg) := []
  deriving DecidableEq, Repr

/-- A live manifest (R282): the row's tag and SEQ, the experts chosen, and each KIDX; how many of them have been folded, and the accumulator: an FP32 code for each
element that a contribution has used (R438). -/
structure Manifest where
  tag : Tag
  seq : BitVec 26
  kk : Nat
  ks : List KState
  folded : Nat := 0
  acc : List (Option Nat) := []
  deriving DecidableEq, Repr

/-- A Rack (R424, R281, R282, R438 to R440); `spb` is RKSPB as its binding found it (R442). Rows of its output buffer stand among the
results of its channel. -/
structure Rack where
  cid : Option Nat := none
  cfg : Option RackCfg := none
  x : BitVec 26 := 0
  mans : List Manifest := []
  counts : List Nat := [0, 0, 0, 0, 0, 0, 0, 0]
  spb : Word64 := 0
  deriving DecidableEq, Repr

/-- The Braid interlock's entries, each with the tasks that name it in acceptance order (R448), and the units that assist a task (R446). -/
structure Braid where
  lock : List (Nat × Nat × List Nat) := []
  assist : List (Nat × Isle) := []
  deriving DecidableEq, Repr

/-- State of islands saved with a load (R265, R443): tiles by gateway and index, Racks and Sifters likewise, and the chains that a forced
pre-emption stopped between two tasks. -/
structure IsleSave where
  tiles : List (Nat × Nat × Nat × Tile)
  racks : List (Nat × Nat × Rack)
  sifters : List (Nat × Nat × Sifter)
  chains : List (Nat × Nat × Task)
  deriving DecidableEq, Repr

/-! ### Contexts and the loader -/

/-- Context states (R50). -/
inductive CtxSt where
  | free | idle | queued | resident | parked | stopped
  deriving DecidableEq, Repr

/-- Fault codes (R404). -/
inductive FCode where
  | illop | align | xlatf | permf | wpf | msfull | poisonc | spanf | islandf | migabort | linkf | timeout | priv | trap | brk | loader
  deriving DecidableEq, Repr

/-- A fault record (R407) with the frame it parks (none for a fault of the context). -/
structure FaultRec where
  fid : Nat
  code : FCode
  port : Bool
  ctx : Bool
  eng : Bool
  sub : Nat
  hdr : Nat
  loc : Nat
  addr : Nat
  src : Nat
  aux : Nat
  time : Nat
  frame : Option (BitVec 14)
  deriving DecidableEq, Repr

/-- A gateway of a placed load: its kind and the islands it binds (R375). -/
structure Gateway where
  kind : IsleKind
  count : Nat
  isles : List Isle
  deriving DecidableEq, Repr

/-- The resident fabric load: die, north-west page, shape, gateways, its index in the image, and what is placed (R383). -/
structure Load where
  ix : Nat
  die : Nat
  row : Nat
  col : Nat
  w : Nat
  h : Nat
  gws : List Gateway
  since : Nat
  deriving DecidableEq, Repr

/-- A node record of an image: page position, FE, node number, record (R119). -/
structure ImgNode where
  px : Nat
  py : Nat
  fe : Nat
  node : Nat
  rcd : Record
  deriving DecidableEq, Repr

/-- An initial token of an image (R120). -/
structure ImgTok where
  px : Nat
  py : Nat
  fe : Nat
  node : Nat
  port : Port
  ma : Ma
  wid : Nat
  lanes : Payload
  deriving DecidableEq, Repr

/-- A span of an image: its anchor and WID (R119). -/
structure ImgSpan where
  px : Nat
  py : Nat
  fe : Nat
  wid : Nat
  deriving DecidableEq, Repr

/-- One fabric load of a checked image (R118 to R120). -/
structure ImgLoad where
  w : Nat
  h : Nat
  spans : List ImgSpan
  nodes : List ImgNode
  gws : List (IsleKind × Nat)
  streams : List (Nat × Nat × StreamDef)
  banks : List (Nat × Nat × Bank)
  toks : List ImgTok
  deriving DecidableEq, Repr

/-- A launch record (R389). -/
structure LaunchRec where
  imgva : Nat
  savepa : Nat
  savesize : Nat
  nva : Nat
  irq : Bool
  vec : Nat
  resv : Bool
  deriving DecidableEq, Repr

/-- A message in a mailbox (R230). -/
structure Msg where
  lanes : Payload
  poi : Bool
  deriving DecidableEq, Repr

/-- An entry of a pin table (R221). -/
structure Pin where
  va : Nat
  size : Nat
  pa : Nat
  r : Bool
  w : Bool
  a : Bool
  deriving DecidableEq, Repr

/-- A pending WAITL (R192). -/
structure Wait where
  span : Nat
  node : Nat
  cid : Nat
  g : Word
  toks : List Token
  since : Nat
  deriving DecidableEq, Repr

/-- What has ended a graph or its load: DONE of the graph, `done.next`, a clear of a STOPPED context, the clearing of EN, or a rejection by
the loader. -/
inductive EndKind where
  | graph | next | clear | kill | reject
  deriving DecidableEq, Repr

/-- An end that is not yet carried out (R193, R199, R51, R412): its kind and the status. `swept` says that held accesses have been dropped
and dirty bank lines written back. -/
structure Ending where
  kind : EndKind
  status : Word
  swept : Bool := false
  deriving DecidableEq, Repr

/-- A pending pre-emption (R413): the cycle of its request. -/
structure Preempt where
  at_ : Nat
  deriving DecidableEq, Repr

/-- Saved pages and spans of a context that is not resident (R417 to R421): the placed load, pages by place in it (py·16 + px), spans
by place and FE, and the kind of save (1 at a batch boundary, 2 forced). -/
structure Save where
  kind : Nat
  load : Load
  pages : Tab Page
  spans : Tab Span
  isles : IsleSave
  deriving DecidableEq, Repr

/-- A checkpoint: the number of its cut, the saved states and tokens, the tokens recorded for it, the frame pool and the pending WAITLs (R352,
R381). -/
structure Cut where
  n : BitVec 16
  save : Save
  recs : List Token
  pool : List (BitVec 14)
  waits : List Wait
  deriving DecidableEq, Repr

/-- Rollback containment of a context (R352 to R354): logged lines with the round of the write, their poison and
their key (a home address, or above 2^60 for a page store),
the last complete cut, the cuts not yet complete, the rollbacks of this cut in a row, whether poison containment is in force until the next cut,
whether a read has met an error, and the log space used. The cuts are what the two checkpoint slots of R352 hold. -/
structure Undo where
  lines : List (BitVec 16 × Nat × List Byte × List Nat)
  cut : Option Cut
  begun : List Cut
  tries : Nat
  poison : Bool
  hit : Bool
  used : Nat
  deriving DecidableEq, Repr

/-- A context (R47, R50). Registers are whole 64-bit words. -/
structure Ctx where
  cfg : Word64 := 0
  fpctl : Word64 := 0
  ptroot : Word64 := 0
  spillbase : Word64 := 0
  spillsize : Word64 := 6
  framebase : Word64 := 0
  trapnode : Word64 := 0
  faultq : Word64 := 4
  prio : Word64 := 2
  weight : Word64 := 1
  deficit : Word64 := 0
  hotdecay : Word64 := 0x01000000
  deriving DecidableEq, Repr

/-- The life of a context's graph (R50 to R53, R190, R192). -/
structure Graph where
  st : CtxSt := .free
  draining : Bool := false
  gen : Word := 0
  status : Word := 0
  cause : BitVec 3 := 0
  halt : Option Word := none
  lrec : LaunchRec := ⟨0, 0, 0, 0, false, 0, false⟩
  checked : Bool := false
  image : List ImgLoad := []
  ix : Nat := 0
  load : Option Load := none
  save : Option Save := none
  pool : List (BitVec 14) := []
  ending : Option Ending := none
  nextFid : Nat := 1
  faults : List FaultRec := []
  posts : List FaultRec := []
  preempt : Option Preempt := none
  victim : Bool := false
  yielded : Bool := false
  newPrio : Bool := false
  queuedAt : Nat := 0
  spent : Nat := 0
  skip : Bool := false
  msfull : Option FaultRec := none
  blocked : Bool := false
  reloc : Bool := false
  kept : List (Nat × Gateway) := []
  compacted : Option Nat := none
  firstDie : Option Nat := none
  order : Nat := 0
  islRound : BitVec 16 := 0
  ldrRound : BitVec 16 := 0
  forced : Bool := false
  deriving DecidableEq, Repr

/-- What the loader and the Leaven engine hold for a context beside its graph (R221, R230, R277, R352, R391, R416). `away` are inbound tokens
that were refused because no place of the load is theirs, parked with frame 0 (R38, R391); `saw` the writes that its engine tasks have returned and that are not
yet performed at SYS (R305, R308). -/
structure Hold where
  inbound : List Token := []
  away : List Token := []
  toks : List Token := []
  traps : List FaultRec := []
  mail : Tab (List Msg) := []
  pins : List Pin := []
  waits : List Wait := []
  dirBase : Word64 := 0
  dirCount : Nat := 0
  undo : Option Undo := none
  retries : List Access := []
  saw : List Nat := []
  deriving DecidableEq, Repr

/-- Pages and islands held for a queued load (R397). -/
structure Reserve where
  cid : Nat
  pages : List Nat
  isles : List Isle
  deriving DecidableEq, Repr

/-- A compaction of a die (R387): for the load of a context, the contexts still to move in order, when the first of them was asked, and whether it has come to a
batch boundary since. -/
structure Compact where
  die : Nat
  cid : Nat
  todo : List Nat
  asked : Nat
  passed : Bool := false
  deriving DecidableEq, Repr

/-- The fabric loader (R393 to R400, R387). -/
structure Loader where
  runq : List (List Nat) := [[], [], [], []]
  asks : List Nat := []
  reserve : List Reserve := []
  compact : Option Compact := none
  decide : Bool := false
  last : Nat := 0
  placed : Nat := 0
  deriving DecidableEq, Repr

/-! ### The Leaven engine (R336 to R350) -/

/-- Phases of a migration (R337, R339): asked for and waiting to start; entering (its shoot-down runs); copying; switching (ports hold new
accesses); done switching (its shoot-down runs); aborting with a cause; its leaf restored (the shoot-down runs). -/
inductive MigPhase where
  | waiting | enter | copy | switch | finish | abort (cause : Nat) | restore (cause : Nat)
  deriving DecidableEq, Repr

/-- A migration (R336, R337): its leaf, target tier and package, both frames, the state the leaf returns to, the lines copied, when phase 1
ended, and the task of a MIGR that asked (none for an automatic one), with its WAIT. -/
structure Migr where
  id : Nat
  cid : Nat
  va : Nat
  size : Nat
  tier : Nat
  src : Nat
  dst : Nat
  prev : Nat
  copied : Nat
  phase : MigPhase
  started : Nat
  task : Option (Isle × Nat)
  deriving DecidableEq, Repr

/-- A shoot-down in progress (R334): the context, the range (none for every translation), whether LVSHCMD started it, the accesses (page and
identifier) that were accepted with an entry it drops, and the migration it serves. -/
structure Shoot where
  id : Nat
  cid : Nat
  va : Nat
  size : Option Nat
  cmd : Bool
  waits : List (Nat × Nat)
  migr : Option Nat
  deriving DecidableEq, Repr

/-- A recorded copy set of an RDUP leaf (R346): its members (package, context), and where its entries lie in the tables of this package's
members. -/
structure CopySet where
  ptes : List Nat
  members : List (Nat × Nat)
  deriving DecidableEq, Repr

/-- An MRDUP under way (R346, R347): its task, whether it collapses, its context, the leaves it acts on, the other members on this package, the
copy set of each leaf, the frames taken for their copies in order, the frames it has still to post, and the identifier from which accesses were accepted later. -/
structure DupOp where
  id : Nat
  mod_ : Bool
  cid : Nat
  leaves : List (Nat × Nat)
  others : List Nat
  sets : List CopySet
  frames : List Nat
  owed : Nat
  since : Nat
  deriving DecidableEq, Repr

/-- Leaven registers (R345). -/
structure LvRegs where
  ctl : Word64 := 0x0100000001001000
  thr : Word64 := 0x1000010000200440
  auto : Word64 := 0
  ftb : Word64 := 0
  frb : Word64 := 0
  wmark : Word64 := 0x0000000400000400
  shva : Word64 := 0
  shcmd : Word64 := 0
  cst : Word64 := 0
  rbt : Word64 := 0
  xrt : Word64 := 0
  stat : Word64 := 0
  deriving DecidableEq, Repr

/-- The Leaven engine: `spare` are frames that aborted migrations returned to their pools (pool, PA); `bad` the ring descriptors logged as
naming no ring, with their contents (R344); `counts` the accesses counted for each tier (R342); `decays` and `popDecays` the cycles of the last
halvings, by owner (64: none) and context; `acts` the residency actions under way: context, EXPID, RES after (R350). -/
structure Leaven where
  regs : LvRegs := {}
  migrs : List Migr := []
  shoots : List Shoot := []
  ops : List DupOp := []
  copysets : List CopySet := []
  spare : List (Nat × Nat) := []
  bad : Tab Nat := []
  counts : List Nat := [0, 0, 0]
  decays : Tab Nat := []
  popDecays : Tab Nat := []
  acts : List (Nat × Nat × Nat) := []
  deriving DecidableEq, Repr

/-! ### Memory -/

/-- Global memory by home address: bytes that differ from zero (R328, R485), poisoned granules, and the write elements in home order
that some party may not see yet; those of engine tasks that have no place in it yet; the second-level TLBs and that of the I/O die; each CXL port's link and exposed capacity. -/
structure Mem where
  cells : List (Nat × Byte) := []
  poison : List Nat := []
  wlog : List WEl := []
  pend : List Pend := []
  nextId : Nat := 0
  tlb2 : List (List TlbEntry) := [[], [], [], []]
  tlbIo : List TlbEntry := []
  cxl : List (Bool × Nat) := [(true, 0), (true, 0), (true, 0), (true, 0)]
  gone : List (Nat × Nat) := []
  deriving DecidableEq, Repr
/-! ### Links, host, errors and trust (chapters 15 and 16) -/

/-- A Sterabel flit as a port sends it (R455, R459): virtual channel (0 REQ, 1 RSP, 2 EXP, 3 COLL), link sequence number, the link number that it
acknowledges, source and destination package, end-to-end sequence number, its 240 bytes of payload, and its CRC-32. -/
structure Flit where
  vc : Nat
  lseq : Nat
  ack : Nat
  src : Nat
  dst : Nat
  eseq : Nat
  payload : List Byte
  crc : BitVec 32
  deriving DecidableEq, Repr

/-- Where a flit to be sent stands: it waits for a port, is in the retry buffer of the port that has sent it, or has been taken by that port's peer. -/
inductive FlitAt where
  | waiting
  | sent (port : Nat)
  | taken
  deriving DecidableEq, Repr

/-- A flit that this package has to send or forward (R456 to R459), and whether the package is its source, which keeps it until the destination
acknowledges it. -/
structure OutFlit where
  flit : Flit
  at_ : FlitAt
  own : Bool
  deriving DecidableEq, Repr

/-- A Sterabel port (R456, R457, R464): the fields of SBPST, the link number it expects, the refusals of the flit of that number, and the cycle since
which it has not been up; and as a sender the next link number, the replays of its oldest unacknowledged flit, its credits in each virtual channel, the channel of the last flit
and that of the last flit which was not RSP. -/
structure SbPort where
  state : Nat := 0
  lanes : Nat := 0
  peer : Nat := 0
  fecc : Nat := 0
  crcf : Nat := 0
  retry : Nat := 0
  next : Nat := 0
  tries : Nat := 0
  down : Nat := 0
  sendNo : Nat := 0
  replays : Nat := 0
  credit : List Nat := [0, 0, 0, 0]
  lastVc : Nat := 0
  turn : Nat := 0
  deriving DecidableEq, Repr

/-- The Sterabel block (R464), the end-to-end numbers expected by (source, destination, channel), and the flits delivered (R459); the flits to be sent, and
the next end-to-end number by destination and channel. -/
structure Sterabel where
  ctl : Word64 := 0x0000040040000000
  id : Word64 := 0
  ports : Tab SbPort := []
  rt : Tab Word64 := []
  expect : Tab Nat := []
  early : List Flit := []
  given : List Flit := []
  out : List OutFlit := []
  eseq : Tab Nat := []
  deriving DecidableEq, Repr

/-- The expert routing block (R442). -/
structure Routing where
  sfctl : Word64 := 32
  sfqtb : Word64 := 0
  rkspb : Tab Word64 := []
  deriving DecidableEq, Repr

/-- An ingress channel window (R388). -/
structure Window where
  lrec : BitVec 512 := 0
  lstat : Nat := 0xFF
  lgen : Word := 0
  cstatus : Word := 0
  ccause : BitVec 3 := 0
  cgen : Word := 0
  irec : BitVec 512 := 0
  istat : Nat := 0xFF
  deriving DecidableEq, Repr

/-- What the host port returns for a read: bytes with their poison, or an abort (R466). -/
inductive HostReply where
  | data (bytes : List Byte) (poi : Bool)
  | abort
  | unsupported
  deriving DecidableEq, Repr

/-- A write to the control aperture that has been received and not carried out (R475, R526): offset, size and value. -/
structure CtlWrite where
  off : Nat
  size : Nat
  val : Nat
  deriving DecidableEq, Repr

/-- The host port (R465, R466, R468): the windows, HWBASE, the MSI-X table and pending bits, the vectors sent, replies to reads, the recovery buffer (R472, R475), whether
the root port has enabled AtomicOp requests, and the registers' parts of a host write to the aperture of more than 8 bytes (R526). -/
structure HostPort where
  wins : Tab Window := []
  hwbase : Word64 := 0
  barLog : Nat := 36
  msixTab : Tab Byte := []
  msixPend : List Nat := []
  msix : List Nat := []
  replies : List HostReply := []
  recovery : Tab Byte := []
  atomicOp : Bool := false
  pieces : List CtlWrite := []
  deriving DecidableEq, Repr

/-- The global registers (R476) beside MCYC. -/
structure Globals where
  brkst : Word64 := 0
  cmdCid : Nat := 0
  cmdRes : Nat := 7
  cmd : Nat := 0
  dbgEn : Bool := false
  dbgWerr : Bool := false
  dbgsel : Word64 := 0
  deriving DecidableEq, Repr

/-- An event raised and not yet arbitrated (R477), with the repair unit of R481. -/
structure Event where
  kind : Nat
  src : Nat
  idx : Nat
  addr : Nat
  unit : Nat
  deriving DecidableEq, Repr

/-- A log entry (R479): the event, its time and its event number. -/
structure LogEnt where
  ev : Event
  time : Nat
  num : Nat
  deriving DecidableEq, Repr

/-- A tracked source (R481): the times of its events, oldest first. -/
structure Tracked where
  src : Nat
  idx : Nat
  unit : Nat
  times : List Nat
  deriving DecidableEq, Repr

/-- A die's error block (R49, R477 to R481, R486, R487). `remaps` are the rows or lines being copied to spares,
`at_` the cycle of the last arbitration. -/
structure DieSt where
  events : List Event := []
  log : List LogEnt := []
  ovf : Bool := false
  corr : Nat := 0
  uncorr : Nat := 0
  errwin : Word64 := 0x0000400000000010
  num : Nat := 0
  tracked : List Tracked := []
  remaps : List Event := []
  sensors : List Int := [0, 0, 0]
  throttle : List Bool := [false, false, false]
  plim : Nat := 5400
  at_ : Option Nat := none
  deriving DecidableEq, Repr

/-- A certificate of the chain in slot 0 (R474): the key it is for, and the signature by its issuer's key. -/
structure Cert where
  key : BitVec 768
  sig : BitVec 768
  deriving DecidableEq, Repr

/-- What the security processor answers to an SPDM request (R474). -/
inductive SpdmReply where
  | version | capabilities | algorithms | digests | certificate (chain : List Cert)
  | challenge (slots : List (BitVec 384)) (nonce : BitVec 256) (sig : BitVec 768)
  | measurements (slots : List (BitVec 384)) (nonce : BitVec 256) (sig : Option (BitVec 768))
  | error (code : Nat)
  deriving DecidableEq, Repr

/-- The security processor (R466, R471 to R475): BOOT, the 16 measurement slots, the image whose verification failed, and
SPDM: how far the negotiation has come, and the answers given. -/
structure Sec where
  boot : BitVec 3 := 0
  slots : List (BitVec 384) := List.replicate 16 0
  failed : Nat := 0
  spdm : Nat := 0
  replies : List SpdmReply := []
  deriving DecidableEq, Repr

/-! ### What outside agents do -/

/-- A request of another package (R460, R461): who asks, its CID, JOBID and privilege, and what it asks of a local PA. A write says the size of the
elements of its access (R312), an atomic the FTZ of its firing (R217). -/
inductive ReqKind where
  | read (len : Nat)
  | write (el : Nat) (bytes : List Byte) (poi : Bool)
  | atom (fmt : Fmt) (op : Nat) (opnd : Nat) (ftz : Bool)
  | cas (fmt : Fmt) (cmp new : Nat)
  | msend (cid box : Nat) (msg : Msg)
  deriving DecidableEq, Repr

structure RemReq where
  pkg : Nat
  cid : Nat
  jobid : Nat
  priv : Bool
  pa : Nat
  kind : ReqKind
  deriving DecidableEq, Repr

/-- A firmware image as the security processor reads it (R471): version, length, digest, signature, signing key, and body. -/
structure Firmware where
  version : Nat
  length : Nat
  header : List Byte
  body : List Byte
  digest : BitVec 384
  key : BitVec 768
  sig : BitVec 768
  deriving DecidableEq, Repr

/-- SPDM requests (R474). -/
inductive SpdmReq where
  | getVersion | getCapabilities | negotiate (ecdsaP384 sha384 : Bool) | getDigests | getCertificate (slot : Nat)
  | challenge (slot : Nat) (nonce : BitVec 256) | getMeasurements (sel : Nat) (signed : Bool) (nonce : BitVec 256)
  | keyExchange | other
  deriving DecidableEq, Repr

/-- A host access through BAR 2 (R466). -/
inductive HostAcc where
  | read (len : Nat)
  | write (bytes : List Byte) (ep : Bool)
  | atomic
  deriving DecidableEq, Repr

/-- What host software configures beside the registers of the BARs: the size of BAR 2 as a power of two and AtomicOp requests (R465, R468), and an extent of a dynamic
capacity device behind a CXL port, added with what its memory holds or released (R469). -/
inductive HostCfg where
  | barSize (log : Nat)
  | atomicOps (on : Bool)
  | extent (port off len : Nat) (contents : Option (List (Nat × Byte)))
  deriving DecidableEq, Repr

/-- What reaches a port beside a flit (R456, R457, R459): the peer refuses a flit from a link number on, frees buffers of a channel, or a destination acknowledges
the flits of a channel up to an end-to-end number; or the port sends its next flit. -/
inductive PortAct where
  | refused (lseq : Nat)
  | credit (vc n : Nat)
  | arrived (dst vc eseq : Nat)
  | send
  deriving DecidableEq, Repr

/-- Where an uncorrectable or corrected error is found (R351, R479). -/
inductive ErrAt where
  | tier (pa : Nat)
  | store (page off : Nat)
  | weight (tile off : Nat)
  | array (tile : Nat)
  | node (page : Nat)
  | other (die src idx : Nat)
  deriving DecidableEq, Repr

/-! ### The whole -/

/-- The firing that is under way: the span, the node, the tag, and the port of a token that is handled on its own (R168, R103). -/
structure Focus where
  span : Nat
  node : Nat
  tag : Tag
  port : Port
  deriving DecidableEq, Repr

/-- One part of an access's performance (R305): read element `k`; apply element `k` at its home; show a write to every party within a scope of
some party; widen a write's scope; give a write of an engine task its place in home order; send the data token, the completion token, or the token of barrier `k`; fold the oldest write, which every party sees, into
the base contents and forget accesses that are wholly performed. -/
inductive PerfAct where
  | serve (k : Nat)
  | apply (k : Nat)
  | show_ (w : Nat) (q : Party) (sc : Scope)
  | widen (w : Nat)
  | place (w : Nat)
  | data
  | done
  | barrier (k : Nat)
  | fold
  deriving DecidableEq, Repr

/-- The occasion of a step: which of the things it may act on it acts on, and what an agent outside the package does. -/
inductive Occ where
  | none
  | flight (k : Nat)
  | entry (page k : Nat)
  | site (f : Focus)
  | wait (cid k : Nat)
  | arrive (page id : Nat)
  | accept (page port : Nat) (evict : Bool)
  | perf (page id : Nat) (act : PerfAct)
  | ahead (i : Isle) (id addr : Nat)
  | ctx (cid : Nat)
  | isle (i : Isle)
  | task (i : Isle) (id : Nat)
  | result (i : Isle) (k : Nat)
  | tray (tile tray : Nat)
  | emsg (k : Nat)
  | emsgIn (pkg : Nat) (m : EMsg)
  | migr (id : Nat)
  | shoot (id : Nat)
  | leaf (cid va tier : Nat)
  | frame (k : Nat)
  | expert (cid expid : Nat)
  | err (at_ : ErrAt) (uncorr : Bool) (unit : Nat)
  | die (d k : Nat)
  | sensor (d k : Nat) (v : Int)
  | reg (num tgt : Nat) (val : Word64)
  | aperture (w : CtlWrite)
  | queued
  | bar0 (off : Nat) (bytes : List Byte)
  | bar2 (off : Nat) (a : HostAcc)
  | bar0Read (off n : Nat)
  | bar0Atomic (off : Nat)
  | regRead (num tgt : Nat)
  | config (c : HostCfg)
  | request (r : RemReq)
  | firmware (imgs : List Firmware) (cxl : List Nat)
  | slot (k : Nat) (digest : BitVec 384)
  | spdm (r : SpdmReq)
  | flit (port corrected : Nat) (f : Flit)
  | portAct (port : Nat) (a : PortAct)
  | port (k : Nat) (state lanes peer : Nat)
  | cxl (k : Nat)
  | comb (e : CombEntry) (set : Bool)
  deriving DecidableEq, Repr

/-- What moves next: a firing of a span, or a step of the hardware or of an agent outside. -/
inductive Move where
  | fire (f : Focus)
  | step (i : Instr) (o : Occ)
  deriving DecidableEq, Repr

/-- Everything of the package but the security processor's own state. `ids`, `tick`, `focus`, `occ` and `opRound` are the model's own: fresh
identifiers, the moment of free values, the firing under way, the occasion of the step, and the round of the access or task it acts on (R352). -/
structure Dev where
  now : Word64 := 0
  spans : Tab Span := []
  pages : Tab Page := []
  ctxs : Tab Ctx := []
  graphs : Tab Graph := []
  holds : Tab Hold := []
  net : List Flight := []
  combs : List CombEntry := []
  slots : Tab (List Nat) := []
  loader : Loader := {}
  mem : Mem := {}
  leaven : Leaven := {}
  chans : Tab Chan := []
  tiles : Tab Tile := []
  sifters : Tab Sifter := []
  racks : Tab Rack := []
  braid : Braid := {}
  emsgs : List EFlight := []
  rankCache : List (Nat × Nat × List Nat) := []
  ctlq : List CtlWrite := []
  sb : Sterabel := {}
  rt : Routing := {}
  host : HostPort := {}
  glob : Globals := {}
  dies : List DieSt := [{}, {}, {}, {}, {}]
  offTiles : List Nat := []
  tripped : Bool := false
  ids : Nat := 0
  tick : Nat := 0
  focus : Focus := ⟨0, 0, ⟨0, 0, 0⟩, .l⟩
  occ : Occ := .none
  opRound : BitVec 16 := 0
  deriving DecidableEq, Repr

structure State where
  dev : Dev := {}
  sec : Sec := {}
  agenda : List Move := []
  deriving DecidableEq, Repr

/-- Reasons a step stops the machine. No rule of the spec stops the machine: the manual's faults are next states. -/
inductive Fault where
  /-- Raised by nobody. Safe. -/
  | none
  deriving DecidableEq, Repr

/-- Reasons a step has no meaning. -/
inductive Refusal where
  /-- Raised by an arm of `exec` whose instruction has no meaning yet. Safe: the run stops. -/
  | notModelled (mnemonic : String)
  deriving DecidableEq, Repr

def State.reset : State := {}

end Sys2Proof.Machine
end

