-- ==== Sys2Proof/Machine/Ops.lean ====
section
/-! DEFINITION. The named operations over the state: reading and writing its parts, destinations, queues, sending tokens, taking a fault
and returning from one. -/

namespace Sys2Proof.Machine

/-! ### Parts of the state -/

namespace Dev

def span (d : Dev) (k : Nat) : Span := d.spans.getD k {}
def modSpan (d : Dev) (k : Nat) (f : Span → Span) : Dev := { d with spans := d.spans.set k (f (d.span k)) }
def page (d : Dev) (p : Nat) : Page := d.pages.getD p {}
def modPage (d : Dev) (p : Nat) (f : Page → Page) : Dev := { d with pages := d.pages.set p (f (d.page p)) }
def ctx (d : Dev) (c : Nat) : Ctx := d.ctxs.getD c {}
def modCtx (d : Dev) (c : Nat) (f : Ctx → Ctx) : Dev := { d with ctxs := d.ctxs.set c (f (d.ctx c)) }
def graph (d : Dev) (c : Nat) : Graph := d.graphs.getD c {}
def modGraph (d : Dev) (c : Nat) (f : Graph → Graph) : Dev := { d with graphs := d.graphs.set c (f (d.graph c)) }
def hold (d : Dev) (c : Nat) : Hold := d.holds.getD c {}
def modHold (d : Dev) (c : Nat) (f : Hold → Hold) : Dev := { d with holds := d.holds.set c (f (d.hold c)) }

end Dev

/-! ### Islands -/

def kindCode : IsleKind → Nat
  | .hearth => 0 | .peel => 1 | .sifter => 2 | .rack => 3 | .braid => 4 | .leaven => 5 | .coll => 6

/-- Numbers of islands: of any kind for the channels; of Hearth tiles (48 a die), and of Sifters and Racks (2 a die, R424). -/
def Isle.key (i : Isle) : Nat := (kindCode i.kind * 8 + i.die) * 64 + i.ix
def Isle.tileNo (i : Isle) : Nat := i.die * 48 + i.ix
def Isle.unitNo (i : Isle) : Nat := i.die * 2 + i.ix

/-- The island of a number. -/
def isleOf (k : Nat) : Isle :=
  ⟨match k / 512 with | 0 => .hearth | 1 => .peel | 2 => .sifter | 3 => .rack | 4 => .braid | 5 => .leaven | _ => .coll, k / 64 % 8, k % 64⟩

/-- An operation that has just been accepted. -/
def freshTask (id : Nat) (kind : TaskKind) : Task :=
  { id, kind, pk := none, phase := 0, writes := [], scope := .elem, out := [], pend := [], num := [], coll := none, ahead := [] }

namespace Dev

def chan (d : Dev) (i : Isle) : Chan := d.chans.getD i.key {}
def modChan (d : Dev) (i : Isle) (f : Chan → Chan) : Dev := { d with chans := d.chans.set i.key (f (d.chan i)) }
def tile (d : Dev) (t : Nat) : Tile := d.tiles.getD t {}
def modTile (d : Dev) (t : Nat) (f : Tile → Tile) : Dev := { d with tiles := d.tiles.set t (f (d.tile t)) }
def sifter (d : Dev) (t : Nat) : Sifter := d.sifters.getD t {}
def modSifter (d : Dev) (t : Nat) (f : Sifter → Sifter) : Dev := { d with sifters := d.sifters.set t (f (d.sifter t)) }
def rack (d : Dev) (t : Nat) : Rack := d.racks.getD t {}
def modRack (d : Dev) (t : Nat) (f : Rack → Rack) : Dev := { d with racks := d.racks.set t (f (d.rack t)) }
def die (d : Dev) (k : Nat) : DieSt := (d.dies[k]?).getD {}
def modDie (d : Dev) (k : Nat) (f : DieSt → DieSt) : Dev := { d with dies := modNth f k d.dies }

end Dev

/-- An event is raised on a die (R477). -/
def raiseEvent (d : Dev) (die : Nat) (e : Event) : Dev := d.modDie die fun x => { x with events := x.events ++ [e] }

/-- A free value (log 2): each takes its own moment. -/
def freeNat (w : Nat) (d : Dev) : Nat × Dev := ((Config.freeBits w d.tick).toNat, { d with tick := d.tick + 1 })

/-- Registers read as their documented fields. -/
def Ctx.en (c : Ctx) : Bool := c.cfg.getLsbD 0
def Ctx.priv (c : Ctx) : Bool := c.cfg.getLsbD 1
def Ctx.contain (c : Ctx) : Bool := c.cfg.getLsbD 2
def Ctx.jobid (c : Ctx) : Nat := fld c.cfg.toNat 31 16
def Ctx.cls (c : Ctx) : Nat := fld c.prio.toNat 1 0
def Ctx.quantum (c : Ctx) : Int := 2 ^ 20 * fld c.weight.toNat 7 0
def Ctx.trapV (c : Ctx) : Bool := c.trapnode.getLsbD 0

def i64 (w : Word64) : Int := w.toInt

/-- The context that holds a page, if any. -/
def Dev.cidOf (d : Dev) (pg : Nat) : Option Nat := (d.page pg).cid.map BitVec.toNat

/-! ### Placed loads (R100, R383) -/

/-- The FE key of load coordinates (x, y), where they lie in the load. -/
def Load.feAt (l : Load) (x y : Int) : Option Nat :=
  if 0 ≤ x ∧ x < 8 * l.w ∧ 0 ≤ y ∧ y < 8 * l.h then
    let x := x.toNat
    let y := y.toNat
    some (feKey l.die ((l.row + y / 8) * 10 + l.col + x / 8) (y % 8 * 8 + x % 8))
  else none

/-- The page numbers of a load, in order of PY and then PX. -/
def Load.pages (l : Load) : List Nat :=
  (List.range l.h).flatMap fun y => (List.range l.w).map fun x => l.die * 80 + (l.row + y) * 10 + l.col + x

def Load.holds (l : Load) (pg : Nat) : Bool := l.pages.contains pg

/-- Load coordinates of an FE key. -/
def feX (d : Dev) (key : Nat) : Nat := (d.page (pageOfFe key)).px * 8 + key % 8
def feY (d : Dev) (key : Nat) : Nat := (d.page (pageOfFe key)).py * 8 + key / 8 % 8

/-- The resident load that holds a span. -/
def Dev.loadOf (d : Dev) (key : Nat) : Option Load := (d.cidOf (pageOfFe key)).bind fun c => (d.graph c).load

/-- A destination of a record, as a physical one: none where it names nothing; SPANF where it leaves the load or reaches no anchor
(R101, R111). -/
def resolveXY (d : Dev) (key : Nat) (x y : Int) (node : Nat) (q : Port) : Except FCode Dest :=
  match (d.loadOf key).bind (·.feAt x y) with
  | some k => if (d.span k).anchor then .ok (destAt k node q) else .error .spanf
  | none => .error .spanf

def resolveDst (d : Dev) (key : Nat) (t : Dst) : Except FCode (Option Dest) :=
  match t with
  | .none => .ok none
  | .to dx dy node q => (resolveXY d key (feX d key + dx.toInt) (feY d key + dy.toInt) node.toNat q).map some

/-- A 22-bit destination code (R100), as FAN's literal holds it; none where a nameless code has other fields. -/
def dstOfCode? (c : Nat) : Option Dst :=
  let node := fld c 11 2
  if node = 0x3FF then (if c = 0xFFC then some .none else none)
  else some (.to (BitVec.ofNat 5 (fld c 21 17)) (BitVec.ofNat 5 (fld c 16 12)) (BitVec.ofNat 10 node) (portOf (fld c 1 0)))

/-! ### Sending tokens -/

def netOf (k : Cls) : Net := match k with | .scale => .salt | .stat => .crumb | _ => .elem

/-- A token leaves for the network of its class; a stat token arrives with lanes from 8 upward invalid (R370). -/
def send (d : Dev) (src : Src) (t : Token) : Dev :=
  let t := if t.cls = .stat then { t with payload := (indexed t.payload).map fun (j, l) => if j < 8 then l else .none } else t
  { d with net := d.net ++ [⟨(d.cidOf (pageOfFe t.dest.key)).getD t.tag.cid.toNat, src, netOf t.cls, t⟩] }

def sendAll (d : Dev) (src : Src) (t : Token) (ds : List Dest) : Dev := ds.foldl (fun d x => send d src { t with dest := x }) d

/-- Tokens of a span that have not arrived: its output queue holds 16 (R419). -/
def queued (d : Dev) (key : Nat) : Nat := (d.net.filter fun f => f.src == .span key).length

def hasSpace (d : Dev) (key n : Nat) : Bool := decide (queued d key + n ≤ 16)

/-! ### Faults (R38, R404 to R408) -/

def fcodeNum : FCode → Nat
  | .illop => 1 | .align => 2 | .xlatf => 3 | .permf => 4 | .wpf => 5 | .msfull => 6 | .poisonc => 7 | .spanf => 8 | .islandf => 9
  | .migabort => 10 | .linkf => 11 | .timeout => 12 | .priv => 13 | .trap => 14 | .brk => 15 | .loader => 16

/-- The first 32 bytes of a fault record, as a number: what identifies the fault (R198, R407). -/
def FaultRec.ident (r : FaultRec) : Nat :=
  r.fid + fcodeNum r.code * 2 ^ 32 + (boolNat r.port + 2 * boolNat r.ctx + 4 * boolNat r.eng) * 2 ^ 40 + r.sub * 2 ^ 48
  + r.hdr * 2 ^ 64 + r.loc * 2 ^ 192

/-- The 64 bytes of a fault record (R407). -/
def FaultRec.bytes (r : FaultRec) : List Byte :=
  bytesOf r.ident 32 ++ bytesOf r.addr 8 ++ bytesOf r.src 4 ++ bytesOf r.aux 4 ++ bytesOf r.time 8 ++ bytesOf 0 8

/-- A frame is parked while it has an outstanding fault (R405). -/
def framePKd (g : Graph) (frame : BitVec 14) : Bool := g.faults.any fun r => r.frame == some frame

def Dev.parkedFrame (d : Dev) (cid : Nat) (frame : BitVec 14) : Bool := framePKd (d.graph cid) frame

/-- Parking of one held token: a ONCE token of a matching store goes to the spill path, everything else stays (R37). -/
def parkEntry (e : Entry) : Entry :=
  match e.place, e.tok.ma with
  | .store, .once => { e with place := .vc1, parked := true }
  | .returned, .once => { e with place := .vc1, parked := true }
  | _, _ => { e with parked := true }

/-- Apply a function to every page of a context's resident load. -/
def modLoadPages (d : Dev) (cid : Nat) (f : Page → Page) : Dev :=
  match (d.graph cid).load with
  | some l => l.pages.foldl (fun d p => d.modPage p f) d
  | none => d

def ofFrame (frame : BitVec 14) (t : Token) : Bool := t.tag.frame == frame

/-- A page's held tokens of a frame are parked. -/
def parkPage (frame : BitVec 14) (p : Page) : Page :=
  { p with toks := p.toks.map fun e => if ofFrame frame e.tok && !e.parked then parkEntry e else e }

/-- A held token joins the tokens of a page. -/
def holdAt (d : Dev) (pg : Nat) (e : Entry) : Dev := d.modPage pg fun p => { p with toks := p.toks ++ [e] }

/-- A token in transit that waits in the output queue of a span: it is withdrawn when its frame is parked (R37). A token that left a span is
in its queue until it arrives (log 76). -/
def inQueue (cid : Nat) (frame : BitVec 14) (f : Flight) : Option Nat :=
  match f.src with
  | .span k => if f.cid == cid && ofFrame frame f.tok && f.tok.cls != .marker then some k else none
  | _ => none

/-- Tokens of a frame in output queues, those of FAR nodes among them, go to the spill path of their page, parked (R37). -/
def withdraw (d : Dev) (cid : Nat) (frame : BitVec 14) (l : Load) : Dev :=
  let d := d.net.foldl (fun d f => match inQueue cid frame f with
    | some k => holdAt d (pageOfFe k) ⟨f.tok, .vc1, true, .queued k⟩
    | none => d) { d with net := d.net.filter fun f => (inQueue cid frame f).isNone }
  d.spans.foldl (fun d e =>
    if l.holds (pageOfFe e.1) && e.2.farQ.any (ofFrame frame) then
      (e.2.farQ.filter (ofFrame frame)).foldl (fun d t => holdAt d (pageOfFe e.1) ⟨t, .vc1, true, .plain⟩)
        (d.modSpan e.1 fun s => { s with farQ := s.farQ.filter fun t => !ofFrame frame t })
    else d) d

/-- Every token of a frame held by the load is parked (R37, R38). -/
def parkFrame (d : Dev) (cid : Nat) (frame : BitVec 14) : Dev :=
  match (d.graph cid).load with
  | some l => withdraw (modLoadPages d cid (parkPage frame)) cid frame l
  | none => d

/-- LOC of a record (R407). -/
def locOf (d : Dev) (key node : Nat) (arrival : Option Port) : Nat :=
  feX d key + feY d key * 2 ^ 8 + node * 2 ^ 16 + ((arrival.map portCode).getD 0) * 2 ^ 26 + (key / 5120) * 2 ^ 28 + (key / 64 % 80) * 2 ^ 32

/-- The FID after `f`; 0 is skipped. -/
def nextFid (f : Nat) : Nat := if f + 1 = 2 ^ 32 then 1 else f + 1

/-- What a fault says beside its code. -/
structure FInfo where
  port : Bool := false
  ctx : Bool := false
  eng : Bool := false
  sub : Nat := 0
  hdr : Nat := 0
  loc : Nat := 0
  addr : Nat := 0
  src : Nat := 0
  aux : Nat := 0
  deriving DecidableEq, Repr

/-- TAKING A FAULT (R405 to R407): the fault gets the next FID, becomes outstanding, its record is queued for posting, and its frame is
parked. A fault of the context (`frame` none) parks nothing here, and no RESUME action is listed for it (R404). Once DONE or HALT has acted, a later trap of the launch is discarded (R200). -/
def takeFault (d : Dev) (cid : Nat) (frame : Option (BitVec 14)) (code : FCode) (x : FInfo) : Dev :=
  let g := d.graph cid
  if g.ending.isSome || g.st == .stopped then d else
  let r : FaultRec := ⟨g.nextFid, code, x.port, x.ctx, x.eng, x.sub, x.hdr, x.loc, x.addr, x.src, x.aux, d.now.toNat, frame⟩
  let d := d.modGraph cid fun g =>
    { g with nextFid := nextFid g.nextFid, posts := g.posts ++ [r], faults := g.faults ++ [r] }
  match frame with
  | some f => parkFrame d cid f
  | none => d

/-- SEQ order among tokens (R20, R38). -/
def bySeq (a b : Token) : Bool := a.seq != b.seq && seqPrecedes a.seq b.seq

/-! ### Loop area, counts, cycles -/

def addCounts (d : Dev) (key : Nat) (k : Counts) : Dev := d.modSpan key fun s => { s with counts := s.counts.gather k }

/-- A span has performed a firing in this cycle (R356, R394). -/
def markFired (d : Dev) (key : Nat) : Dev :=
  (d.modSpan key fun s => { s with fired := some d.now.toNat }).modPage (pageOfFe key) fun p => { p with charged := true }

/-- A fresh identifier. -/
def freshId (d : Dev) : Nat × Dev := (d.ids, { d with ids := d.ids + 1 })

/-- A context fires, admits and injects only while a load of it is resident and nothing has ended it (R50, R193, R199). -/
def runs (g : Graph) : Bool := (g.st == .resident || g.st == .parked) && g.ending.isNone && g.load.isSome && !g.draining

end Sys2Proof.Machine
end

