-- ==== Sys2Proof/Machine/IsleImage.lean ====
section
/-! DEFINITION. Images of islands: the bytes of a tile's, a Sifter's and a Rack's section of a save area (R421, R443), which the debug window shows too
(R483), and what those bytes say when they have been written. R443 gives the parts of a Sifter's and a Rack's section; the places of the parts of a tile's
section after its weight store, and those of the fields in every part, are the model's (DESIGN CHOICE, log 17). -/

namespace Sys2Proof.Machine

/-! ### Bytes by offset -/

/-- Some bytes at an offset. Where pieces overlap, the last one counts. -/
abbrev Piece := Nat × List Byte

def pieceByte (ps : List Piece) (a : Nat) : Nat :=
  match ps.reverse.find? fun p => decide (p.1 ≤ a) && decide (a < p.1 + p.2.length) with
  | some p => ((p.2[a - p.1]?).getD 0).toNat
  | none => 0

/-- Pieces further on. -/
def shiftPieces (o : Nat) (ps : List Piece) : List Piece := ps.map fun p => (o + p.1, p.2)

/-- Bytes that are read: each of them, and the offsets that may hold a byte other than zero. -/
structure ImgSrc where
  byte : Nat → Nat
  may : List Nat

/-- Pieces with one byte changed. -/
def ImgSrc.poked (ps : List Piece) (a b : Nat) : ImgSrc :=
  ⟨fun o => if o = a then b else pieceByte ps o, a :: ps.flatMap fun p => (List.range p.2.length).map (p.1 + ·)⟩

/-- The bytes from an offset on. -/
def ImgSrc.drop (s : ImgSrc) (o : Nat) : ImgSrc := ⟨fun a => s.byte (o + a), (s.may.filter fun a => decide (o ≤ a)).map (· - o)⟩

def ImgSrc.bytes (s : ImgSrc) (a n : Nat) : List Byte := (List.range n).map fun k => BitVec.ofNat 8 (s.byte (a + k))
def ImgSrc.num (s : ImgSrc) (a n : Nat) : Nat := natOfBytes (s.bytes a n)

/-- Indexes of the records of `size` bytes in a range that may hold anything. -/
def ImgSrc.slots (s : ImgSrc) (a n size : Nat) : List Nat :=
  ((s.may.filter fun x => decide (a ≤ x) && decide (x < a + n)).map fun x => (x - a) / size).dedup

/-- The bytes of a range are what pieces say. -/
def ImgSrc.same (s : ImgSrc) (ps : List Piece) (a n : Nat) : Bool :=
  ((ps.flatMap fun p => (List.range p.2.length).map (p.1 + ·)) ++ s.may).all fun o => !(decide (a ≤ o) && decide (o < a + n)) || s.byte o == pieceByte ps o

/-- A part of a unit takes what its range says, where that has been written. -/
def ImgSrc.part {α : Type} (s : ImgSrc) (ps : List Piece) (a n : Nat) (f : α → α) (x : α) : α := if s.same ps a n then x else f x

/-! ### Row tags -/

def tagNum (t : Tag) : Nat := t.cid.toNat * 2 ^ 30 + t.frame.toNat * 2 ^ 16 + t.iter.toNat
def tagOfNum (v : Nat) : Tag := ⟨BitVec.ofNat 6 (v / 2 ^ 30), BitVec.ofNat 14 (v / 2 ^ 16), BitVec.ofNat 16 v⟩

/-- 48 bytes for a row's tag: tag, SEQ, whether it is poisoned, has a header and owes a credit, and the header. -/
def rowTagBytes (r : RowTag) : List Byte :=
  bytesOf (tagNum r.tag) 8 ++ bytesOf r.seq.toNat 4 ++ bytesOf (boolNat r.poi + 2 * boolNat r.hdr.isSome + 4 * boolNat r.own) 4
  ++ bytesOf ((r.hdr.map BitVec.toNat).getD 0) 32

def rowTagOf (s : ImgSrc) (a : Nat) : RowTag :=
  let fl := s.num (a + 12) 4
  ⟨tagOfNum (s.num a 8), BitVec.ofNat 26 (s.num (a + 8) 4), bitAt fl 0, if bitAt fl 1 then some (BitVec.ofNat 256 (s.num (a + 16) 32)) else none, bitAt fl 2⟩

/-! ### Cells (R237, R247, R248) -/

/-- A cell: its listed value, else zero, or an unspecified value of the bank's moment (log 2). -/
def HBank.cell (b : HBank) (ix : Nat) : Nat :=
  match b.cells.find? ix with
  | some v => v
  | none => match b.base with | none => 0 | some m => (Config.freeBits 64 (m + ix)).toNat

def HBank.put (b : HBank) (ix v : Nat) (poi : Bool) : HBank :=
  { b with cells := if v = 0 && b.base.isNone then Tab.del b.cells ix else Tab.set b.cells ix v
           poison := if poi then insNat b.poison ix else delNat b.poison ix }

/-! ### A tile after its weight store (R421) -/

/-- 32 bits of the cells of a bank, `hi` those above the low ones. -/
def cellPieces (base : Nat) (b : HBank) (hi : Bool) : List Piece :=
  let ks := if b.base.isSome then List.range 16384 else b.cells.map (·.1)
  ks.map fun k => (base + 4 * k, bytesOf (b.cell k / 2 ^ (if hi then 32 else 0)) 4)

def bitPieces (base : Nat) (l : List Nat) : List Piece :=
  ((l.map (· / 8)).dedup).map fun y => (base + y, [BitVec.ofNat 8 (((List.range 8).map fun j => if l.contains (8 * y + j) then 2 ^ j else 0).sum)])

def accCode : AccFmt → Nat | .none => 0 | .f32 => 1 | .i32 => 2 | .f64 => 3
def accOfCode (v : Nat) : AccFmt := match v % 4 with | 0 => .none | 1 => .f32 | 2 => .i32 | _ => .f64

def bankRecPieces (base : Nat) (b : HBank) : List Piece :=
  [(base, bytesOf b.m 2 ++ bytesOf b.n 2 ++ bytesOf (accCode b.fmt) 1 ++ bytesOf b.rows.length 1 ++ bytesOf 0 2 ++ b.rows.flatMap rowTagBytes)]

def sidePieces (base : Nat) (x : TraySide) : List Piece :=
  [(base, bytesOf x.rows.length 4 ++ bytesOf (x.left.getD 0) 4 ++ bytesOf (boolNat x.left.isSome + 2 * boolNat x.due + 4 * boolNat x.firing) 4 ++ bytesOf 0 4
      ++ x.rows.flatMap rowTagBytes)]

def trayPieces (base : Nat) (y : Tray) : List Piece :=
  [(base, bytesOf y.tbase 4 ++ bytesOf y.rowb 4 ++ bytesOf (y.tslot * 256 + y.thr) 4 ++ bytesOf y.timer 4 ++ bytesOf y.tsc 4 ++ bytesOf y.scb 4 ++ bytesOf y.fill 4)]
  ++ sidePieces (base + 0x1000) y.s0 ++ sidePieces (base + 0x3000) y.s1

def slotBytes (x : HSlot) : List Byte :=
  (List.range 8).flatMap (fun j => bytesOf (((x.words.getD [])[j]?).getD 0) 4) ++ bytesOf ((x.ext.map (·.1)).getD 0) 8 ++ bytesOf ((x.ext.map (·.2)).getD 0) 8
  ++ bytesOf (boolNat x.words.isSome + 2 * boolNat x.ext.isSome) 4

def hdrBytes (h : BitVec 256) : List Byte :=
  bytesOf h.toNat 32 ++ bytesOf (fld h.toNat 235 200) 8 ++ bytesOf (fld h.toNat 199 174) 4 ++ bytesOf 1 4

/-- Banks, poison bits, bank records, handler slots, route table, trays, header store and count set. -/
def tilePieces (t : Tile) : List Piece :=
  let wide := t.b0.fmt == .f64
  cellPieces 0 t.b0 false ++ (if wide then cellPieces 0x10000 t.b0 true else cellPieces 0x10000 t.b1 false)
  ++ bitPieces 0x20000 t.b0.poison ++ bitPieces 0x20800 t.b1.poison
  ++ bankRecPieces 0x30000 t.b0 ++ bankRecPieces 0x32000 t.b1
  ++ t.slots.map (fun e => (0x34000 + 64 * e.1, slotBytes e.2))
  ++ t.routes.map (fun e => (0x34400 + 8 * e.1, bytesOf e.2.1 4 ++ bytesOf e.2.2 4))
  ++ (indexed t.trays).flatMap (fun (k, y) => trayPieces (0x40000 + 0x8000 * k) y)
  ++ (indexed t.hdrs).map (fun (k, h) => (0x60000 + 48 * k, hdrBytes h))
  ++ [(0x6D000, t.counts.flatMap fun v => bytesOf v 4)]

/-- Cells that the 32-bit words from `a` on give other values; `hi` those above the low ones. -/
def readCells (s : ImgSrc) (a : Nat) (hi : Bool) (b : HBank) : HBank :=
  (s.slots a 0x10000 4 ++ b.cells.map (·.1)).foldl (fun b k =>
    let v := s.num (a + 4 * k) 4
    let was := b.cell k
    let now := if hi then was % 2 ^ 32 + v * 2 ^ 32 else was / 2 ^ 32 * 2 ^ 32 + v
    if k < 16384 ∧ now ≠ was then b.put k now (b.poison.contains k) else b) b

def readBits (s : ImgSrc) (a n : Nat) : List Nat :=
  (sortBy (fun x y : Nat => decide (x < y)) (s.slots a n 1)).flatMap fun y => (List.range 8).filterMap fun j => if bitAt (s.byte (a + y)) j then some (8 * y + j) else none

def readRows (s : ImgSrc) (a n : Nat) : List RowTag := (List.range (min n 128)).map fun k => rowTagOf s (a + 48 * k)

def readBankRec (s : ImgSrc) (a : Nat) (b : HBank) : HBank :=
  { b with m := s.num a 2, n := s.num (a + 2) 2, fmt := accOfCode (s.byte (a + 4)), rows := readRows s (a + 8) (s.byte (a + 5)) }

def readSide (s : ImgSrc) (a : Nat) : TraySide :=
  let fl := s.num (a + 8) 4
  { rows := readRows s (a + 16) (s.num a 4), left := if bitAt fl 0 then some (s.num (a + 4) 4) else none, due := bitAt fl 1, firing := bitAt fl 2 }

def readTray (s : ImgSrc) (a : Nat) : Tray :=
  { tbase := s.num a 4, rowb := s.num (a + 4) 4, tslot := s.byte (a + 9) % 16, thr := s.byte (a + 8), timer := s.num (a + 12) 4, tsc := s.num (a + 16) 4
    scb := s.num (a + 20) 4, fill := s.num (a + 24) 4 % 2, s0 := readSide s (a + 0x1000), s1 := readSide s (a + 0x3000) }

def readSlot (s : ImgSrc) (a : Nat) : HSlot :=
  let fl := s.num (a + 48) 4
  { words := if bitAt fl 0 then some ((List.range 8).map fun j => s.num (a + 4 * j) 4) else none
    ext := if bitAt fl 1 then some (s.num (a + 32) 8, s.num (a + 40) 8) else none }

/-- A tile as such bytes have it. A header names its row itself. -/
def readTile (s : ImgSrc) (t : Tile) : Tile :=
  let ps := tilePieces t
  let t := s.part ps 0x30000 0x2000 (fun t : Tile => { t with b0 := readBankRec s 0x30000 t.b0 }) t
  let t := s.part ps 0x32000 0x2000 (fun t : Tile => { t with b1 := readBankRec s 0x32000 t.b1 }) t
  let t := s.part ps 0 0x10000 (fun t : Tile => { t with b0 := readCells s 0 false t.b0 }) t
  let t := s.part ps 0x10000 0x10000 (fun t : Tile => if t.b0.fmt == .f64 then { t with b0 := readCells s 0x10000 true t.b0 } else { t with b1 := readCells s 0x10000 false t.b1 }) t
  let t := s.part ps 0x20000 0x800 (fun t : Tile => { t with b0 := { t.b0 with poison := readBits s 0x20000 0x800 } }) t
  let t := s.part ps 0x20800 0x800 (fun t : Tile => { t with b1 := { t.b1 with poison := readBits s 0x20800 0x800 } }) t
  let t := (List.range 16).foldl (fun t k => s.part ps (0x34000 + 64 * k) 64 (fun t : Tile => { t with slots := t.slots.set k (readSlot s (0x34000 + 64 * k)) }) t) t
  let t := (List.range 16).foldl (fun t k =>
    s.part ps (0x34400 + 8 * k) 8 (fun t : Tile => { t with routes := t.routes.set k (s.num (0x34400 + 8 * k) 4, min 4 (s.num (0x34404 + 8 * k) 4)) }) t) t
  let t := (List.range 4).foldl (fun t k =>
    s.part ps (0x40000 + 0x8000 * k) 0x8000 (fun t : Tile => { t with trays := modNth (fun _ => readTray s (0x40000 + 0x8000 * k)) k t.trays }) t) t
  let t := s.part ps 0x60000 0xC000 (fun t : Tile =>
    { t with hdrs := ((List.range 1024).filter fun k => bitAt (s.byte (0x60000 + 48 * k + 44)) 0).map fun k => BitVec.ofNat 256 (s.num (0x60000 + 48 * k) 32) }) t
  s.part ps 0x6D000 32 (fun t : Tile => { t with counts := (List.range 8).map fun k => s.num (0x6D000 + 4 * k) 4 }) t

/-- The position of a handler chain (R265, R415): the slot that runs next, the tasks left, and the row from which its drain goes on. -/
def chainPieces (t : Option Task) : List Piece :=
  match t with
  | some t => [(0x6E000, bytesOf 1 4 ++ bytesOf ((t.num[0]?).getD 0) 4 ++ bytesOf ((t.num[1]?).getD 0) 4 ++ bytesOf (match t.num[2]? with | some r => r + 1 | none => 0) 4)]
  | none => []

def readChain (s : ImgSrc) (t : Task) : Task :=
  s.part (chainPieces (some t)) 0x6E000 16 (fun t : Task =>
    { t with num := [s.num 0x6E004 4 % 16, min 16 (s.num 0x6E008 4)] ++ (let r := s.num 0x6E00C 4; if r = 0 then [] else [min 128 (r - 1)]) }) t

/-! ### Message images (R428) -/

/-- The bytes of a message image. -/
def EMsg.image (m : EMsg) : List Byte :=
  bytesOf m.hdr.toNat 32 ++ bytesOf (maskOf m.lanes) 16 ++ bytesOf 0 16 ++ (List.range 128).flatMap fun j => bytesOf (laneOf m.lanes j).nat 4

def emsgOfImage (bs : List Byte) : EMsg :=
  let h := natOfBytes (bs.take 32)
  let mask := natOfBytes ((bs.drop 32).take 16)
  ⟨BitVec.ofNat 256 h, lanesOfBytes mask (bs.drop 64) (lanesOf (min 4 (fld h 145 143)))⟩

/-! ### A Sifter (R443) -/

/-- Popularity counters, credit cache, and a message image for each row of the dispatch buffer. -/
def sifterPieces (f : Sifter) (rows : List Payload) : List Piece :=
  f.pop.map (fun e => (2 * e.1, bytesOf e.2 2))
  ++ (indexed f.credits).map (fun (k, e) => (0x20000 + 16 * k, bytesOf e.1 4 ++ bytesOf e.2.n 4 ++ bytesOf 1 1))
  ++ (indexed (rows.take 16)).map (fun (k, r) => (0x24000 + 576 * k, EMsg.image ⟨0, r⟩))

def readSifter (s : ImgSrc) (f : Sifter) : Sifter :=
  let ps := sifterPieces f []
  let f := s.part ps 0 0x20000 (fun f : Sifter => { f with pop := (s.slots 0 0x20000 2 ++ f.pop.map (·.1)).foldl (fun t x => Tab.set t x (s.num (2 * x) 2)) [] }) f
  s.part ps 0x20000 0x4000 (fun f : Sifter =>
    { f with credits := ((List.range 1024).filter fun k => bitAt (s.byte (0x20000 + 16 * k + 8)) 0).foldl (fun t k =>
        let n := s.num (0x20000 + 16 * k + 4) 4
        let path := s.num (0x20000 + 16 * k) 4
        Tab.set t path ⟨n, ((f.credits.find? path).map (·.init)).getD n⟩) [] }) f

/-! ### A Rack (R443) -/

/-- The contributions in the store, slot by slot: the row's manifest, its KIDX and the place among those of the KIDX. -/
def storeSlots (r : Rack) : List (Nat × Nat × Nat × EMsg) :=
  (indexed r.mans).flatMap fun (m, x) => (indexed x.ks).flatMap fun (k, y) => (indexed y.got).map fun (j, e) => (m, k, j, e.2)

/-- Two bytes for a KIDX: complete, null, offered too much, poisoned, 1 + GL; and the contributions accepted. -/
def kBytes (k : KState) : List Byte :=
  bytesOf (boolNat (k.isNull || k.g.any fun g => decide (g ≤ k.n)) + 2 * boolNat k.isNull + 4 * boolNat k.bad + 8 * boolNat k.poi
    + 16 * (match k.g with | some g => 1 + g.log2 | none => 0)) 1 ++ bytesOf k.n 1

/-- 32 bytes for a manifest, where the header of its message and what is to follow it would not fit: its tag and SEQ, KK, valid and reserved, the KIDXs folded,
and each KIDX. -/
def manBytes (m : Manifest) : List Byte :=
  bytesOf (tagNum m.tag) 8 ++ bytesOf m.seq.toNat 4 ++ bytesOf m.kk 1 ++ bytesOf 3 1 ++ bytesOf m.folded 1 ++ bytesOf 0 1 ++ m.ks.flatMap kBytes

def rackPieces (r : Rack) (rows : List Token) : List Piece :=
  [(0, bytesOf ((r.cfg.map (·.out)).getD 0) 8 ++ bytesOf ((r.cfg.map (·.flag)).getD 0) 8 ++ bytesOf ((r.cfg.map (·.of)).getD 0) 4 ++ bytesOf ((r.cfg.map (·.n)).getD 0) 4
      ++ bytesOf r.x.toNat 4 ++ bytesOf (boolNat r.cfg.isSome) 4 ++ r.counts.flatMap (bytesOf · 4) ++ bytesOf r.spb.toNat 8)]
  ++ r.mans.flatMap (fun m => let e := m.seq.toNat % 4096
      [(0x10000 + 32 * e, manBytes m), (0x40000 + 512 * e, (List.range 128).flatMap fun j => bytesOf (((m.acc[j]?).getD none).getD 0x80000000) 4)])
  ++ (indexed (storeSlots r)).flatMap (fun (k, x) =>
      [(0x240000 + 512 * k, (List.range 128).flatMap fun j => bytesOf (laneOf x.2.2.2.lanes j).nat 4), (0x1240000 + 24 * k, bytesOf (x.2.2.2.hdr.toNat % 2 ^ 192) 24)])
  ++ (indexed rows).map (fun (k, t) => (0x1300000 + 544 * k, t.image))

def readMan (s : ImgSrc) (m : Manifest) : Manifest :=
  let e := m.seq.toNat % 4096
  let a := 0x10000 + 32 * e
  let kst := fun (j : Nat) (k : KState) =>
    let b := s.byte (a + 16 + 2 * j)
    ({ k with isNull := bitAt b 1, bad := bitAt b 2, poi := bitAt b 3, g := if b / 16 = 0 then none else some (2 ^ (b / 16 - 1)), n := s.byte (a + 17 + 2 * j) } : KState)
  let m := s.part [(a, manBytes m)] a 32 (fun m : Manifest =>
    { m with tag := tagOfNum (s.num a 8), seq := BitVec.ofNat 26 (s.num (a + 8) 4), folded := s.byte (a + 14), ks := (indexed m.ks).map fun (j, k) => kst j k }) m
  { m with acc := (indexed m.acc).map fun (j, v) =>
      if j < 128 then (let w := s.num (0x40000 + 512 * e + 4 * j) 4; if w = v.getD 0x80000000 then v else some w) else v }

/-- A Rack as such bytes have it. An entry of the manifest table with its valid bit clear holds nothing; one that was not in use stays so. -/
def readRack (s : ImgSrc) (r : Rack) : Rack :=
  let ps := rackPieces r []
  let slots := indexed (storeSlots r)
  let msg := fun (k : Nat) (m : EMsg) =>
    ({ hdr := BitVec.ofNat 256 (m.hdr.toNat / 2 ^ 192 * 2 ^ 192 + s.num (0x1240000 + 24 * k) 24)
       lanes := (indexed m.lanes).map fun (j, l) => ⟨BitVec.ofNat 32 (s.num (0x240000 + 512 * k + 4 * j) 4), l.ok⟩ } : EMsg)
  let put := fun (r : Rack) (e : Nat × Nat × Nat × Nat × EMsg) =>
    ({ r with mans := modNth (fun m => { m with ks := modNth (fun k => { k with got := modNth (fun x => (x.1, msg e.1 x.2)) e.2.2.2.1 k.got }) e.2.2.1 m.ks }) e.2.1 r.mans } : Rack)
  let r := if s.same ps 0x240000 0x10C0000 then r else slots.foldl put r
  let r := s.part ps 0 0x10000 (fun r : Rack =>
    { r with cfg := if bitAt (s.num 28 4) 0 then some ⟨s.num 0 8, s.num 8 8, s.num 16 4 % 2, s.num 20 4⟩ else none
             x := BitVec.ofNat 26 (s.num 24 4), counts := (List.range 8).map fun k => s.num (32 + 4 * k) 4, spb := BitVec.ofNat 64 (s.num 64 8) }) r
  s.part ps 0x10000 0x230000 (fun r : Rack =>
    { r with mans := (r.mans.filter fun m => bitAt (s.byte (0x10000 + 32 * (m.seq.toNat % 4096) + 13)) 0).map (readMan s) }) r

end Sys2Proof.Machine
end

