-- ==== Sys2Proof/Machine/Memory.lean ====
section
/-! DEFINITION. Global memory and page stores: the physical map (R328), home order and visibility (R302 to R305), poison (R329), page
tables and TLBs (R330 to R335). -/

namespace Sys2Proof.Machine

/-! ### The physical map (R40, R328, R467) -/

/-- What a local PA reaches. -/
inductive Region where
  | hbm | lpddr | cxl (port : Nat) | control | hostWin | hole
  deriving DecidableEq, Repr

def mapOf (a : Nat) : Region :=
  if a ≤ 0x007FFFFFFFFF then .hbm
  else if 0x040000000000 ≤ a && a ≤ 0x067FFFFFFFFF then .lpddr
  else if 0x100000000000 ≤ a && a < 0x200000000000 then .cxl ((a - 0x100000000000) / 0x040000000000)
  else if 0x200000000000 ≤ a && a < 0x200003000000 then .control
  else if 0x300000000000 ≤ a && a < 0x400000000000 then .hostWin
  else .hole

/-- Beyond the capacity that a CXL port's expanders expose, and in an extent that has been released, there is nothing (R328, R469). -/
def regionOf (d : Dev) (a : Nat) : Region :=
  match mapOf a with
  | .cxl k =>
    if (a - 0x100000000000) % 0x040000000000 < ((d.mem.cxl[k]?).map (·.2)).getD 0 && !d.mem.gone.any (fun r => decide (r.1 ≤ a) && decide (a < r.1 + r.2))
    then .cxl k else .hole
  | r => r

def Region.isTier : Region → Bool | .hbm | .lpddr | .cxl _ => true | _ => false

/-- TIER code of a tier region. -/
def Region.tier : Region → Nat | .hbm => 0 | .lpddr => 1 | .cxl _ => 2 | _ => 3

def pkgOf (pa : Nat) : Nat := fld pa 61 52
def localOf (pa : Nat) : Nat := pa % 2 ^ 52

/-- The package's own number (R458). -/
def Dev.pkg (d : Dev) : Nat := if bitAt d.sb.id.toNat 10 then fld d.sb.id.toNat 9 0 else 0

def isLocal (d : Dev) (pa : Nat) : Bool := pkgOf pa == d.pkg

/-- Region of a PA of this package; a PA of another package has none. -/
def regionPa (d : Dev) (pa : Nat) : Option Region := if isLocal d pa then some (regionOf d (localOf pa)) else none

/-- The key under which memory keeps a PA: the local PA for this package, above 2^52 for others. -/
def homeKey (d : Dev) (pa : Nat) : Nat := if isLocal d pa then localOf pa else (pkgOf pa + 1) * 2 ^ 52 + localOf pa

/-! ### Parties and scopes (R301) -/

/-- The compute die of a party, or 4 for the I/O die, which has the Leaven engine, the loader and the collective logic (R301). -/
def Party.die : Party → Option Nat
  | .span k => some (k / 5120)
  | .isle i _ => some i.die
  | .leaven | .loader | .coll => some 4
  | _ => none

def Party.mine : Party → Bool | .ext _ | .host => false | _ => true

/-- `q` lies within scope `sc` of an access issued by `o`. -/
def inScope (o : Party) (sc : Scope) (q : Party) : Bool :=
  match sc with
  | .elem => q == o
  | .page => match o, q with
    | .span a, .span b => a / 64 == b / 64
    | _, _ => q == o
  | .die => q == o || (o.die.isSome && o.die == q.die)
  | .mod => q == o || (o.mine && q.mine)
  | .sys => true

def scopeRank : Scope → Nat | .elem => 0 | .page => 1 | .die => 2 | .mod => 3 | .sys => 4
def scopeOf (c : Nat) : Scope := match c with | 0 => .elem | 1 => .page | 2 => .die | 3 => .mod | _ => .sys
def Scope.le (a b : Scope) : Bool := decide (scopeRank a ≤ scopeRank b)
def Scope.next : Option Scope → Option Scope
  | none => some .elem | some .elem => some .page | some .page => some .die | some .die => some .mod | _ => some .sys

/-- A write is performed at a scope (R305). -/
def WEl.at (w : WEl) (sc : Scope) : Bool := match w.level with | some l => sc.le l | none => false

/-- A party can return a write (R302). -/
def WEl.sees (w : WEl) (q : Party) : Bool :=
  (match w.level with | some l => inScope w.owner l q | none => false) || w.seen.any fun s => inScope s.1 s.2 q

/-- Every party within scope `sc` of `p` lies within scope `lv` of `o`: the scopes of one code are disjoint or equal (R301). -/
def scopeIn (p : Party) (sc : Scope) (o : Party) (lv : Scope) : Bool := sc.le lv && inScope o lv p

/-- A write is performed at a scope of party `p` (R305). -/
def WEl.covers (w : WEl) (p : Party) (sc : Scope) : Bool :=
  (match w.level with | some l => scopeIn p sc w.owner l | none => false) || w.seen.any fun s => scopeIn p sc s.1 s.2

/-! ### Base contents -/

/-- Write one byte, keeping the list sorted with no zero byte listed. -/
def setCell : List (Nat × Byte) → Nat → Byte → List (Nat × Byte)
  | [], a, b => if b = 0 then [] else [(a, b)]
  | (a', b') :: r, a, b =>
    if a < a' then (if b = 0 then (a', b') :: r else (a, b) :: (a', b') :: r)
    else if a = a' then (if b = 0 then r else (a, b) :: r)
    else (a', b') :: setCell r a b

/-- What memory holds at an address: a listed byte, or zero (R485; log 7 for CXL and the host window). -/
def getCell (m : List (Nat × Byte)) (a : Nat) : Byte := ((m.find? fun c => c.1 == a).map (·.2)).getD 0

/-- The canonical form: addresses strictly rising and no zero byte listed. -/
def cellsWf : List (Nat × Byte) → Bool
  | [] => true
  | [(_, b)] => b != 0
  | (a, b) :: (a', b') :: r => b != 0 && decide (a < a') && cellsWf ((a', b') :: r)

/-- The canonical form of the machine's memory. -/
def Mem.wf (m : Mem) : Bool := cellsWf m.cells

def setBytes (m : List (Nat × Byte)) (a : Nat) : List Byte → List (Nat × Byte)
  | [] => m
  | b :: bs => setBytes (setCell m a b) (a + 1) bs

/-- The 4-byte granules of a byte range. -/
def granules (a n : Nat) : List Nat := (List.range ((a + n + 3) / 4 - a / 4)).map fun k => (a / 4 + k) * 4

def isCxlKey (a : Nat) : Bool := decide (0x100000000000 ≤ a) && decide (a < 0x200000000000)

/-- Poison after a write of `n` bytes at `a` with the poisoned granules `poi`: a CXL line keeps one bit, which only a clean write of the whole
line clears (R329). -/
def setPoison (ps : List Nat) (a n : Nat) (poi : List Nat) (full : Bool) : List Nat :=
  if isCxlKey a then
    let line := granules (a / 64 * 64) 64
    if !poi.isEmpty then line.foldl insNat ps else if full then line.foldl delNat ps else ps
  else (granules a n).foldl (fun ps g => if poi.contains g then insNat ps g else delNat ps g) ps

/-! ### Home order (R303, R304) -/

/-- The last write in home order to a byte among those a test admits. -/
def lastWrite (m : Mem) (t : WEl → Bool) (a : Nat) : Option WEl :=
  m.wlog.foldl (fun acc w => if t w && decide (w.addr ≤ a) && decide (a < w.addr + w.bytes.length) then some w else acc) none

def byteBy (m : Mem) (t : WEl → Bool) (a : Nat) : Byte :=
  match lastWrite m t a with
  | some w => (w.bytes[a - w.addr]?).getD 0
  | none => getCell m.cells a

def bytesBy (m : Mem) (t : WEl → Bool) (a n : Nat) : List Byte := (List.range n).map fun k => byteBy m t (a + k)

/-- Poison of one granule after a write (R329): on a CXL line a poisoned write poisons the line and a clean write of the whole line clears it. -/
def poiAfter (g : Nat) (old : Bool) (w : WEl) : Bool :=
  if isCxlKey g then
    if decide (w.addr / 64 ≠ g / 64) && decide ((w.addr + w.bytes.length - 1) / 64 ≠ g / 64) then old
    else if w.poi.any (fun x => x / 64 == g / 64) then true else if w.full then false else old
  else if decide (w.addr < g + 4) && decide (g < w.addr + w.bytes.length) then w.poi.contains g else old

/-- Poison of a range as a test admits the writes to it. -/
def poiBy (m : Mem) (t : WEl → Bool) (a n : Nat) : Bool :=
  (granules a n).any fun g => (m.wlog.filter t).foldl (poiAfter g) (m.poison.contains g)

/-- A read element of a party: value, poison, and the writes that it returned (R304, R305). -/
def readEl (m : Mem) (q : Party) (a n : Nat) : List Byte × Bool × List Nat :=
  let t := fun w : WEl => w.sees q
  (bytesBy m t a n, poiBy m t a n, ((List.range n).filterMap fun k => (lastWrite m t (a + k)).map (·.id)).dedup)

/-- The contents at the home: the last write in home order, whoever sees it. -/
def homeBytes (m : Mem) (a n : Nat) : List Byte := bytesBy m (fun _ => true) a n
def homePoi (m : Mem) (a n : Nat) : Bool := poiBy m (fun _ => true) a n

/-- What a table walk sees: writes performed at MOD (R332). -/
def walkRead (m : Mem) (a n : Nat) : Nat := natOfBytes (bytesBy m (fun w => w.at .mod) a n)

/-- Apply a write element at its home: it takes the next place in home order. -/
def applyEl (m : Mem) (owner : Party) (a : Nat) (bs : List Byte) (poi : List Nat) (full : Bool) (level : Option Scope) : Nat × Mem :=
  (m.nextId, { m with nextId := m.nextId + 1, wlog := m.wlog ++ [⟨m.nextId, a, bs, poi, full, owner, level, []⟩] })

/-- A write that every party sees joins the base contents once every write before it has. -/
def foldOne (m : Mem) : Mem :=
  match m.wlog with
  | w :: r =>
    if w.at .sys then
      { m with wlog := r, cells := setBytes m.cells w.addr w.bytes, poison := setPoison m.poison w.addr w.bytes.length w.poi w.full }
    else m
  | [] => m

/-- Poisoned granules of a write whose granules are all poisoned, or all clean. -/
def poiOf (poi : Bool) (a n : Nat) : List Nat := if poi then granules a n else []

/-- A write performed at SYS at once, by the loader, the host or system state; `full` where its access writes the whole of its line (R329). -/
def writeNow (m : Mem) (owner : Party) (a : Nat) (bs : List Byte) (full : Bool) : Mem :=
  if m.wlog.isEmpty then { m with cells := setBytes m.cells a bs, poison := setPoison m.poison a bs.length [] full }
  else (applyEl m owner a bs [] full (some .sys)).2

/-! ### Page stores (R42, R214, R358) -/

/-- The last loss of the contents at an offset: its moment (R228). -/
def Page.lostAt (p : Page) (o : Nat) : Option Nat :=
  (p.lost.reverse.find? fun r => decide (r.1 ≤ o) && decide (o < r.1 + r.2.1)).map (·.2.2)

/-- A byte of a page store: a listed one; zero where none is listed (R361); a free value where the contents are lost and nothing has been written since. -/
def Page.byte (p : Page) (o : Nat) : Byte :=
  match p.store.find? o, p.lostAt o with
  | some b, _ => b
  | none, some t => Config.freeBits 8 (t + o)
  | none, none => 0
def setStoreByte (st : Tab Byte) (o : Nat) (b : Byte) : Tab Byte := if b = 0 then Tab.del st o else Tab.set st o b

/-- A byte is listed where it is not zero, or where its contents had been lost. -/
def Page.setByte (p : Page) (o : Nat) (b : Byte) : Page :=
  { p with store := if (p.lostAt o).isSome then Tab.set p.store o b else setStoreByte p.store o b }
def Page.setBytes (p : Page) (o : Nat) : List Byte → Page
  | [] => p
  | b :: bs => (p.setByte o b).setBytes (o + 1) bs

/-- The contents of a range are lost (R228). -/
def Page.lose (p : Page) (o n t : Nat) : Page :=
  { p with store := p.store.filter fun e => !(decide (o ≤ e.1) && decide (e.1 < o + n)), lost := p.lost ++ [(o, n, t)] }

def Page.bytes (p : Page) (o n : Nat) : List Byte := (List.range n).map fun k => p.byte (o + k)
def Page.write (p : Page) (o : Nat) (bs : List Byte) (poi : Bool) : Page :=
  { p.setBytes o bs with poison := (granules o bs.length).foldl (if poi then insNat else delNat) p.poison }
def Page.poisoned (p : Page) (o n : Nat) : Bool := (granules o n).any p.poison.contains

/-! ### Writes at the home: the undo log (R352), migrations (R338), hotness (R342) -/

/-- Key of a page-store line in an undo log. -/
def storeKey (pg off : Nat) : Nat := 2 ^ 60 + pg * 2 ^ 22 + off

/-- Bytes of the undo-log region of a context (R352); 0 where the table has none. -/
def undoCap (d : Dev) (cid : Nat) : Nat :=
  let b := d.leaven.regs.rbt.toNat
  if bitAt b 0 then 2 ^ fld (natOfBytes (homeBytes d.mem (fld b 51 10 * 2 ^ 10 + 16 * cid + 8) 1)) 4 0 else 0

/-- A line is logged before its first write of a round (R352); a full log brings poison containment until the next cut (R354). -/
def logLine (d : Dev) (cid key : Nat) (old : List Byte) (poi : List Nat) : Dev :=
  if !(d.ctx cid).contain || (decide (2 ^ 52 ≤ key) && decide (key < 2 ^ 60)) then d else
  match (d.hold cid).undo with
  | none => d
  | some u =>
    if u.poison || u.lines.any (fun l => l.1 == d.opRound && l.2.1 == key) then d
    else if u.used + Config.undoRecord > undoCap d cid then
      raiseEvent (d.modHold cid fun h => { h with undo := some { u with poison := true } }) 4 ⟨9, 9, cid, 0, 0⟩
    else d.modHold cid fun h => { h with undo := some { u with lines := u.lines ++ [(d.opRound, key, old, poi)], used := u.used + Config.undoRecord } }

/-- Log the lines of a range of global memory. -/
def logRange (d : Dev) (cid a n : Nat) : Dev :=
  ((List.range ((a + n + 63) / 64 - a / 64)).map fun k => (a / 64 + k) * 64).foldl
    (fun d l => logLine d cid l (homeBytes d.mem l 64) ((granules l 64).filter fun g => homePoi d.mem g 4)) d

/-- Log the lines of a range of a page store. -/
def logStore (d : Dev) (cid pg o n : Nat) : Dev :=
  ((List.range ((o + n + 63) / 64 - o / 64)).map fun k => (o / 64 + k) * 64).foldl
    (fun d l => logLine d cid (storeKey pg l) ((d.page pg).bytes l 64) ((granules l 64).filter (d.page pg).poison.contains)) d

/-- A migration that has copied the line of a home address, and where it goes at the destination (R338). -/
def movedTo (d : Dev) (a : Nat) : Option Nat :=
  (d.leaven.migrs.find? fun m =>
    (m.phase == .copy || m.phase == .switch) && decide (homeKey d m.src ≤ a) && decide (a < homeKey d m.src + m.size)
    && decide ((a - homeKey d m.src) / 64 < m.copied)).map fun m => homeKey d m.dst + (a - homeKey d m.src)

/-- A route to a package exists (R458): its mask is not empty. -/
def routed (d : Dev) (pkg : Nat) : Bool := d.sb.rt.getD pkg 0 != 0

/-- A port of a package's mask is up or degraded (R458). -/
def portUp (d : Dev) (pkg : Nat) : Bool :=
  (List.range 64).any fun k => bitAt (d.sb.rt.getD pkg 0).toNat k && (let x := (d.sb.ports.getD k {}).state; x == 2 || x == 3)

/-- No port of a package's mask has been up for 2^20 cycles since a cycle (R459). -/
def routeDead (d : Dev) (pkg since : Nat) : Bool :=
  !portUp d pkg && (List.range 64).all fun k => !bitAt (d.sb.rt.getD pkg 0).toNat k || decide (max since (d.sb.ports.getD k {}).down + 2 ^ 20 ≤ d.now.toNat)

/-- RSPDL in cycles; none where there is no deadline (R462, R464). -/
def respDeadline (d : Dev) : Option Nat := let v := fld d.sb.ctl.toNat 31 16; if v = 0 then none else some (v * 2 ^ 10)

/-- What the package that a remote PA names answers, where `refuses` says that its frame table or its expanders refuse the access (R328, R461): its map is that of every
package, and only a system-privilege context reaches its windows. -/
def remoteCause (sys refuses : Bool) (pa : Nat) : Option FCode :=
  match mapOf (localOf pa) with
  | .hole => some .permf
  | .control | .hostWin => if sys then none else some .permf
  | .cxl _ => if refuses then some .permf else none
  | .hbm | .lpddr => if !sys && refuses then some .permf else none

/-- The way to a home key is open: a port of the package's mask is up; the link of a CXL port is up (R459, R470). -/
def wayOpen (d : Dev) (key : Nat) : Bool :=
  if key ≥ 2 ^ 52 then portUp d (key / 2 ^ 52 - 1)
  else match regionOf d key with | .cxl k => ((d.mem.cxl[k]?).map (·.1)).getD false | _ => true

/-- A write to the destination of a migration fails: the migration aborts with cause 1 (R339). -/
def mirrorFails (d : Dev) (b : Nat) : Dev :=
  { d with leaven := { d.leaven with migrs := d.leaven.migrs.map fun m =>
      if (m.phase == .copy || m.phase == .switch) && decide (homeKey d m.dst ≤ b) && decide (b < homeKey d m.dst + m.size) then
        { m with phase := .abort 1 } else m } }

/-- A write element of a party applied at its home; a copied line of a moving leaf takes it at the destination too. -/
def applyBoth (d : Dev) (owner : Party) (a : Nat) (bs : List Byte) (poi : List Nat) (full : Bool) (level : Option Scope) : Nat × Dev :=
  let (i, m) := applyEl d.mem owner a bs poi full level
  match movedTo d a with
  | none => (i, { d with mem := m })
  | some b =>
    if wayOpen d b then (i, { d with mem := (applyEl m owner b bs (poi.map fun g => g - a + b) full (some .sys)).2 })
    else (i, mirrorFails { d with mem := m } b)

/-- A write element on behalf of a context: its lines are logged first (R352). -/
def applyHome (d : Dev) (cid : Nat) (owner : Party) (a : Nat) (bs : List Byte) (poi : List Nat) (full : Bool) (level : Option Scope) : Nat × Dev :=
  applyBoth (logRange d cid a bs.length) owner a bs poi full level

/-- A write performed at SYS at once. -/
def writeHome (d : Dev) (owner : Party) (a : Nat) (bs : List Byte) (full : Bool) : Dev :=
  let m := writeNow d.mem owner a bs full
  match movedTo d a with
  | none => { d with mem := m }
  | some b => if wayOpen d b then { d with mem := writeNow m owner b bs full } else mirrorFails { d with mem := m } b

/-- A run in pieces that keep within a 64-byte line. -/
def linesOf : Nat → Nat → List Byte → List (Nat × List Byte)
  | 0, _, _ => []
  | k + 1, a, bs => if bs.isEmpty then [] else let n := 64 - a % 64; (a, bs.take n) :: linesOf k (a + n) (bs.drop n)

/-- A run written by one access at SYS at once, line by line. -/
def writeRun (d : Dev) (owner : Party) (a : Nat) (bs : List Byte) : Dev :=
  (linesOf (bs.length + 1) a bs).foldl (fun d x => writeHome d owner x.1 x.2 (x.2.length == 64)) d

/-- A write of an engine task waits for its place in home order (R303, R319). -/
def queueEl (d : Dev) (cid : Nat) (owner : Party) (a : Nat) (bs : List Byte) (poi : List Nat) (full : Bool) : Nat × Dev :=
  (d.mem.nextId, { d with mem := { d.mem with nextId := d.mem.nextId + 1
                                              pend := d.mem.pend ++ [⟨⟨d.mem.nextId, a, bs, poi, full, owner, none, []⟩, cid, d.opRound⟩] } })

/-- A waiting write takes its place: its lines are logged first (R352), and a copied line of a moving leaf takes it at the destination too. -/
def placeEl (d : Dev) (p : Pend) : Dev :=
  let w := p.el
  let d := logRange { d with opRound := p.round } p.cid w.addr w.bytes.length
  let d := { d with mem := { d.mem with pend := d.mem.pend.filter (·.el.id != w.id), wlog := d.mem.wlog ++ [w] } }
  match movedTo d w.addr with
  | none => d
  | some b =>
    if wayOpen d b then { d with mem := (applyEl d.mem w.owner b w.bytes (w.poi.map fun g => g - w.addr + b) w.full (some .sys)).2 }
    else mirrorFails d b

/-- Two write elements share a byte. -/
def WEl.meets (w x : WEl) : Bool := decide (w.addr < x.addr + x.bytes.length) && decide (x.addr < w.addr + w.bytes.length)

/-- The first of a task's waiting writes to its bytes: the writes of one task to one byte keep the order that its instruction gives them (R212, R283,
R285). -/
def firstPend (m : Mem) (p : Pend) : Bool :=
  !((m.pend.takeWhile (·.el.id != p.el.id)).any fun x => x.el.owner == p.el.owner && x.el.meets p.el)

/-- A write is made and has no place in home order yet. -/
def waitsPlace (m : Mem) (w : Nat) : Bool := m.pend.any (·.el.id == w)

/-- Entry of the frame table for a local PA (R341): its address, where the table is valid and the PA in a tier. -/
def frameEntry (d : Dev) (a : Nat) : Option Nat :=
  let r := d.leaven.regs.ftb.toNat
  if bitAt r 0 && (regionOf d a).isTier then some (fld r 51 31 * 2 ^ 31 + 4 * fld a 44 16) else none

def readEntry (d : Dev) (e : Nat) : Nat := natOfBytes (homeBytes d.mem e 4)

/-- One more access served by a tier; every 64th heats its frame (R342). -/
def countHot (d : Dev) (a : Nat) : Dev :=
  match frameEntry d a with
  | none => d
  | some e =>
    let t := (regionOf d a).tier
    let c := (d.leaven.counts[t]?).getD 0 + 1
    let d := { d with leaven := { d.leaven with counts := modNth (fun _ => c % 64) t d.leaven.counts } }
    if c % 64 = 0 then
      let v := readEntry d e
      writeHome d .leaven e (bytesOf (setFld v 7 0 (min 255 (fld v 7 0 + 1))) 4) false
    else d

/-! ### Page tables (R330 to R332) -/

/-- PTE fields (R331). -/
def pteV (e : Nat) : Bool := bitAt e 0
def pteKind (e : Nat) : Nat := fld e 2 1
def pteState (e : Nat) : Nat := fld e 5 3
def pteTier (e : Nat) : Nat := fld e 7 6
def pteR (e : Nat) : Bool := bitAt e 8
def pteW (e : Nat) : Bool := bitAt e 9
def pteA (e : Nat) : Bool := bitAt e 10
def pteNc (e : Nat) : Bool := bitAt e 11
def pteFrame (e : Nat) : Nat := fld e 61 16 * 2 ^ 16

/-- A leaf found by a walk: its place in VA, its size, the frame's PA, its PTE bits [11:0], and where its entry lies. -/
structure Leaf where
  va : Nat
  size : Nat
  frame : Nat
  bits : Nat
  pte : Nat
  deriving DecidableEq, Repr

/-- A table or split table must lie in a tier of this package (R330, R332). -/
def tableOk (d : Dev) (pa : Nat) : Bool := match regionPa d pa with | some r => r.isTier | none => false

/-- A leaf entry of a size is well formed (R331, R332, R335). -/
def leafOk (d : Dev) (e size : Nat) : Bool :=
  pteFrame e % size == 0 && decide (pteState e ≤ 4) && pteTier e != 3
  && (size != 2 ^ 30 || pteState e == 0 || pteState e == 4)
  && (match regionPa d (pteFrame e) with
      | some r => !r.isTier || pteTier e == r.tier
      | none => true)

def readPte (d : Dev) (pa : Nat) : Nat := walkRead d.mem (homeKey d pa) 8

/-- The bits every entry keeps zero. -/
def pteResv (e : Nat) : Bool := fld e 63 62 == 0 && fld e 15 12 == 0

/-- The leaf of an entry, where it is a valid one of that size. -/
def asLeaf (d : Dev) (va size at_ e : Nat) : Except FCode Leaf :=
  if leafOk d e size then .ok ⟨va / size * size, size, pteFrame e, fld e 11 0, at_⟩ else .error .xlatf

/-- A table walk (R332). -/
def walk (d : Dev) (cid va : Nat) : Except FCode Leaf :=
  let root := (d.ctx cid).ptroot.toNat
  if va ≥ 2 ^ 57 || !bitAt root 0 then .error .xlatf
  else
    let t3 := fld root 61 12 * 2 ^ 12
    if !tableOk d t3 then .error .xlatf else
    let e3 := readPte d (t3 + 8 * fld va 56 48)
    if !(pteV e3 && pteKind e3 == 0 && pteResv e3 && fld e3 11 3 == 0 && tableOk d (pteFrame e3)) then .error .xlatf else
    let e2 := readPte d (pteFrame e3 + 8 * fld va 47 39)
    if !(pteV e2 && pteKind e2 == 0 && pteResv e2 && fld e2 11 3 == 0 && tableOk d (pteFrame e2)) then .error .xlatf else
    let a1 := pteFrame e2 + 8 * fld va 38 30
    let e1 := readPte d a1
    if !(pteV e1 && pteResv e1) then .error .xlatf
    else if pteKind e1 == 1 then asLeaf d va (2 ^ 30) a1 e1
    else if !(pteKind e1 == 0 && fld e1 11 3 == 0 && tableOk d (pteFrame e1)) then .error .xlatf else
    let a0 := pteFrame e1 + 8 * fld va 29 21
    let e0 := readPte d a0
    if !(pteV e0 && pteResv e0) then .error .xlatf
    else if pteKind e0 == 1 then asLeaf d va (2 ^ 21) a0 e0
    else if !(pteKind e0 == 2 && fld e0 11 3 == 0 && tableOk d (pteFrame e0)) then .error .xlatf else
    let as := pteFrame e0 + 8 * fld va 20 16
    let es := readPte d as
    if !(pteV es && pteResv es && pteKind es == 1) then .error .xlatf
    else asLeaf d va (2 ^ 16) as es

/-! ### TLBs (R333) -/

def TlbEntry.covers (e : TlbEntry) (cid va : Nat) : Bool := e.cid == cid && decide (e.va ≤ va) && decide (va < e.va + e.size)
def TlbEntry.leaf (e : TlbEntry) : Leaf := ⟨e.va, e.size, e.frame, e.bits, 0⟩
def Leaf.entry (l : Leaf) (cid : Nat) : TlbEntry := ⟨cid, l.va, l.size, l.frame, l.bits⟩

/-- Add an entry to a TLB of a capacity; the oldest leaves a full one. -/
def tlbAdd (t : List TlbEntry) (cap : Nat) (e : TlbEntry) : List TlbEntry := (if t.length ≥ cap then t.drop (t.length + 1 - cap) else t) ++ [e]

def tlb2Of (m : Mem) (die : Nat) : List TlbEntry := (m.tlb2[die]?).getD []

/-- Translate for a page: its own TLB, then its die's, then a walk. `evict` says that the entries were replaced before (replacement is
not visible, R333). -/
def translate (d : Dev) (pg cid va : Nat) (evict : Bool) : Except FCode Leaf × Dev :=
  if va ≥ 2 ^ 57 then (.error .xlatf, d) else
  let drop := fun t : List TlbEntry => if evict then t.filter (fun e => !e.covers cid va) else t
  let d := (d.modPage pg fun p => { p with tlb := drop p.tlb })
  let d := { d with mem := { d.mem with tlb2 := modNth drop (pg / 80) d.mem.tlb2 } }
  match (d.page pg).tlb.find? (·.covers cid va) with
  | some e => (.ok e.leaf, d)
  | none =>
    let d := d.modPage pg fun p => { p with miss := min (p.miss + 1) 0xFFFF }
    match (tlb2Of d.mem (pg / 80)).find? (·.covers cid va) with
    | some e => (.ok e.leaf, d.modPage pg fun p => { p with tlb := tlbAdd p.tlb 128 e })
    | none =>
      match walk d cid va with
      | .error e => (.error e, d)
      | .ok l =>
        let e := l.entry cid
        let d := d.modPage pg fun p => { p with tlb := tlbAdd p.tlb 128 e }
        (.ok l, { d with mem := { d.mem with tlb2 := modNth (fun t => tlbAdd t 16384 e) (pg / 80) d.mem.tlb2 } })

/-- The TLB of a die's islands: its second-level one, that of the I/O die (`die` 4), and none for the loader (`die` 5). -/
def tlbAt (d : Dev) (die : Nat) : List TlbEntry := if die < 4 then tlb2Of d.mem die else if die = 4 then d.mem.tlbIo else []

/-- Translate for an island of a die, for the I/O die or for the loader. -/
def translateAt (d : Dev) (die cid va : Nat) : Except FCode Leaf :=
  if va ≥ 2 ^ 57 then .error .xlatf else
  match (tlbAt d die).find? (·.covers cid va) with
  | some e => .ok e.leaf
  | none => walk d cid va

def modTlb (d : Dev) (die : Nat) (f : List TlbEntry → List TlbEntry) : Dev :=
  { d with mem := if die < 4 then { d.mem with tlb2 := modNth f die d.mem.tlb2 } else if die = 4 then { d.mem with tlbIo := f d.mem.tlbIo } else d.mem }

/-- The translations that an access of a die to a run uses enter its TLB; whether entries for the run were replaced before is a free choice
(R333, log 2). The capacity of the I/O die's TLB is not given (log 77). -/
def fillTlb (d : Dev) (die cid va n : Nat) : Dev :=
  let (v, d) := freeNat 1 d
  let vas := (List.range ((va + n + 65535) / 65536 - va / 65536)).map fun k => max va ((va / 65536 + k) * 65536)
  vas.foldl (fun d a =>
    let d := if v = 1 then modTlb d die fun t => t.filter fun e => !e.covers cid a else d
    if (tlbAt d die).any (·.covers cid a) then d
    else match walk d cid a with
      | .ok l => if a < 2 ^ 57 then modTlb d die fun t => tlbAdd t 16384 (l.entry cid) else d
      | .error _ => d) d

/-- PA of a VA under a leaf. -/
def Leaf.pa (l : Leaf) (va : Nat) : Nat := l.frame + (va - l.va)
def Leaf.state (l : Leaf) : Nat := pteState l.bits

/-- What an access wants of its leaf. -/
inductive Want where
  | rd | wr | at
  deriving DecidableEq, Repr

/-- A leaf that moves while it was RDUP (R338). -/
def movingDup (d : Dev) (cid : Nat) (l : Leaf) : Bool :=
  l.state == 1 && d.leaven.migrs.any fun m => m.cid == cid && m.va == l.va && m.prev == 2

/-- Rights and state of a leaf against an access (R219, R220, R233, R335): a fault, or fine. -/
def leafCheck (l : Leaf) (w : Want) : Option FCode :=
  match w with
  | .rd => if pteR l.bits then none else some .permf
  | .wr => if !pteW l.bits then some .permf else if l.state == 2 then some .wpf else none
  | .at =>
    if !(pteR l.bits && pteW l.bits && pteA l.bits) then some .permf
    else if l.state == 2 then some .wpf else if l.state == 4 then some .poisonc else none

end Sys2Proof.Machine
end

