-- ==== Sys2Proof/Machine/Readback.lean ====
section
/-! DEFINITION. Readback: the images of units that the debug window shows and takes (R419, R482 to R484), and what a page store shows (R361, R377). -/

namespace Sys2Proof.Machine

/-- STALLCNT: PRED, ISL, MPORT, DOWN, OPER from the top; field `k` counts reason `k + 1`. -/
def stallcnt (p : Page) : Nat := ((indexed p.stall).map fun (k, v) => v * 2 ^ (12 * k)).sum

/-! ### Page stores, node memory and matching stores -/

/-- A matching-store entry's image: V and PARKED in its header. -/
def entryImage (e : Entry) : List Byte :=
  bytesOf (setFld (setFld e.tok.header 26 26 1) 25 25 (boolNat e.parked)) 16 ++ e.tok.image.drop 16

/-- The entry of an image, in the place of `e` if there was one: with V clear it holds nothing. -/
def imageEntry (img : List Byte) (e : Option Entry) : Option Entry :=
  let h := natOfBytes (img.take 16)
  if !bitAt h 26 then none
  else (tokenOfImage? img).map fun t => { tok := t, place := .store, parked := bitAt h 25, role := (e.map (·.role)).getD .plain }

/-- Bytes of an entry of a page's spill table: WIDMAX is the largest WID among the page's spans (R27). -/
def tableEntry (d : Dev) (pg : Nat) : Nat :=
  32 + 32 * 2 ^ (List.range 64).foldl (fun m f => let s := d.span (pg * 64 + f); if s.anchor then max m s.wid else m) 0

/-- Bytes of a page's spill table of 2^`logn` entries (R358). -/
def tableSpan (d : Dev) (pg logn : Nat) : Nat := (2 ^ logn * tableEntry d pg + 4095) / 4096 * 4096

/-- Two byte ranges have no byte in common. -/
def apart (a n b m : Nat) : Bool := decide (a + n ≤ b) || decide (b + m ≤ a)

/-- The entry of the spill table whose image covers an offset, by index. -/
def tabledAt (d : Dev) (pg o : Nat) : Option Nat :=
  let p := d.page pg
  if p.cid.isSome && decide (p.spillBase ≤ o) && decide (o < p.spillBase + 2 ^ p.spillLog * tableEntry d pg) then
    some ((o - p.spillBase) / tableEntry d pg)
  else none

/-- A byte as it is read: its value, and the mask of those of its bits that hold no stated value (log 73). -/
structure Shown where
  val : Nat
  free : Nat
  deriving DecidableEq, Repr

def Shown.fixed (v : Nat) : Shown := ⟨v, 0⟩
/-- Any value. -/
def Shown.any : Shown := ⟨0, 255⟩
/-- The byte with its free bits taken from `b`. -/
def Shown.filled (s : Shown) (b : Nat) : Nat := s.val ||| (b &&& s.free)

/-- What a read of the byte gives: a free value where it has one. -/
def Shown.settle (s : Shown) (d : Dev) : Nat × Dev :=
  if s.free = 0 then (s.val, d) else let (b, d) := freeNat 8 d; (s.filled b, d)

/-- Iterations of a loop's window (R171). -/
def loopWindow (s : Span) (l : LoopSt) : Nat := fld ((s.nodes.getD l.node 0).toNat % 2 ^ 32) 14 0 + 1

/-- The retirement bitmap of a loop: bit `j mod W` for each of its last W admitted iterations `j` that has retired (R169; the order of the bits is a DESIGN
CHOICE, log 17). -/
def bitmapBytes (w : Nat) (l : LoopSt) : List Byte :=
  let done := ((List.range (min w l.adm)).map fun k => l.adm - 1 - k).filter fun j => !l.live.contains j
  bytesOf ((done.map fun j => 2 ^ (j % w)).sum) ((w + 7) / 8)

/-- The iterations that a bitmap leaves live. -/
def bitmapLive (w : Nat) (l : LoopSt) (bs : List Byte) : List Nat :=
  let v := natOfBytes bs
  ((List.range (min w l.adm)).reverse.map fun k => l.adm - 1 - k).filter fun j => !bitAt v (j % w)

/-- A byte of the loop area that belongs to the bitmap of a loop of the page. -/
def loopByte (d : Dev) (pg o : Nat) : Option Byte :=
  (List.range 64).findSome? fun f =>
    let s := d.span (pg * 64 + f)
    s.loops.findSome? fun l => if 0x3E0000 + l.off ≤ o then (bitmapBytes (loopWindow s l) l)[o - 0x3E0000 - l.off]? else none

/-- A byte of a page store. In the spill table an entry in use is its token's image with V and PARKED in the header (R27, R108, R377); bits [26:0] of the header of one
that its token has left read zero (R377), and what else it holds is not stated. Nor is what the loop area beside the bitmaps of active loops and the frame-link cache hold
after use. Where nothing has been in use since the placement, the bytes are zero (R361). -/
def storeImageByte (d : Dev) (pg o : Nat) : Shown :=
  let p := d.page pg
  let blank := if p.stale.any (fun r => decide (r.1 ≤ o) && decide (o < r.1 + r.2)) then Shown.any else .fixed 0
  if o ≥ 0x3E0000 then (match loopByte d pg o with | some b => .fixed b.toNat | none => blank)
  else match tabledAt d pg o with
    | none => .fixed (p.byte o).toNat
    | some i =>
      let k := (o - p.spillBase) % tableEntry d pg
      match p.toks.find? fun e => e.place == .table i with
      | some e => .fixed ((((entryImage e)[k]?).map BitVec.toNat).getD 0)
      | none => if k < 3 then .fixed 0 else if k = 3 then ⟨0, blank.free &&& 0xF8⟩ else blank

/-- A range of a page store has been in use. -/
def markStale (d : Dev) (pg off len : Nat) : Dev :=
  d.modPage pg fun p => { p with stale := if p.stale.contains (off, len) then p.stale else p.stale ++ [(off, len)] }

/-- Where a byte of the matching stores of a page lies: the span's FE, the size of its entries, the entry's number and the offset in it. -/
def matchAt (d : Dev) (pg m : Nat) : Nat × Nat × Nat × Nat :=
  let fe := m / 4096
  -- the span whose region holds this FE's 4 KiB is the last anchor at or before it
  let anchor := ((List.range (fe + 1)).reverse.find? fun a => (d.span (pg * 64 + a)).anchor).getD fe
  let size := 32 + 4 * lanesOf (d.span (pg * 64 + anchor)).wid
  let rel := m - anchor * 4096
  (anchor, size, rel / size, rel % size)

def isMatchOf (pg fe : Nat) (e : Entry) : Bool := e.place == .store && e.tok.dest.key == pg * 64 + fe

/-- A byte of a page's node memory and matching stores, in the layout of R419 from node memory on. -/
def nodeImageByte (d : Dev) (pg o : Nat) : Nat :=
  if o < 0xC0000 then
    let fe := o / 12 / 1024
    let r := ((d.span (pg * 64 + fe)).nodes.getD (o / 12 % 1024) 0).toNat
    -- W2 first: words of 32 bits, W2 the low one of the record
    fld r (8 * (o % 12) + 7) (8 * (o % 12))
  else
    let (fe, _, k, b) := matchAt d pg (o - 0xC0000)
    match ((d.page pg).toks.filter (isMatchOf pg fe))[k]? with
    | some e => (((entryImage e)[b]?).getD 0).toNat
    | none => 0

/-- The slot table of a link (R368): TOKN in slots 0 to 13 and DYN in 14 and 15, unless a stream's path has it set (R369). -/
def linkTable (d : Dev) (link : Nat) : List Nat := d.slots.getD link (List.replicate 14 0 ++ [2 ^ 14, 2 ^ 14])

/-- The 64 bits of a combining entry (R371). -/
def CombEntry.word (c : CombEntry) : Nat :=
  2 ^ 63 + c.inmask * 2 ^ 48 + fmtCode c.fmt * 2 ^ 44 + c.rm * 2 ^ 42
  + (c.dest.die * 2 ^ 25 + c.dest.dfe * 2 ^ 12 + c.dest.node * 2 ^ 2 + portCode c.dest.port)

/-- The four combining entries of a switch box: those in use, and zeros (R371). -/
def boxEntries (d : Dev) (box : Nat) : List Nat :=
  ((d.combs.filter fun c : CombEntry => c.box == box).map CombEntry.word ++ List.replicate 4 0).take 4

/-! ### Units whose bytes the spec does not lay out (R483)

The places of the parts are the model's (DESIGN CHOICE, log 54). -/

/-- Slot tables of a page's links, 32 bytes for each link of an FE, and from 0x4000 the combining entries of its switch boxes, 32 bytes for each; of the I/O die, the
entries of one box. -/
def slotsByte (d : Dev) (die unit a : Nat) : Nat :=
  if a < 0x4000 then
    if die = 4 then 0
    else (let v := ((linkTable d ((die * 80 + unit) * 512 + a / 32))[a % 32 / 2]?).getD 0; fld v (8 * (a % 2) + 7) (8 * (a % 2)))
  else if a < (if die = 4 then 0x4020 else 0x4800) then
    let box := if die = 4 then 0x10000 + unit else (die * 80 + unit) * 64 + (a - 0x4000) / 32
    let v := ((boxEntries d box)[a % 32 / 8]?).getD 0
    fld v (8 * (a % 8) + 7) (8 * (a % 8))
  else 0

/-- 32 bytes for a TLB entry: valid, CID and the logarithm of its size; VA; FRAME; PTE bits (R333). -/
def tlbBytes (e : TlbEntry) : List Byte := bytesOf (1 + e.cid * 2 ^ 8 + e.size.log2 * 2 ^ 16) 8 ++ bytesOf e.va 8 ++ bytesOf e.frame 8 ++ bytesOf e.bits 8
def tlbOf (bs : List Byte) : Option TlbEntry :=
  let n := fun k : Nat => natOfBytes ((bs.drop (8 * k)).take 8)
  if bitAt (n 0) 0 then some ⟨fld (n 0) 13 8, n 1, 2 ^ fld (n 0) 21 16, n 2, n 3⟩ else none

/-- The TLB that a selection names: a page's, a die's second-level one, or that of the I/O die. -/
def tlbOfUnit (d : Dev) (die unit : Nat) : List TlbEntry :=
  if unit = 0xFF then (if die = 4 then d.mem.tlbIo else (d.mem.tlb2[die]?).getD []) else (d.page (die * 80 + unit)).tlb
def setTlbOfUnit (d : Dev) (die unit : Nat) (t : List TlbEntry) : Dev :=
  if unit = 0xFF then { d with mem := if die = 4 then { d.mem with tlbIo := t } else { d.mem with tlb2 := modNth (fun _ => t) die d.mem.tlb2 } }
  else d.modPage (die * 80 + unit) fun p => { p with tlb := t }

/-- 544 bytes for a message of a mailbox: its mask and POI, then 128 lanes. -/
def msgBytes (m : Msg) : List Byte := bytesOf (maskOf m.lanes) 16 ++ bytesOf (boolNat m.poi) 16 ++ (List.range 128).flatMap fun j => bytesOf (laneOf m.lanes j).nat 4
def msgOf (bs : List Byte) : Msg := ⟨lanesOfBytes (natOfBytes (bs.take 16)) (bs.drop 32) 8, bitAt (natOfBytes ((bs.drop 16).take 16)) 0⟩

/-- A count, and the records after it. -/
def listPiece (at_ : Nat) (rs : List (List Byte)) : Piece := (at_, bytesOf rs.length 8 ++ rs.flatten)

/-- What the loader holds for a context: its class and place in the run queues; its inbound queue; the tokens that wait for its load; the fault records still to be
delivered; and its mailboxes. -/
def holdPieces (d : Dev) (c : Nat) : List Piece :=
  let h := d.hold c
  let at_ := (indexed d.loader.runq).findSome? fun (k, q) => (firstIdx (· == c) q).map fun i => (k + 1, i)
  [(0, bytesOf ((at_.map (·.1)).getD 0) 4 ++ bytesOf ((at_.map (·.2)).getD 0) 4), listPiece 0x1000 (h.inbound.map (·.image)),
   listPiece 0x10000 ((h.toks ++ h.away).map (·.image)), listPiece 0x100000 (h.traps.map (·.bytes))]
  ++ (List.range 16).map fun b => listPiece (0x200000 + 0x10000 * b) ((h.mail.getD b []).map msgBytes)

/-- Images that follow one another. -/
def imagesOf : Nat → List Byte → List Token
  | 0, _ => []
  | k + 1, bs =>
    match tokenOfImage? bs with
    | some t => t :: imagesOf k (bs.drop (32 + 4 * lanesOf t.wid))
    | none => []

/-- The inbound queue and the mailboxes take what their bytes say. -/
def readHold (s : ImgSrc) (ps : List Piece) (h : Hold) : Hold :=
  let h := s.part ps 0x1000 0xF000 (fun h : Hold => { h with inbound := imagesOf (min 64 (s.num 0x1000 8)) (s.bytes 0x1008 (64 * 64)) }) h
  (List.range 16).foldl (fun h b =>
    s.part ps (0x200000 + 0x10000 * b) 0x10000 (fun h : Hold =>
      { h with mail := h.mail.set b ((List.range (min 64 (s.num (0x200000 + 0x10000 * b) 8))).map fun k => msgOf (s.bytes (0x200008 + 0x10000 * b + 544 * k) 544)) }) h) h

/-- A stall record's 4 bytes (R419). -/
def stallBytes (e : Nat × Nat) : List Byte := bytesOf (min e.2 0xFFFF + e.1 * 2 ^ 16) 4

/-- Counters of a page: the stall records as R419 has them; from 0x4_0000, 32 bytes for each span's count set (R128); and from 0x4_1000 PGCYCLES, STALLCNT and the
TLB misses. -/
def countPieces (d : Dev) (pg : Nat) : List Piece :=
  let p := d.page pg
  (List.range 64).flatMap (fun f => let s := d.span (pg * 64 + f)
    s.stalls.map (fun e => (4 * (1024 * f + e.1), stallBytes e.2)) ++ [(0x40000 + 32 * f, s.counts.toList.flatMap (bytesOf · 4))])
  ++ [(0x41000, bytesOf p.cycles.toNat 8 ++ bytesOf (stallcnt p) 8 ++ bytesOf p.miss 8)]

/-- The unit of a selection exists, and the size of its state (R483). -/
def debugSize (cls die unit : Nat) : Option Nat :=
  let page := die < 4 ∧ unit < 80
  let tile := die < 4 ∧ unit < 48
  match cls with
  | 0 => if page then some 0x400000 else none
  | 1 => if page then some 0x100000 else none
  | 2 => if page then some 0x4800 else if die = 4 ∧ unit < 256 then some 0x4020 else none
  | 3 => if page then some 0x1000 else if die ≤ 4 ∧ unit = 0xFF then some 0x80000 else none
  | 4 => if tile then some 0x1000000 else none
  | 5 => if tile then some 0x100000 else none
  | 6 => if unit < 8 then some 0x2040000 else none
  | 7 => if unit < 64 then some 0x300000 else none
  | 8 => if page then some 0x42000 else none
  | _ => none

/-- Rows of ROUTEs that a Sifter works on, and tokens of rows in a Rack's output buffer. -/
def sifterRows (d : Dev) (u : Nat) : List Payload :=
  (d.chan ⟨.sifter, u / 2, u % 2⟩).tasks.filterMap fun t => t.pk.bind fun p => match p.instr with | .route _ => some p.l | _ => none
def rackRows (d : Dev) (u : Nat) : List Token := ((d.chan ⟨.rack, u / 2, u % 2⟩).results.filter (·.ord)).map (·.tok)

/-- The chain that a tile has begun. -/
def tileChain (d : Dev) (t : Nat) : Option Task :=
  (d.chan ⟨.hearth, t / 48, t % 48⟩).tasks.find? fun u => u.phase == 0 && (u.num.length == 2 || u.num.length == 3)

/-- The bytes of a unit of classes 3 and 5 to 8. A UNIT of class 6 is a Sifter, from 0, and the Rack of that number, from 0x4_0000. -/
def unitPieces (d : Dev) (cls die unit : Nat) : List Piece :=
  match cls with
  | 3 => (indexed (tlbOfUnit d die unit)).map fun (k, e) => (32 * k, tlbBytes e)
  | 5 => (let t := die * 48 + unit; tilePieces (d.tile t) ++ chainPieces (tileChain d t))
  | 6 => sifterPieces (d.sifter unit) (sifterRows d unit) ++ shiftPieces 0x40000 (rackPieces (d.rack unit) (rackRows d unit))
  | 7 => holdPieces d unit
  | 8 => countPieces d (die * 80 + unit)
  | _ => []

/-- A byte of the state that the window has selected (R483). -/
def debugByte (d : Dev) (sel o : Nat) : Shown :=
  let cls := fld sel 63 60
  let die := fld sel 57 55
  let unit := fld sel 47 40
  let a := fld sel 39 0 + o
  if (debugSize cls die unit).all (fun n => decide (n ≤ a)) then .fixed 0
  else match cls with
    | 0 => storeImageByte d (die * 80 + unit) a
    | 1 => .fixed (nodeImageByte d (die * 80 + unit) a)
    | 2 => .fixed (slotsByte d die unit a)
    | 4 => .fixed ((d.tile (die * 48 + unit)).ws.getD a 0).toNat
    | _ => .fixed (pieceByte (unitPieces d cls die unit) a)

/-! ### Writes through the window (R484) -/

/-- A unit that no load binds, or whose context is STOPPED. -/
def unitIdle (d : Dev) (cid : Option Nat) : Bool := match cid with | none => true | some c => (d.graph c).st == .stopped

/-- A byte of an image changed. -/
def pokeAt (img : List Byte) (o : Nat) (b : Byte) : List Byte := modNth (fun _ => b) o img

/-- A byte of the loop area that belongs to a loop's bitmap says which of its iterations have retired. -/
def pokeLoop (d : Dev) (pg o : Nat) (b : Byte) : Dev :=
  { d with spans := d.spans.map fun e =>
      if e.1 / 64 != pg then e
      else (e.1, { e.2 with loops := e.2.loops.map fun l =>
        let w := loopWindow e.2 l
        let bs := bitmapBytes w l
        let k := o - 0x3E0000 - l.off
        if 0x3E0000 + l.off ≤ o ∧ k < bs.length then { l with live := bitmapLive w l (pokeAt bs k b) } else l }) }

/-- A byte of a page store; in the spill table it belongs to a token's image, in the loop area to a bitmap. -/
def pokeStore (d : Dev) (pg o : Nat) (b : Byte) : Dev :=
  let d := if 0x3E0000 ≤ o then pokeLoop d pg o b else d.modPage pg fun p => { p with store := setStoreByte p.store o b }
  match tabledAt d pg o with
  | none => d
  | some i =>
    let k := (o - (d.page pg).spillBase) % tableEntry d pg
    let poke := fun e : Entry => if (e.place == .table i) then { e with tok := (tokenOfImage? (pokeAt e.tok.image k b)).getD e.tok } else e
    d.modPage pg fun p => { p with toks := p.toks.map poke }

/-- A byte of the matching stores: its entry is what the image then says (R419). -/
def pokeMatch (d : Dev) (pg m : Nat) (b : Byte) : Dev :=
  let (fe, size, k, o) := matchAt d pg m
  let old := (d.page pg).toks.filter (isMatchOf pg fe)
  let e := old[k]?
  let img := pokeAt ((e.map entryImage).getD (List.replicate size 0)) o b
  let new := old.take k ++ (imageEntry img e).toList ++ old.drop (k + 1)
  d.modPage pg fun p => { p with toks := (p.toks.filter fun x => !isMatchOf pg fe x) ++ new }

/-- A byte of node memory and matching stores in the layout of R419. -/
def pokeNode (d : Dev) (pg o : Nat) (b : Byte) : Dev :=
  if o < 0xC0000 then
    d.modSpan (pg * 64 + o / 12 / 1024) fun sp =>
      let k := o / 12 % 1024
      { sp with nodes := sp.nodes.set k (BitVec.ofNat 96 (setFld (sp.nodes.getD k 0).toNat (8 * (o % 12) + 7) (8 * (o % 12)) b.toNat)) }
  else if o < 0x100000 then pokeMatch d pg (o - 0xC0000) b
  else d

/-- A byte of slot tables and combining entries. -/
def pokeSlots (d : Dev) (die unit a : Nat) (b : Byte) : Dev :=
  if a < 0x4000 then
    let link := (die * 80 + unit) * 512 + a / 32
    { d with slots := d.slots.set link (modNth (fun v => setFld v (8 * (a % 2) + 7) (8 * (a % 2)) b.toNat) (a % 32 / 2) (linkTable d link)) }
  else
    let box := if die = 4 then 0x10000 + unit else (die * 80 + unit) * 64 + (a - 0x4000) / 32
    let k := a % 32 / 8
    let v := setFld (((boxEntries d box)[k]?).getD 0) (8 * (a % 8) + 7) (8 * (a % 8)) b.toNat
    let mine := d.combs.filter fun c : CombEntry => c.box == box
    let e : CombEntry :=
      { box, block := ((mine[k]?).map (·.block)).getD 0, inmask := fld v 55 48, fmt := decFmt (fld v 47 44), rm := fld v 43 42
        dest := ⟨fld v 26 25, fld v 24 18, fld v 17 12, fld v 11 2, portOf (fld v 1 0)⟩, held := ((mine[k]?).map (·.held)).getD [] }
    { d with combs := d.combs.filter (fun c : CombEntry => c.box != box) ++ mine.take k ++ (if bitAt v 63 then [e] else []) ++ mine.drop (k + 1) }

/-- A byte of a TLB: its entry is what its 32 bytes then say. -/
def pokeTlb (d : Dev) (die unit a : Nat) (b : Byte) : Dev :=
  let t := tlbOfUnit d die unit
  let k := a / 32
  let bs := pokeAt (((t[k]?).map tlbBytes).getD (List.replicate 32 0)) (a % 32) b
  setTlbOfUnit d die unit (t.take k ++ (tlbOf bs).toList ++ t.drop (k + 1))

/-- A byte of the counters of a page. -/
def pokeCounts (d : Dev) (pg a : Nat) (b : Byte) : Dev :=
  let s := ImgSrc.poked (countPieces d pg) a b.toNat
  if a < 0x40000 then
    let w := s.num (a / 4 * 4) 4
    d.modSpan (pg * 64 + a / 4096) fun sp => { sp with stalls := sp.stalls.set (a / 4 % 1024) (fld w 18 16, fld w 15 0) }
  else if a < 0x40800 then
    let v := fun k : Nat => s.num (a / 32 * 32 + 4 * k) 4
    d.modSpan (pg * 64 + (a - 0x40000) / 32) fun sp => { sp with counts := ⟨v 0, v 1, v 2, v 3, v 4⟩ }
  else
    d.modPage pg fun p => { p with cycles := BitVec.ofNat 64 (s.num 0x41000 8), stall := (List.range 5).map fun k => fld (s.num 0x41008 8) (12 * k + 11) (12 * k)
                                   miss := s.num 0x41010 8 % 2 ^ 16 }

/-- One byte of a unit is written. -/
def debugPoke (d : Dev) (cls die unit a : Nat) (b : Byte) : Dev :=
  let s := ImgSrc.poked (unitPieces d cls die unit) a b.toNat
  match cls with
  | 0 => pokeStore d (die * 80 + unit) a b
  | 1 => pokeNode d (die * 80 + unit) a b
  | 2 => pokeSlots d die unit a b
  | 3 => pokeTlb d die unit a b
  | 4 => d.modTile (die * 48 + unit) fun t => { t with ws := setStoreByte t.ws a b }
  | 5 =>
    let t := die * 48 + unit
    let d := (tileChain d t).toList.foldl (fun d u => d.modChan ⟨.hearth, die, unit⟩ fun c => { c with tasks := c.tasks.map fun x => if x.id == u.id then readChain s x else x }) d
    d.modTile t (readTile s)
  | 6 => if a < 0x40000 then d.modSifter unit (readSifter s) else d.modRack unit (readRack (s.drop 0x40000))
  | 7 => d.modHold unit (readHold s (holdPieces d unit))
  | 8 => pokeCounts d (die * 80 + unit) a b
  | _ => d

/-- The context that binds a unit; none where no load does. -/
def debugBinder (d : Dev) (cls die unit a : Nat) : Option Nat :=
  match cls with
  | 4 | 5 => (d.tile (die * 48 + unit)).cid
  | 6 => if a < 0x40000 then (d.sifter unit).cid else (d.rack unit).cid
  | 7 => if (d.graph unit).load.isSome then some unit else none
  | _ => if unit = 0xFF then none else if die = 4 then none else d.cidOf (die * 80 + unit)

/-- A write through the window is performed where EN is 1 and its bytes lie in an idle unit that exists; else it is dropped and WERR is set (R476, R482, R484). -/
def debugWrite (d : Dev) (o : Nat) (bs : List Byte) : Dev :=
  let sel := d.glob.dbgsel.toNat
  let cls := fld sel 63 60
  let die := fld sel 57 55
  let unit := fld sel 47 40
  let a := fld sel 39 0 + o
  let fits := match debugSize cls die unit with | some n => decide (a + bs.length ≤ n) | none => false
  if d.glob.dbgEn && fits && unitIdle d (debugBinder d cls die unit a) then
    (indexed bs).foldl (fun d (k, b) => debugPoke d cls die unit (a + k) b) d
  else { d with glob := { d.glob with dbgWerr := true } }

end Sys2Proof.Machine
end

