-- ==== Sys2Proof/Machine/Aperture.lean ====
section
/-! DEFINITION. What registers read: the system registers (R44 to R49) and the control aperture (R475, R476, R479, R482 to R486, R526,
and the blocks of R345, R442 and R464). -/

namespace Sys2Proof.Machine

/-! ### System registers -/

/-- PGID and PGCOORD of a page of the package (R49). -/
def pgid (d : Dev) (pg : Nat) : Nat :=
  (((d.page pg).cid.map BitVec.toNat).getD 0) * 2 ^ 10 + (pg / 80) * 2 ^ 8 + pg % 80

def pgcoord (d : Dev) (pg : Nat) : Nat :=
  let p := d.page pg
  p.w * 2 ^ 24 + p.h * 2 ^ 20 + p.px * 2 ^ 16 + p.py * 2 ^ 12 + (pg % 80 % 10) * 2 ^ 8 + (pg % 80 / 10) * 2 ^ 4

def tlbctl (p : Page) : Nat := p.miss * 2 ^ 48 + p.tlb.length

/-- A log entry's 64 bits (R479). -/
def LogEnt.word (e : LogEnt) : Nat :=
  e.ev.kind * 2 ^ 60 + e.ev.src * 2 ^ 54 + e.ev.idx * 2 ^ 44 + fld e.ev.addr 51 8

def errlog (x : DieSt) : Nat := match x.log with | e :: _ => e.word | [] => 0
def errcnt (x : DieSt) : Nat := boolNat x.ovf * 2 ^ 63 + x.uncorr * 2 ^ 32 + x.corr

/-- The registers of one context by number (R44); none where the number is of another scope. -/
def ctxReg (c : Ctx) (num : Nat) : Option Word64 :=
  match num with
  | 0x000 => some c.cfg | 0x001 => some c.fpctl | 0x002 => some c.ptroot | 0x003 => some c.spillbase | 0x004 => some c.spillsize
  | 0x005 => some c.framebase | 0x006 => some c.trapnode | 0x007 => some c.faultq | 0x008 => some c.prio | 0x009 => some c.weight
  | 0x00A => some c.deficit | 0x00B => some c.hotdecay | _ => none

def pageReg (d : Dev) (pg num : Nat) : Option Nat :=
  match num with
  | 0x100 => some (pgid d pg) | 0x101 => some (pgcoord d pg) | 0x102 => some (d.page pg).cycles.toNat
  | 0x103 => some (stallcnt (d.page pg)) | 0x104 => some (tlbctl (d.page pg)) | _ => none

def dieReg (d : Dev) (k num : Nat) : Option Nat :=
  match num with
  | 0x200 => some (errlog (d.die k)) | 0x201 => some (errcnt (d.die k)) | 0x202 => some (d.die k).errwin.toNat | _ => none

/-- What a register reads for a target (a CID, a page or a die, by its scope). -/
def sysReg (d : Dev) (num cid pg die : Nat) : Option Nat :=
  match ctxReg (d.ctx cid) num with
  | some v => some v.toNat
  | none => match pageReg d pg num with
    | some v => some v
    | none => dieReg d die num

/-! ### The control aperture -/

def lvReg (d : Dev) (o : Nat) : Nat :=
  let r := d.leaven.regs
  match o with
  | 0x000 => r.ctl.toNat | 0x008 => r.thr.toNat | 0x010 => r.auto.toNat | 0x018 => r.ftb.toNat | 0x020 => r.frb.toNat
  | 0x028 => r.wmark.toNat | 0x030 => r.shva.toNat
  | 0x038 => r.shcmd.toNat % 2 ^ 63 + boolNat (d.leaven.shoots.any (·.cmd)) * 2 ^ 63
  | 0x040 => r.cst.toNat | 0x048 => r.rbt.toNat | 0x050 => r.xrt.toNat | 0x058 => r.stat.toNat | _ => 0

/-- SBPST (R464). -/
def SbPort.word (p : SbPort) : Nat := p.retry * 2 ^ 48 + p.crcf * 2 ^ 32 + p.fecc * 2 ^ 16 + p.peer * 2 ^ 6 + p.lanes * 2 ^ 3 + p.state

/-- The Sterabel block (R464). PKG reads 0 while V is 0 (R458). -/
def sbReg (d : Dev) (o : Nat) : Nat :=
  if o = 0 then d.sb.ctl.toNat
  else if o = 8 then (if bitAt d.sb.id.toNat 10 then d.sb.id.toNat else 0)
  else if 0x400 ≤ o ∧ o < 0x600 then (d.sb.ports.getD ((o - 0x400) / 8) {}).word
  else if 0x2000 ≤ o ∧ o < 0x4000 then (d.sb.rt.getD ((o - 0x2000) / 8) 0).toNat
  else 0

def rtReg (d : Dev) (o : Nat) : Nat :=
  if o = 0 then d.rt.sfctl.toNat
  else if o = 8 then d.rt.sfqtb.toNat
  else if 0x40 ≤ o ∧ o < 0x80 then (d.rt.rkspb.getD ((o - 0x40) / 8) 0).toNat
  else 0

def dieBlock (d : Dev) (k o : Nat) : Nat :=
  let x := d.die k
  if o = 0 then (match x.log with | e :: _ => e.time % 2 ^ 64 | [] => 0)
  else if o = 8 then (match x.log with | e :: _ => e.num * 2 ^ 32 + e.ev.addr % 2 ^ 8 | [] => 0)
  else if o = 0x100 then patOf ((x.sensors[0]?).getD 0) 16
  else if o = 0x108 then patOf ((x.sensors[1]?).getD 0) 16
  else if o = 0x110 then (if k < 4 then patOf ((x.sensors[2]?).getD 0) 16 else 0)
  else if o = 0x200 then (if k = 4 then x.plim else 0)
  else 0

/-- A 64-bit register of the aperture at an aligned offset below the recovery buffer; a reserved one reads zero. -/
def ctlReg (d : Dev) (o : Nat) : Nat :=
  if o < 0x10000 then
    match o with
    | 0x00 => d.now.toNat | 0x08 => d.glob.brkst.toNat
    | 0x10 => d.glob.cmdCid * 2 ^ 32 + d.glob.cmdRes * 2 ^ 8 + d.glob.cmd
    | 0x18 => boolNat d.glob.dbgWerr * 2 + boolNat d.glob.dbgEn
    | 0x20 => d.glob.dbgsel.toNat | _ => 0
  else if o < 0x20000 then lvReg d (o - 0x10000)
  else if o < 0x30000 then sbReg d (o - 0x20000)
  else if o < 0x40000 then rtReg d (o - 0x30000)
  else if 0x50000 ≤ o ∧ o < 0x55000 then dieBlock d ((o - 0x50000) / 0x1000) (o % 0x1000)
  else 0

/-- The 64-bit registers of the aperture. -/
def isCtlReg (o : Nat) : Bool :=
  o % 8 == 0 && (
    decide (o ≤ 0x20) || (decide (0x10000 ≤ o) && decide (o ≤ 0x10058))
    || o == 0x20000 || o == 0x20008 || (decide (0x20400 ≤ o) && decide (o < 0x20600)) || (decide (0x22000 ≤ o) && decide (o < 0x24000))
    || o == 0x30000 || o == 0x30008 || (decide (0x30040 ≤ o) && decide (o < 0x30080))
    || (decide (0x50000 ≤ o) && decide (o < 0x55000)
        && (let x := o % 0x1000; x == 0 || x == 8 || x == 0x100 || x == 0x108 || (x == 0x110 && decide (o < 0x54000)) || (x == 0x200 && decide (0x54000 ≤ o)))))

/-- Bytes written to the recovery buffer, at an offset of the aperture (R472, R475). -/
def recoverStore (d : Dev) (o : Nat) (bs : List Byte) : Dev :=
  { d with host := { d.host with recovery := (indexed bs).foldl (fun t (k, b) =>
      if o + k < 0x1000000 then setStoreByte t (o + k - 0x800000) b else t) d.host.recovery } }

/-- One byte of the aperture. -/
def ctlByte (d : Dev) (o : Nat) : Shown :=
  if o < 0x800000 then .fixed (fld (ctlReg d (o / 8 * 8)) (8 * (o % 8) + 7) (8 * (o % 8)))
  else if o < 0x1000000 then .fixed (d.host.recovery.getD (o - 0x800000) 0).toNat
  else if o < 0x3000000 then (if d.glob.dbgEn then debugByte d d.glob.dbgsel.toNat (o - 0x1000000) else .fixed 0)
  else .fixed 0

/-- Read `n` bytes of the aperture (R526); a read changes nothing but the moment of free values. -/
def ctlRead (d : Dev) (o : Nat) : Nat → List Byte × Dev
  | 0 => ([], d)
  | n + 1 =>
    let (b, d) := (ctlByte d o).settle d
    let (bs, d) := ctlRead d (o + 1) n
    (BitVec.ofNat 8 b :: bs, d)

end Sys2Proof.Machine
end

