-- ==== Sys2Proof/Machine/Flits.lean ====
section
/-! DEFINITION. Sterabel flits (R455 to R459): their image and CRC, the virtual channel of each kind of traffic, and the flits that the package has
to send. -/

namespace Sys2Proof.Machine

/-- One bit of a CRC-32 with polynomial 0x04C1_1DB7 in its reflected form, then eight (R455). -/
def crcBit (c : BitVec 32) : BitVec 32 := if c.getLsbD 0 then (c >>> 1) ^^^ 0xEDB88320 else c >>> 1
def crcByte (c : BitVec 32) (b : Byte) : BitVec 32 := (List.range 8).foldl (fun c _ => crcBit c) (c ^^^ b.setWidth 32)

/-- The CRC-32 of a run of bytes. Of its conventions the spec gives the polynomial; start value, bit order and final complement are those of IEEE 802.3 (PRESUMED, log 29). -/
def crc32 (bs : List Byte) : BitVec 32 := ~~~(bs.foldl crcByte 0xFFFFFFFF)

/-- The 252 bytes that a flit's CRC covers: a header of 12 bytes, whose order of fields is the model's (DESIGN CHOICE, log 29), and 240 of payload. -/
def Flit.covered (f : Flit) : List Byte :=
  let h := f.vc % 4 + f.src % 1024 * 2 ^ 2 + f.dst % 1024 * 2 ^ 12 + f.lseq % 2 ^ 16 * 2 ^ 22 + f.ack % 2 ^ 16 * 2 ^ 38 + f.eseq % 2 ^ 32 * 2 ^ 54
  bytesOf h 12 ++ (f.payload ++ List.replicate 240 0).take 240
def Flit.crcOk (f : Flit) : Bool := f.crc == crc32 f.covered

/-- The channels (R457). -/
def vcReq : Nat := 0
def vcRsp : Nat := 1
def vcExp : Nat := 2
def vcColl : Nat := 3

/-- Something for another package becomes a flit of a channel with the next end-to-end number (R457, R459). How it is encoded in the payload is open. -/
def sendFlit (d : Dev) (vc dst : Nat) : Dev :=
  if dst = d.pkg then d
  else
    let k := dst * 4 + vc
    let n := d.sb.eseq.getD k 0
    let (v, d) := freeNat 1920 d
    { d with sb := { d.sb with out := d.sb.out ++ [⟨⟨vc, 0, 0, d.pkg, dst, n, bytesOf v 240, 0⟩, .waiting, true⟩], eseq := d.sb.eseq.set k (n + 1) } }

/-- An access to a home key of another package is a request (R460). -/
def sendRequest (d : Dev) (key : Nat) : Dev := if key ≥ 2 ^ 52 then sendFlit d vcReq (key / 2 ^ 52 - 1) else d

end Sys2Proof.Machine
end

