-- ==== Sys2Proof/Machine/Arith.lean ====
section
/-! DEFINITION. Results of the integer, floating-point, conversion, complex and dot-product instructions as functions of their
operands (R131 to R148). -/

namespace Sys2Proof.Machine

/-! ### Integer and logic (R131 to R136) -/

/-- ID copies the L token, its class and LVL (R130, R131). -/
def resId (a : Args) : Res := { a := a.l, b := a.l, clsA := a.cls, clsB := a.cls, lvl := a.lvl }

def resConst (a : Args) : Res := Res.both (litPayload a.fmt a.n a.lit)
def resAdd (a : Args) : Res := int2 a (· + ·)
def resSub (a : Args) : Res := int2 a (· - ·)
def resAdds (a : Args) : Res := intSat2 a (· + ·)
def resSubs (a : Args) : Res := intSat2 a (· - ·)
def resNeg (a : Args) : Res := int1 a (fun x => -x)
def resAbs (a : Args) : Res := int1 a (fun x => |x|)
def resMul (a : Args) : Res := int2 a (· * ·)
def resMulh (a : Args) : Res := int2 a (fun x y => (x * y) / 2 ^ a.w)
def resMad (a : Args) : Res := int3 a (fun x y z => x * y + z)
def resDiv (a : Args) : Res := int2 a (fun x y => (intDiv x y).1)
def resRem (a : Args) : Res := int2 a (fun x y => (intDiv x y).2)
def resMin (a : Args) : Res := int2 a (fun x y => if y < x then y else x)
def resMax (a : Args) : Res := int2 a (fun x y => if x < y then y else x)
def resAnd (a : Args) : Res := el2 a fun x y => el (x &&& y)
def resOr (a : Args) : Res := el2 a fun x y => el (x ||| y)
def resXor (a : Args) : Res := el2 a fun x y => el (x ^^^ y)
def resNot (a : Args) : Res := el1 a fun x => el (2 ^ a.w - 1 - x)
def resAndn (a : Args) : Res := el2 a fun x y => el (x &&& (2 ^ a.w - 1 - y))

/-- The shift count: the pattern of `r` modulo the width (R133). -/
def resShl (a : Args) : Res := el2 a fun x y => el (x * 2 ^ (y % a.w) % 2 ^ a.w)
def resShr (a : Args) : Res := el2 a fun x y => el (x / 2 ^ (y % a.w))
def resSar (a : Args) : Res := el2 a fun x y => el (patOf (valOf x a.w true / 2 ^ (y % a.w)) a.w)
def resRol (a : Args) : Res := el2 a fun x y => let s := y % a.w; el ((x * 2 ^ s + x / 2 ^ (a.w - s)) % 2 ^ a.w)

/-- Leading zero bits of a pattern of width `w`. -/
def clzOf (w x : Nat) : Nat := if x = 0 then w else w - 1 - x.log2
def popcOf (w x : Nat) : Nat := ((List.range w).filter (x.testBit ·)).length
def brevOf (w x : Nat) : Nat := ((List.range w).map fun i => if x.testBit i then 2 ^ (w - 1 - i) else 0).sum

def resClz (a : Args) : Res := el1 a fun x => el (clzOf a.w x)
def resPopc (a : Args) : Res := el1 a fun x => el (popcOf a.w x)
def resBrev (a : Args) : Res := el1 a fun x => el (brevOf a.w x)

/-- LIT of BFX and BFI (R135). -/
def bfPos (lit : Nat) : Nat := fld lit 5 0
def bfLen (lit : Nat) : Nat := fld lit 12 6

def resBfx (a : Args) : Res :=
  el1 a fun x =>
    let v := (x >>> bfPos a.lit) % 2 ^ bfLen a.lit
    el (if bitAt a.lit 13 then patOf (valOf v (bfLen a.lit) true) a.w else v)

def resBfi (a : Args) : Res :=
  el2 a fun x y => el (setFld x (bfPos a.lit + bfLen a.lit - 1) (bfPos a.lit) (y % 2 ^ bfLen a.lit))

def resSel (a : Args) : Res := el3 a fun x y z => el (if z ≠ 0 then x else y)
def resCmpeq (a : Args) : Res := intCmp a fun x y => decide (x = y)
def resCmpne (a : Args) : Res := intCmp a fun x y => decide (x ≠ y)
def resCmplt (a : Args) : Res := intCmp a fun x y => decide (x < y)
def resCmple (a : Args) : Res := intCmp a fun x y => decide (x ≤ y)
def resCmpltn (a : Args) : Res := patCmp a fun x y => decide (x < y)
def resCmplen (a : Args) : Res := patCmp a fun x y => decide (x ≤ y)

/-- Sum to DSTA and carry to DSTB (R134). -/
def resAddc (a : Args) : Res :=
  let s := el3 a fun x y z => el ((x + y + z % 2) % 2 ^ a.w)
  let k := el3 a fun x y z => el (boolNat (decide (x + y + z % 2 ≥ 2 ^ a.w)))
  { a := s.a, b := k.a }

/-- Difference to DSTA and borrow to DSTB (R134). -/
def resSubb (a : Args) : Res :=
  let s := el3 a fun x y z => el (patOf ((x : Int) - y - (z % 2 : Nat)) a.w)
  let k := el3 a fun x y z => el (boolNat (decide ((x : Int) - y - (z % 2 : Nat) < 0)))
  { a := s.a, b := k.a }

/-- `l + r · 2^SH + DISP` modulo 2^64 (R136). -/
def resLea (a : Args) : Res :=
  el2 a fun x y => el (patOf ((x : Int) + y * 2 ^ fld a.lit 2 0 + valOf (fld a.lit 31 8) 24 true) 64)

/-- A field of the firing's tag, or its SEQ, in every lane (R137). -/
def resTagv (a : Args) : Res :=
  let v := match fld a.lit 1 0 with
    | 0 => a.tag.iter.toNat
    | 1 => a.tag.frame.toNat
    | 2 => a.seq.toNat
    | _ => a.tag.cid.toNat
  Res.both (List.replicate a.n (Lane.some v))

/-- `min(max(l, r), c)` (R131). -/
def resClamp (a : Args) : Res :=
  int3 a fun x y z => let m := if x < y then y else x; if z < m then z else m

/-- `hash32` (R138). -/
def hash32 (x s : Nat) : Nat :=
  let h := x ^^^ s
  let h := (h ^^^ (h / 2 ^ 16)) * 0x7FEB352D % 2 ^ 32
  let h := (h ^^^ (h / 2 ^ 15)) * 0x846CA68B % 2 ^ 32
  h ^^^ (h / 2 ^ 16)

def resHash (a : Args) : Res := el2 a fun x y => el (hash32 x y)

def rotl32 (x k : Nat) : Nat := (x * 2 ^ k + x / 2 ^ (32 - k)) % 2 ^ 32
def rndWeyl (n seed : Nat) : Nat := (seed + (n + 1) * 0x9E3779B9) % 2 ^ 32

/-- One round of `rnd_mix` (R139). -/
def mixRound (ab : Nat × Nat) (k : Nat) : Nat × Nat :=
  let a := (ab.1 + ab.2) % 2 ^ 32
  (rotl32 a 16, rotl32 ab.2 k ^^^ a)

def rndMix (c key : Nat) : Nat :=
  let r := [7, 13, 17, 25].foldl mixRound (c, key ^^^ 0x9E3779B9)
  (r.1 + r.2) % 2 ^ 32

def resRnd (a : Args) : Res := el2 a fun x y => el (if bitAt a.lit 0 then rndMix x y else rndWeyl x y)

/-! ### Floating point (R140 to R145) -/

def resFadd (a : Args) : Res := fp2 a fun x y => fpOut a (XR.add .rne x y)
def resFsub (a : Args) : Res := fp2 a fun x y => fpOut a (XR.add .rne x y.negate)
def resFmul (a : Args) : Res := fp2 a fun x y => fpOut a (x.mul y)
def resFfma (a : Args) : Res := fp3 a fun x y z => fpOut a (XR.add .rne (x.mul y) z)
def resFfms (a : Args) : Res := fp3 a fun x y z => fpOut a (XR.add .rne (x.mul y) z.negate)
def resFmin (a : Args) : Res := fp2 a fun x y => encodeSame (fmtFp a.fmt) (fminmax false x y)
def resFmax (a : Args) : Res := fp2 a fun x y => encodeSame (fmtFp a.fmt) (fminmax true x y)
def resFabs (a : Args) : Res := fp1 a fun x => fpOut a x.abs
def resFneg (a : Args) : Res := fp1 a fun x => fpOut a x.negate
def resFcmpeq (a : Args) : Res := fpCmp a XR.eq
def resFcmplt (a : Args) : Res := fpCmp a XR.lt
def resFcmple (a : Args) : Res := fpCmp a XR.le
def resFcmpun (a : Args) : Res := fpCmp a fun x y => x.isNan || y.isNan
def resFrcp (a : Args) : Res := fp1 a fun x => fpOut a (XR.div (.fin false 1 1) x)
def resFrsq (a : Args) : Res := fp1 a fun x => fpOut a (frsqOf x)
def resFsqrt (a : Args) : Res := fp1 a fun x => fpOut a (fsqrtOf x)
def resFdiv (a : Args) : Res := fp2 a fun x y => fpOut a (XR.div x y)
def resFexp2 (a : Args) : Res := fp1 a fun x => fexp2 a.ftz (fmtFp a.fmt) x
def resFlog2 (a : Args) : Res := fp1 a fun x => flog2 a.ftz (fmtFp a.fmt) x
def resFsin (a : Args) : Res := fp1 a fun x => fsinpi a.ftz (fmtFp a.fmt) x
def resFcos (a : Args) : Res := fp1 a fun x => fcospi a.ftz (fmtFp a.fmt) x
def resFtanh (a : Args) : Res := fp1 a fun x => ftanh a.ftz (fmtFp a.fmt) x

/-- FRND: ±round_int(|l|) with the sign of l (R143). Under ARY 1 the R port holds the random token. -/
def frndEl (a : Args) (rb : Option Nat) (x : XR) : El :=
  match x with
  | .fin s n d => (fpOut a (.fin s (roundInt n d (rmOfCode (fld a.lit 2 0)) s rb (rwOf a.fmt)) 1))
  | _ => fpOut a x

def resFrnd (a : Args) : Res :=
  gatherEls a.fmt a.n ((indexed (elems a.fmt a.l)).map fun (e, x) => x.map fun p =>
    let u := fpIn a p; addK u.2 (frndEl a (randBits a.fmt a.r e) u.1))

/-- The class bit of a raw pattern (R144). -/
def fclassOf (f : FpFmt) (x : Nat) : Nat :=
  match decodeFp f x with
  | .nan _ => 2 ^ 8
  | .inf s => if s then 1 else 2 ^ 7
  | .fin s n d =>
    if n = 0 then (if s then 2 ^ 3 else 2 ^ 4)
    else if f.belowNormal (.fin s n d) then (if s then 2 ^ 2 else 2 ^ 5)
    else (if s then 2 ^ 1 else 2 ^ 6)

def resFclass (a : Args) : Res := el1 a fun x => el (fclassOf (fmtFp a.fmt) x)

/-- A power of two whose exponent is kept where no result can differ (results of every format round alike beyond ±2^14). -/
def capExp (k : Int) : Int := max (-16384) (min 16384 k)

/-- FSCALE: r is a two's-complement integer of the element's width (R145). -/
def resFscale (a : Args) : Res :=
  el2 a fun x y => let u := fpIn a x; addK u.2 (fpOut a (u.1.scale (capExp (valOf y a.w true))))

/-! ### Conversions (R146) -/

def cvtDst (lit : Nat) : Fmt := fmtOfCode (fld lit 7 4)

/-- `cvt_elem` (R146). -/
def cvtElem (ftz : Bool) (src dst : Fmt) (rm : Rm) (rb : Option Nat) (x : Nat) : El :=
  let (v, k) := match fmtKind src with
    | .int n s => (XR.ofInt (valOf x n s), Counts.zero)
    | .fp f => scaledIn ftz (decodeFp f x) 0 (computeFmt src)
    | _ => (XR.zero false, Counts.zero)
  match fmtKind dst with
  | .int n s => let (i, k') := toIntFmt v n s rm rb (rwOf dst); (patOf i n, k.add k')
  | .fp f => addK k (roundTo ftz v f rm rb (rwOf dst))
  | _ => (0, k)

/-- A conversion: elements placed by R129, random bits by the destination format and lane (R127, R146). -/
def resConvert (a : Args) : Res :=
  let dst := cvtDst a.lit
  let part := fld a.lit 10 8
  let nIn := elemsIn a.fmt a.n
  let nOut := elemsIn dst a.n
  let src := elems a.fmt a.l
  placeEls dst a.n ((List.range nOut).map fun k =>
    (placeIndex nIn nOut part k).map fun i =>
      ((src[i]?).join).map (cvtElem a.ftz a.fmt dst (rmOfCode (fld a.lit 2 0)) (randBits dst a.r k)))

def resCvtf (a : Args) : Res := resConvert a
def resCvtfi (a : Args) : Res := resConvert a
def resCvtif (a : Args) : Res := resConvert a

/-! ### Complex and dot products (R147, R148) -/

def cpart (a : Args) (x : Nat) : (XR × XR) × Counts :=
  let u := scaledIn a.ftz (decodeFp fp32 (x % 2 ^ 32)) 0 fp32
  let v := scaledIn a.ftz (decodeFp fp32 (x / 2 ^ 32)) 0 fp32
  ((u.1, v.1), u.2.add v.2)

/-- Real and imaginary part, each one exact sum rounded once (R84, R147). -/
def cmulEl (a : Args) (x y : Nat) (acc : Option Nat) : El :=
  let (l, k1) := cpart a x
  let (r0, k2) := cpart a y
  let r := if bitAt a.lit 3 then (r0.1, r0.2.negate) else r0
  let (e, k3) := match acc with
    | some z => let (v, k) := cpart a z; (([v.1], [v.2]), k)
    | none => (([], []), Counts.zero)
  let re := roundTo a.ftz (XR.sum .rne ([l.1.mul r.1, (l.2.mul r.2).negate] ++ e.1)) fp32 .rne
  let im := roundTo a.ftz (XR.sum .rne ([l.1.mul r.2, l.2.mul r.1] ++ e.2)) fp32 .rne
  (re.1 + im.1 * 2 ^ 32, (k1.add k2).add (k3.add (re.2.add im.2)))

def resCmul (a : Args) : Res := el2 a fun x y => cmulEl a x y none
def resCfma (a : Args) : Res := el3 a fun x y z => cmulEl a x y (some z)

/-- The other FP8 variant or integer signedness, for R under XR (R148). -/
def xrFmt (f : Fmt) : Fmt :=
  match f with
  | .e4m3x4 => .e5m2x4 | .e5m2x4 => .e4m3x4 | .i8x4 => .n8x4 | .n8x4 => .i8x4 | g => g

/-- Elements of one lane as patterns. -/
def laneEls (f : Fmt) (l : Lane) : List Nat := (List.range (32 / fmtBits f)).map fun k => fld l.nat (fmtBits f * k + fmtBits f - 1) (fmtBits f * k)

/-- One dot product in one lane. -/
def dotLane (a : Args) (fr : Fmt) (l r : Lane) (c : Option Lane) : Lane × Counts :=
  if !(l.ok && r.ok && (c.map (·.ok)).getD true) then (.none, .zero)
  else match fmtKind a.fmt with
    | .int _ _ =>
      let ps := List.zipWith (fun x y => valOf x 8 (fmtSigned a.fmt) * valOf y 8 (fmtSigned fr)) (laneEls a.fmt l) (laneEls fr r)
      let (v, k) := satInt (ps.sum + ((c.map fun z => valOf z.nat 32 true).getD 0)) 32 true
      (Lane.some (patOf v 32), k)
    | _ =>
      let us := (laneEls a.fmt l).map fun x => scaledIn a.ftz (decodeFp (fmtFp a.fmt) x) 0 fp32
      let vs := (laneEls fr r).map fun x => scaledIn a.ftz (decodeFp (fmtFp fr) x) 0 fp32
      let acc := (c.map fun z => [scaledIn a.ftz (decodeFp fp32 z.nat) 0 fp32]).getD []
      let (v, k) := roundTo a.ftz (XR.sum .rne (List.zipWith (fun x y => x.1.mul y.1) us vs ++ acc.map (·.1))) fp32 .rne
      (Lane.some v, (Counts.sum ((us ++ vs ++ acc).map (·.2))).add k)

def dotRes (a : Args) (fr : Fmt) : Res :=
  let ls := (indexed (List.zip a.l a.r)).map fun (j, (x, y)) =>
    dotLane a fr x y (if a.ary = Ary.lrc then some ((a.c[j]?).getD .none) else none)
  Res.both (ls.map (·.1)) (Counts.sum (ls.map (·.2)))

def resDot2 (a : Args) : Res := dotRes a a.fmt
def resDot4 (a : Args) : Res := dotRes a (if bitAt a.lit 4 then xrFmt a.fmt else a.fmt)

end Sys2Proof.Machine
end

