-- ==== Sys2Proof/Machine/LaneOps.lean ====
section
/-! DEFINITION. Results of the block-format, statistics and lane instructions as functions of their operands (R149 to R165). -/

namespace Sys2Proof.Machine

/-! ### Block formats (R149 to R154) -/

def blkTgt (lit : Nat) : BlkFmt := (blkOfCode? (fld lit 7 4)).getD .mxe4m3

/-- Elements of the floating-point side of a block node after `scaled_in`, none where absent. -/
def blkIns (a : Args) : List (Option (XR × Counts)) := (elems a.fmt a.l).map (Option.map (fpIn a))

/-- Blocks of `size` elements; a block is present when each of its elements is (R150). -/
def blkGroups {α : Type} (size : Nat) (es : List α) : List (List α) := chunks size (es.length / size) es

def blkPresent {α : Type} (es : List (Option α)) : Option (List α) := if es.all Option.isSome then some (es.filterMap id) else none

/-- The scale token of MX codes or DX pairs; `none` for a block that is not present. A lane is valid when every block it holds is
present; a lane that holds no block is invalid (R69, R152). -/
def scaleToken (dx : Bool) (n : Nat) (sc : List (Option (Nat × Nat))) : Payload :=
  let per := if dx then 2 else 4
  (List.range n).map fun j =>
    let held := (sc.drop (per * j)).take per
    if held.isEmpty || held.any Option.isNone then .none
    else Lane.some (((indexed held).map fun (k, s) =>
      let (c, mu) := s.getD (0, 0)
      if dx then (c + 256 * mu) * 2 ^ (16 * k) else c * 2 ^ (8 * k)).sum)

/-- Scale `b` of a scale token: none where its lane is invalid (R69). -/
def scaleOf (dx : Bool) (p : Payload) (b : Nat) : Option (Nat × Nat) :=
  let per := if dx then 2 else 4
  match p[b / per]? with
  | some l =>
    if l.ok then
      let k := b % per
      some (if dx then (fld l.nat (16 * k + 7) (16 * k), fld l.nat (16 * k + 15) (16 * k + 8)) else (fld l.nat (8 * k + 7) (8 * k), 0))
    else none
  | none => none

/-- AMAX (R151). The counts are those of `scaled_in` on the elements that take part. -/
def resAmax (a : Args) : Res :=
  let es := blkIns a
  let blk := fld a.lit 1 0
  let groups := if blk = 2 then [es] else blkGroups (if blk = 0 then 16 else 32) es
  let one := fun (j : Nat) (g : List (Option (XR × Counts))) =>
    let here := g.filterMap id
    let m := amaxFin (here.map (·.1))
    let prev := if a.ary = Ary.lr then
        match a.r[j]? with
        | some l => if l.ok then (match decodeFp fp32 l.nat with | .fin _ n d => [XR.fin false n d] | _ => []) else []
        | none => []
      else []
    if here.isEmpty && prev.isEmpty then Lane.none
    else Lane.some (roundTo false (amaxFin (m :: prev)) fp32 .rne).1
  let lanes := (indexed groups).map fun (j, g) => one j g
  Res.both ((lanes ++ List.replicate a.n Lane.none).take a.n) (Counts.sum (es.filterMap (Option.map Prod.snd)))

/-- SCALEQ (R152). -/
def resScaleq (a : Args) : Res :=
  let t := blkTgt a.lit
  let sc := (blkGroups t.size (blkIns a)).map fun g => (blkPresent g).map fun (es : List (XR × Counts)) =>
    let (s, k) := computeScale t (es.map (·.1))
    (s, k.add (Counts.sum (es.map Prod.snd)))
  let p := scaleToken t.isDx a.n (sc.map (Option.map (·.1)))
  { a := p, b := p, clsA := .scale, clsB := .scale, counts := Counts.sum (sc.filterMap (Option.map (·.2))) }

/-- Bits of one quantised block: packed elements, or a DX block image (R67, R68). -/
def blockBits (t : BlkFmt) (c mu : Nat) (codes : List Nat) : Nat :=
  let body := ((indexed codes).map fun (j, x) => x * 2 ^ (t.w * j)).sum
  if t.isDx then c + mu * 2 ^ 8 + body * 2 ^ 16 else body

/-- Bits that a block takes in the b32 stream (R149). -/
def blockLen (t : BlkFmt) : Nat := if t.isDx then 8 * t.image else t.size * t.w

/-- QNT (R153). -/
def resQnt (a : Args) : Res :=
  let t := blkTgt a.lit
  let rm := rmOfCode (fld a.lit 2 0)
  let supplied := a.ary = Ary.lr ∨ a.ary = Ary.lrc
  let random := a.ary = Ary.lrc ∨ a.ary = Ary.lit
  let blocks := (indexed (blkGroups t.size (blkIns a))).map fun (b, g) =>
    (blkPresent g).bind fun es =>
      let vs := es.map (·.1)
      let k0 := Counts.sum (es.map (·.2))
      let sc := if supplied then (scaleOf t.isDx a.c b).map fun s => (s, Counts.zero) else some (computeScale t vs)
      sc.map fun (s, k1) =>
        let rbs := (List.range t.size).map fun j => if random then randBits a.fmt a.r (b * t.size + j) else none
        let (codes, k2) := quantBlock a.ftz t vs s.1 s.2 rm rbs (rwOf a.fmt)
        (s, blockBits t s.1 s.2 codes, (k0.add k1).add k2)
  let len := blockLen t
  let total := blocks.length * len
  let bits := ((indexed blocks).map fun (b, x) => ((x.map fun y => y.2.1).getD 0) * 2 ^ (len * b)).sum
  let stream := (List.range a.n).map fun j =>
    if 32 * j ≥ total then Lane.none
    else
      let hi := min (32 * j + 31) (total - 1)
      if (List.range (hi / len + 1 - 32 * j / len)).all (fun i => ((blocks[32 * j / len + i]?).join).isSome)
      then Lane.some (fld bits (32 * j + 31) (32 * j)) else Lane.none
  { a := stream
    b := if supplied then a.c else scaleToken t.isDx a.n (blocks.map (Option.map (·.1)))
    clsB := .scale
    counts := Counts.sum (blocks.filterMap (Option.map fun x => x.2.2)) }

/-- DQNT (R154). -/
def resDqnt (a : Args) : Res :=
  let t := blkTgt a.lit
  let blocks := if t.isDx then 4 * a.n / t.image else a.n / t.w
  let nIn := blocks * t.size
  let nOut := elemsIn a.fmt a.n
  let bits := payloadBits a.l
  let len := blockLen t
  let one := fun i : Nat =>
    let b := i / t.size
    let j := i % t.size
    let lo := len * b + (if t.isDx then 16 else 0) + t.w * j
    let srcOk := bitsOk a.l (lo + t.w - 1) lo && (!t.isDx || bitsOk a.l (len * b + 15) (len * b))
    if !srcOk then none
    else
      let code := fld bits (lo + t.w - 1) lo
      let sc := if t.isDx then some (fld bits (len * b + 7) (len * b), fld bits (len * b + 15) (len * b + 8)) else scaleOf false a.c b
      match sc with
      | none => some (roundTo a.ftz (.nan false) (fmtFp a.fmt) (rmOfCode (fld a.lit 2 0)))
      | some (c, mu) =>
        let (v, k) := blockValue a.ftz t code c mu j (computeFmt a.fmt)
        some (addK k (roundTo a.ftz v (fmtFp a.fmt) (rmOfCode (fld a.lit 2 0))))
  placeEls a.fmt a.n ((List.range nOut).map fun k => (placeIndex nIn nOut (fld a.lit 10 8) k).map one)

/-! ### Packing and statistics (R155 to R158) -/

/-- PACK (R155). -/
def resPack (a : Args) : Res :=
  let w := fld a.lit 3 0
  let bytes := a.l.flatMap fun l => bytesOf l.nat 4
  let bits := ((indexed bytes).map fun (k, b) => (b.toNat % 2 ^ w) * 2 ^ (w * k)).sum
  Res.both ((List.range a.n).map fun j =>
    if j < a.n * w / 8 then
      let first := 32 * j / w
      let last := (32 * j + 31) / w
      if (List.range (last + 1 - first)).all (fun i => ((a.l[(first + i) / 4]?).map (·.ok)).getD false)
      then Lane.some (fld bits (32 * j + 31) (32 * j)) else Lane.none
    else Lane.none)

/-- UNPACK (R155). -/
def resUnpack (a : Args) : Res :=
  let w := fld a.lit 3 0
  let nIn := 32 * a.n / w
  let nOut := 4 * a.n
  let bits := payloadBits a.l
  placeEls a.fmt a.n ((List.range nOut).map fun k => (placeIndex nIn nOut (fld a.lit 10 8) k).map fun i =>
    if bitsOk a.l (w * i + w - 1) (w * i) then
      let v := fld bits (w * i + w - 1) (w * i)
      some (el (if a.fmt = Fmt.i8x4 then patOf (valOf v w true) 8 else v))
    else none)

/-- The stat token of a count set (R156). -/
def statToken (n : Nat) (k : Counts) : Payload :=
  (k.toList.map Lane.some ++ List.replicate n Lane.none).take n

/-- SSUM (R157). -/
def resSsum (a : Args) : Res :=
  let p := List.zipWith (fun (x y : Lane) =>
    if x.ok && y.ok then Lane.some (sat32 (x.nat + y.nat)) else if x.ok then x else if y.ok then y else Lane.none) a.l a.r
  { a := p, b := p, clsA := .stat, clsB := .stat }

/-- One scale code from an FP32 value (R158). -/
def cvtsEncode (x : Nat) : Nat × Counts :=
  match decodeFp fp32 x with
  | .nan _ => (254, cNan)
  | .inf _ => (254, cSat)
  | .fin _ n d =>
    if n = 0 then (0, cScaleuf 1)
    else
      let c := floorLog2 n d + 127
      if c < 0 then (0, cScaleuf 1) else if c > 254 then (254, cSat) else (c.toNat, .zero)

/-- CVTS with DIR 0 (R158). FTZ acts on neither direction: the rule states the value and the code of every input, and names no flush (DESIGN CHOICE, log 77). -/
def resCvtsDec (a : Args) : Res :=
  let dx := bitAt a.lit 1
  let ls := (List.range a.n).map fun b =>
    match scaleOf dx a.l (b + fld a.lit 10 8 * a.n) with
    | none => (Lane.none, Counts.zero)
    | some (c, _) =>
      if c = 0xFF then (Lane.some fp32.canonNan, cNan)
      else (Lane.some (roundTo false (XR.dyadic false 1 ((c : Int) - 127)) fp32 .rne).1, Counts.zero)
  Res.both (ls.map (·.1)) (Counts.sum (ls.map (·.2)))

/-- CVTS with DIR 1 (R158). -/
def resCvtsEnc (a : Args) : Res :=
  let dx := bitAt a.lit 1
  let sc := a.l.map fun l => if l.ok then some (cvtsEncode l.nat) else none
  let p := scaleToken dx a.n (sc.map (Option.map fun s => (s.1, 0)))
  { a := p, b := p, clsA := .scale, clsB := .scale, counts := Counts.sum (sc.filterMap (Option.map (·.2))) }

/-! ### Lane instructions (R159, R160) -/

def resBcast (a : Args) : Res :=
  let us := unitsOf a.fmt a.l
  let r0 := (a.r[0]?).getD .none
  let i := if a.ary = Ary.lr then r0.nat else fld a.lit 6 0
  let u := if a.ary = Ary.lr && !r0.ok then noUnit a.fmt else unitAt a.fmt us (i % us.length)
  Res.both (List.replicate us.length u).flatten

def resShuf (a : Args) : Res :=
  Res.both (a.r.map fun r => if r.ok then (a.l[r.nat % a.n]?).getD .none else .none)

/-- Source unit of PERM (R160). -/
def permSrc (pat k u j : Nat) : Nat :=
  match pat with
  | 0 => u - 1 - j
  | 1 => (j + k) % u
  | 2 => j ^^^ (k % u)
  | 3 => if j % 2 = 0 then j / 2 else u / 2 + j / 2
  | _ => if j < u / 2 then 2 * j else 2 * (j - u / 2) + 1

def resPerm (a : Args) : Res :=
  let us := unitsOf a.fmt a.l
  Res.both ((List.range us.length).flatMap fun j => unitAt a.fmt us (permSrc (fld a.lit 2 0) (fld a.lit 15 8) us.length j))

def resLaneid (a : Args) : Res := Res.both ((List.range a.n).map fun j => Lane.some ((a.lit + j) % 2 ^ 32))

/-! ### RED and SCAN (R161, R162) -/

/-- The operations of LIT[2:0]. -/
inductive FoldOp where
  | sum | min | max | and | or | xor
  deriving DecidableEq, Repr

def foldOpOf (c : Nat) : FoldOp := match c with | 0 => .sum | 1 => .min | 2 => .max | 3 => .and | 4 => .or | _ => .xor

/-- One step on two patterns: `add_rounded` for sums (R82), R141 for floating-point extremes. -/
def foldStep (a : Args) (op : FoldOp) (x y : Nat) : El :=
  match fmtKind a.fmt with
  | .fp f =>
    let u := decodeFp f x
    let v := decodeFp f y
    match op with
    | .sum => addRoundedFp a.ftz u v f (rmReduce (fld a.lit 6 4))
    | .min => encodeSame f (fminmax false u v)
    | _ => encodeSame f (fminmax true u v)
  | _ =>
    match op with
    | .sum =>
      if bitAt a.lit 7 then let (v, k) := satInt (a.val x + a.val y) a.w a.sgn; (patOf v a.w, k)
      else el ((x + y) % 2 ^ a.w)
    | .min => el (if a.val y < a.val x then y else x)
    | .max => el (if a.val x < a.val y then y else x)
    | .and => el (x &&& y)
    | .or => el (x ||| y)
    | .xor => el (x ^^^ y)

/-- What an invalid lane enters a sum as: −0.0, or 0 (R82). -/
def sumIdent (a : Args) : Nat := match fmtKind a.fmt with | .fp f => f.signBit true | _ => 0

/-- What stands at a place of a fold: nothing; an invalid lane of a sum, which enters as −0.0 or 0 (R82); or an element. -/
inductive FoldEl where
  | absent | ident | val (e : El)
  deriving DecidableEq, Repr

/-- A zero of the format, of either sign. -/
def isZeroPat (a : Args) (x : Nat) : Bool := match fmtKind a.fmt with | .fp f => (match decodeFp f x with | .fin _ n _ => n == 0 | _ => false) | _ => x == 0

/-- An element and the identity of sums: `add_rounded`, but a zero stays what it is in every mode, since −0.0 leaves every sum unchanged (R82). -/
def foldIdent (a : Args) (e : El) : El := if isZeroPat a e.1 then e else let r := foldStep a .sum e.1 (sumIdent a); (r.1, e.2.add r.2)

/-- A result that an operand gives unchanged: a NaN is the canonical one and counts nan, unless a step has counted it (R60, R61). -/
def settleNan (a : Args) (e : El) : El :=
  match fmtKind a.fmt with
  | .fp f => (match decodeFp f e.1 with
    | .nan _ => (f.canonNan, if e.2.nan = 0 then e.2.add cNan else e.2)
    | _ => e)
  | _ => e

def FoldEl.settle (a : Args) : FoldEl → FoldEl
  | .val e => .val (settleNan a e)
  | x => x

/-- A step where an operand may be absent: op(absent, x) is x (R161, R162). -/
def foldOpt (a : Args) (op : FoldOp) (x y : FoldEl) : FoldEl :=
  match x, y with
  | .absent, y => y
  | x, .absent => x
  | .ident, .ident => .ident
  | .ident, .val e => .val (foldIdent a e)
  | .val e, .ident => .val (foldIdent a e)
  | .val x, .val y => let r := foldStep a op x.1 y.1; .val (r.1, (x.2.add y.2).add r.2)

/-- The element that a fold gives. -/
def FoldEl.out (a : Args) : FoldEl → Option El
  | .absent => none
  | .ident => some (el (sumIdent a))
  | .val e => some e

/-- An operand of a fold without the counts that its entry made. -/
def FoldEl.bare : FoldEl → FoldEl
  | .val e => .val (el e.1)
  | x => x

/-- An invalid lane in a fold. -/
def noEl (op : FoldOp) : FoldEl := if op = .sum then .ident else .absent

/-- One level of the pairwise tree. -/
def treeLevel (a : Args) (op : FoldOp) : List FoldEl → List FoldEl
  | x :: y :: r => foldOpt a op x y :: treeLevel a op r
  | l => l

def treeFold (a : Args) (op : FoldOp) : Nat → List FoldEl → FoldEl
  | 0, l => l.headD .absent
  | k + 1, l => treeFold a op k (treeLevel a op l)

/-- An operand of RED or SCAN: floating-point elements after `scaled_in` (R70). -/
def foldIn (a : Args) (x : Nat) : El :=
  match fmtKind a.fmt with
  | .fp f => let u := fpIn a x; if u.2.flush ≠ 0 then (f.signBit (bitAt x (a.w - 1)), u.2) else (x, .zero)
  | _ => (x, .zero)

/-- Elements of each position across the units: `positions[p][u]`. -/
def positions (f : Fmt) (p : Payload) : List (List (Option Nat)) :=
  let per := if fmtBits f = 64 then 1 else 32 / fmtBits f
  let es := elems f p
  (List.range per).map fun k => (List.range (es.length / per)).map fun u => (es[u * per + k]?).join

/-- A unit from the results of its positions: all of them or none. -/
def unitFrom (f : Fmt) (es : List (Option Nat)) : List Lane := packElems f (unitLanes f) es

/-- RED. Where every unit is invalid, a sum is −0.0 or 0 in an invalid unit (R82, R161). -/
def resRed (a : Args) : Res :=
  let op := foldOpOf (fld a.lit 2 0)
  let ps := positions a.fmt a.l
  let units := a.n / unitLanes a.fmt
  let anyOk := ((ps.head?).getD []).any Option.isSome
  let rs := ps.map fun col =>
    let ins := col.map fun x => match x with | some v => FoldEl.val (foldIn a v) | none => noEl op
    ((treeFold a op units.log2 ins).settle a).out a
  let u := (unitFrom a.fmt (rs.map (Option.map (·.1)))).map fun l => { l with ok := l.ok && anyOk }
  Res.both ((List.range units).flatMap fun j => if j = 0 || bitAt a.lit 8 then u else noUnit a.fmt)
    (Counts.sum (rs.filterMap (Option.map (·.2))))

/-- Running folds of a column: the fold before each unit and the fold with it. -/
def scanFold (a : Args) (op : FoldOp) : FoldEl → List FoldEl → List (Option Nat × Option Nat) × Counts
  | _, [] => ([], .zero)
  | acc, x :: r =>
    let new := if acc = .absent then x.settle a else foldOpt a op acc.bare x
    let (rest, k) := scanFold a op new.bare r
    (((acc.out a).map Prod.fst, (new.out a).map Prod.fst) :: rest, (((new.out a).map Prod.snd).getD Counts.zero).add k)

/-- What an absent exclusive fold gives (R162). -/
def exclIdent (a : Args) (op : FoldOp) : Option Nat :=
  match op with
  | .sum => some (sumIdent a)
  | .or | .xor => some 0
  | .and => some (2 ^ a.w - 1)
  | _ => none

/-- The init of a column: as an output of its own, under EXCL, it is a NaN result too (R61). -/
def scanInit (a : Args) (excl : Bool) (x : Nat) : El :=
  let e := foldIn a x
  ((settleNan a e).1, if excl then (settleNan a e).2 else e.2)

/-- SCAN; under EXCL the last element takes part in no output. -/
def resScan (a : Args) : Res :=
  let op := foldOpOf (fld a.lit 2 0)
  let excl := bitAt a.lit 8
  let ps := positions a.fmt a.l
  let inits := if a.ary = Ary.lr then (positions a.fmt a.r).map fun col => ((col.head?).join).map (scanInit a excl) else ps.map fun _ => none
  let initCounts := Counts.sum (inits.filterMap (Option.map (·.2)))
  let cols := List.zipWith (fun col init =>
    let ins := (indexed col).map fun (j, x) =>
      if excl && j + 1 == col.length then FoldEl.absent
      else match x with
      | some v => FoldEl.val (foldIn a v)
      | none => noEl op
    let (fs, k) := scanFold a op ((init.map fun e => FoldEl.val (el e.1)).getD .absent) ins
    (List.zipWith (fun (x : Option Nat) (f : Option Nat × Option Nat) => (x.isSome, f)) col fs, k)) ps inits
  let units := a.n / unitLanes a.fmt
  let out := (List.range units).flatMap fun j =>
    let cells := cols.map fun c => (c.1[j]?).getD (false, (none, none))
    let inOk := cells.all (·.1)
    let vals := cells.map fun c => if excl then (match c.2.1 with | some v => some v | none => exclIdent a op) else c.2.2
    let ok := if excl then (inOk || j == 0) && vals.all Option.isSome else inOk
    if ok then unitFrom a.fmt vals else noUnit a.fmt
  Res.both out (initCounts.add (Counts.sum (cols.map (·.2))))

/-! ### Width, masks and compaction (R163 to R165) -/

def resSplit (a : Args) : Res := { a := a.l.take (a.n / 2), b := a.l.drop (a.n / 2) }

/-- JOIN (R163). Its arrivals have the width below its span's; tokens of full width that WRNODE leaves at a node which it makes a JOIN (R232) are joined whole, whatever their
lengths: the spec gives no width fault at a firing (DESIGN CHOICE, log 83). -/
def resJoin (a : Args) : Res := Res.both (a.l ++ a.r)

def resVmaskSet (a : Args) : Res :=
  Res.both ((indexed a.l).map fun (j, l) =>
    let m := (a.r[j / 32]?).getD .none
    { l with ok := l.ok && m.ok && bitAt m.nat (j % 32) })

def resVmaskGet (a : Args) : Res :=
  let m := maskOf a.l
  Res.both ((List.range a.n).map fun j => if j < ceilDiv a.n 32 then Lane.some (fld m (32 * j + 31) (32 * j)) else .none)

def unitNonzero (u : List Lane) : Bool := unitNat u != 0

def resCompact (a : Args) : Res :=
  let us := (unitsOf a.fmt a.l).map normUnit
  let rs := (unitsOf a.fmt a.r).map normUnit
  let keep := (indexed us).filterMap fun (j, u) =>
    let r := (rs[j]?).getD []
    if unitOk u && (a.ary = Ary.l || (unitOk r && unitNonzero r)) then some u else none
  { a := keep.flatten ++ List.replicate (a.n - keep.flatten.length) Lane.none
    b := (Lane.some keep.length :: List.replicate (a.n - 1) Lane.none) }

/-- Takes the next unit for each chosen place. -/
def expandFrom (f : Fmt) : List Bool → List (List Lane) → List (List Lane)
  | [], _ => []
  | true :: ch, u :: us => u :: expandFrom f ch us
  | true :: ch, [] => noUnit f :: expandFrom f ch []
  | false :: ch, us => noUnit f :: expandFrom f ch us

def resExpand (a : Args) : Res :=
  let us := (unitsOf a.fmt a.l).map normUnit
  let ch := ((unitsOf a.fmt a.r).map normUnit).map fun r => unitOk r && unitNonzero r
  Res.both (expandFrom a.fmt ch us).flatten

end Sys2Proof.Machine
end

