-- ==== Sys2Proof/Machine/Operands.lean ====
section
/-! DEFINITION. Operand forms and the one shape of every firing: which tokens a node uses (R22 to R25), predicates and suppression (R91,
R92), what every firing is refused for (R52, R98, R111), tags and SEQ of results (R93, R95), and sending them (R99). -/

namespace Sys2Proof.Machine

/-- The tokens a firing uses, the ports whose ONCE token it consumes, its tag, the SEQ of its first ONCE operand, and the OR of the POI
bits (R24, R95, R98). -/
structure Opnds where
  l : Option Token
  r : Option Token
  c : Option Token
  p : Option Token
  once : List Port
  tag : Tag
  seq : BitVec 26
  poi : Bool
  deriving DecidableEq, Repr

def Opnds.at (o : Opnds) (q : Port) : Option Token := match q with | .l => o.l | .r => o.r | .c => o.c | .p => o.p

/-- A token held at a node's port that is not parked, in the store or spilled from it. -/
def heldFor (key node : Nat) (q : Port) (e : Entry) : Bool :=
  !e.parked && e.role == .plain && e.tok.dest.key == key && e.tok.dest.node == node && e.tok.dest.port == q

/-- It is in the matching store, or the spill engine has returned it. -/
def Entry.inStore (e : Entry) : Bool := e.place == .store || e.place == .returned

/-- A live token held at a node's port. -/
def liveAt (key node : Nat) (q : Port) (e : Entry) : Bool := e.inStore && heldFor key node q e

/-- A ONCE token of a tag, and the sticky token of its frame, at a port (R23, R24). -/
def isOnce (key node : Nat) (q : Port) (t : Tag) (e : Entry) : Bool := heldFor key node q e && e.tok.ma == .once && e.tok.tag == t
def isSticky (key node : Nat) (q : Port) (t : Tag) (e : Entry) : Bool :=
  heldFor key node q e && e.tok.ma == .sticky && e.tok.tag.frame == t.frame && e.tok.tag.cid == t.cid

/-- The sticky value of before a replacement or purge that a firing of a tag uses, being ready then (R25). -/
def isOld (key node : Nat) (q : Port) (t : Tag) (e : Entry) : Bool :=
  !e.parked && e.role == .old t && e.tok.dest.key == key && e.tok.dest.node == node && e.tok.dest.port == q

/-- The entry that a firing of a tag uses at a port, stored or spilled: the ONCE token of the tag that arrived first (R24, R102), the old sticky
value kept for it (R25), or the sticky slot. -/
def pickAt (p : Page) (key node : Nat) (q : Port) (t : Tag) : Option Entry :=
  match p.toks.find? (isOnce key node q t) with
  | some e => some e
  | none => match p.toks.find? (isOld key node q t) with
    | some e => some e
    | none => p.toks.find? (isSticky key node q t)

/-- The ONCE token of a tag that arrived first at a port, where it is in the store (R24, R102). -/
def onceAt (p : Page) (key node : Nat) (q : Port) (t : Tag) : Option Token :=
  (p.toks.find? (isOnce key node q t)).bind fun e => if e.inStore then some e.tok else none

/-- The operand of a tag at a port: a spilled one has first to come back, so that matching is the same whether a token is stored or spilled
(R27). -/
def operandAt (p : Page) (key node : Nat) (q : Port) (t : Tag) : Option Token :=
  (pickAt p key node q t).bind fun e => if e.inStore then some e.tok else none

/-- The operand set of a firing: every required port holds a token, at least one of them ONCE (R22). -/
def operandsOf (d : Dev) (f : Focus) (ports : List Port) : Option Opnds :=
  let p := d.page (pageOfFe f.span)
  let at_ := fun q : Port => if ports.contains q then operandAt p f.span f.node q f.tag else none
  let once := [Port.l, .r, .c, .p].filter fun q => ports.contains q && (onceAt p f.span f.node q f.tag).isSome
  if ports.all (fun q => (at_ q).isSome) then
    match once with
    | [] => none
    | q :: _ =>
      let used := [Port.l, .r, .c, .p].filterMap at_
      some ⟨at_ .l, at_ .r, at_ .c, at_ .p, once, f.tag, ((at_ q).map (·.seq)).getD 0, used.any (·.poi)⟩
  else none

/-- Removes the first entry that satisfies a test. -/
def removeFirst {α : Type} (t : α → Bool) : List α → List α
  | [] => []
  | a :: l => if t a then l else a :: removeFirst t l

/-- A firing consumes its ONCE operands (R23), and the old sticky values that were kept for it (R25). -/
def consume (d : Dev) (f : Focus) (o : Opnds) : Dev :=
  d.modPage (pageOfFe f.span) fun p =>
    let rest := o.once.foldl (fun ts q => removeFirst (isOnce f.span f.node q f.tag) ts) p.toks
    { p with toks := [Port.l, .r, .c, .p].foldl (fun ts q => if (o.at q).isSome && !o.once.contains q then removeFirst (isOld f.span f.node q f.tag) ts else ts) rest }

/-- A P token is true when lane 0 is valid and nonzero (R91). -/
def laneTrue (l : Lane) : Bool := l.ok && l.val != 0
def tokTrue (t : Token) : Bool := ((t.payload[0]?).map laneTrue).getD false

/-- A firing that may go ahead: its site, record, operands, resolved destinations, lane count and context. -/
structure Fire where
  f : Focus
  n : NodeRec
  o : Opnds
  a : Option Dest
  b : Option Dest
  lanes : Nat
  cid : Nat
  deriving DecidableEq, Repr

def Fire.key (x : Fire) : Nat := x.f.span
def Fire.pg (x : Fire) : Nat := pageOfFe x.f.span
def Fire.dests (x : Fire) : List Dest := [x.a, x.b].filterMap id
def Fire.lit (x : Fire) : Nat := x.n.lit.toNat
def Fire.lPay (x : Fire) : Payload := (x.o.l.map (·.payload)).getD []
def Fire.rPay (x : Fire) : Payload := (x.o.r.map (·.payload)).getD []
def Fire.cPay (x : Fire) : Payload := (x.o.c.map (·.payload)).getD []

/-- An n64 value in lanes `j` and `j + 1`; none where either is invalid. -/
def lane64? (p : Payload) (j : Nat) : Option Nat :=
  let a := laneOf p j
  let b := laneOf p (j + 1)
  if a.ok && b.ok then some (a.nat + b.nat * 2 ^ 32) else none

def lane32? (p : Payload) (j : Nat) : Option Nat := let a := laneOf p j; if a.ok then some a.nat else none

/-- The first operand's header, as a fault at a firing names it. -/
def Fire.hdr (x : Fire) : Nat := (([Port.l, .r, .c, .p].findSome? x.o.at).map Token.header).getD 0

/-- A fault raised at a firing: it acts on the firing's frame, and the operands stay held and are parked with it (R38, R111). -/
def fireFault (x : Fire) (code : FCode) (d : Dev) (addr : Nat := 0) (sub : Nat := 0) (aux : Nat := 0) : Dev :=
  takeFault d x.cid (some x.f.tag.frame) code
    { hdr := x.hdr, loc := locOf d x.f.span x.f.node none, addr, sub, aux }

/-- What an instruction adds to the shape of a firing: a third destination, whether it waits, whether it emits, what it faults for (with the address that its record gives and what else the fault leaves), and
what it does once its operands are consumed. -/
structure Plan where
  ports : List Port
  extra : List Dst := []
  waits : Fire → Dev → Bool := fun _ _ => false
  emits : Fire → Dev → Bool := fun _ _ => true
  check : Fire → Dev → Option FCode := fun _ _ => none
  addr : Fire → Dev → Nat := fun _ _ => 0
  onFault : Fire → Dev → Dev := fun _ d => d
  suppressed : Option (Fire → Dev → Dev) := none
  act : Fire → Dev → Dev

/-- Whether a predicate suppresses a firing (R91, R92). -/
def suppresses (n : NodeRec) (o : Opnds) : Bool :=
  match n.prd with
  | .t => !((o.p.map tokTrue).getD false)
  | .f => (o.p.map tokTrue).getD false
  | _ => false

/-- The stream that a memory node's literal names: an SBAR of one stream among them (R206, R216, R223, R229). -/
def streamOf (i : Instr) (n : NodeRec) : Option Nat :=
  match i with
  | .ld _ | .st _ | .ldg _ | .stg _ | .atom _ | .cas _ | .atomf _ | .atoms _ | .ldp _ | .stp _ | .pref _ => some (fld n.lit.toNat 7 0)
  | .sbar _ => if n.ary == .l && !bitAt n.lit.toNat 11 then some (fld n.lit.toNat 7 0) else none
  | _ => none

/-- A stream of a page (R115, R207). -/
def streamDef (p : Page) (s : Nat) : Option StreamDef := p.streams.find? (·.id == s)

/-- The kind of gateway that an engine node's GW must name (R242, R270). -/
def gatewayKind (i : Instr) : Option IsleKind :=
  match i with
  | .mtaskRun _ | .mtaskDef _ | .mtaskGo _ | .mzero _ | .mdrainTok _ | .mdrainMem _ | .mdrainRoute _ | .mwload _ | .mtrayCfg _ | .mtrayPush _
  | .mtrayFlush _ | .mwait _ | .mscale _ | .mconv _ | .mstat _ => some .hearth
  | .route _ | .exdirBase _ | .exdirWrite _ | .exdirInval _ => some .sifter
  | .combCfg _ | .combSync _ | .combStat _ => some .rack
  | .pcopy _ | .pgath _ | .pscat _ | .pfill _ | .pdec _ => some .peel
  | .coll _ | .rlinv _ => some .coll
  | .migr _ | .mpin _ | .mpinOff _ | .mrdupSys _ | .mrdupMod _ | .mhint _ => some .leaven
  | .bgate _ | .bswap _ | .bdiag _ | .bprobNorm _ | .bprobMarg _ | .bprobSamp _ => some .braid
  | _ => none

/-- GW and IX of a record name an island that its load binds (R242, R271). -/
def gatewayOk (gws : List (IsleKind × Nat)) (i : Instr) (lit : Nat) : Bool :=
  match gatewayKind i with
  | none => true
  | some k => match gws[fld lit 4 0]? with
    | some g => g.1 == k && decide (fld lit 10 5 < g.2)
    | none => false

/-- What a record names exists where it is: its stream is declared for its page, and its gateway and index are those of an island that the load binds
(R207, R242, R271). -/
def namesOk (i : Instr) (n : NodeRec) (d : Dev) (pg cid : Nat) : Bool :=
  (match streamOf i n with | some id => (streamDef (d.page pg) id).isSome | none => true)
  && gatewayOk ((((d.graph cid).load.map (·.gws)).getD []).map fun g => (g.kind, g.count)) i n.lit.toNat

/-- Named destinations: a node is ready only when all of them have queue space (R22, R99, R170). -/
def named (l : List Dst) : Nat := (l.filter (· != .none)).length

/-- The destinations of a record, resolved; SPANF where one leads nowhere (R111). -/
def resolveBoth (d : Dev) (key : Nat) (n : NodeRec) : Except FCode (Option Dest × Option Dest) :=
  match resolveDst d key n.dsta, resolveDst d key n.dstb with
  | .ok a, .ok b => .ok (a, b)
  | .error e, _ => .error e
  | _, .error e => .error e

/-- A sticky token that the spill engine returned for a firing goes back to it (R376). -/
def respill (e : Entry) : Entry := if e.place == .returned && e.role == .plain && e.tok.ma == .sticky then { e with place := .vc1 } else e

/-- Consumes the operands and counts the firing. -/
def begin_ (d : Dev) (f : Focus) (o : Opnds) : Dev :=
  markFired ((consume d f o).modPage (pageOfFe f.span) fun p =>
    { p with toks := p.toks.map fun e => if e.tok.dest.key == f.span && e.tok.dest.node == f.node then respill e else e }) f.span

/-- The destination check of a firing that emits (R111): ILLOP for a reserved offset or a nameless code with other fields, SPANF for a place
where the load has no anchor. A firing that emits nothing is not checked, and its destinations are not used. -/
def destCheck (d : Dev) (key : Nat) (n : NodeRec) (emits : Bool) : Except FCode (Option Dest × Option Dest) :=
  if !emits then (match resolveBoth d key n with | .ok r => .ok r | .error _ => .ok (none, none))
  else if (orCause (dstCause n.dsta) (dstCause n.dstb)).isSome then .error .illop
  else resolveBoth d key n

/-- The one shape of a firing. Where the node is not ready (R22) or has to wait, the machine stays as it is. Once it is ready its record is checked
(R111, R207, R242, R271), then its privilege (R52) and its predicate (R91, R92), and, when it emits, its destinations (R111). -/
def fire (i : Instr) (n : NodeRec) (pl : Plan) (d : Dev) : Dev :=
  let f := d.focus
  let s := d.span f.span
  match d.cidOf (pageOfFe f.span) with
  | none => d
  | some cid =>
    if !runs (d.graph cid) then d else
    match operandsOf d f pl.ports with
    | none => d
    | some o =>
      let x : Fire := ⟨f, n, o, none, none, lanesOf s.wid, cid⟩
      if !hasSpace d f.span (named (n.dsta :: n.dstb :: pl.extra)) then d
      else if (fieldCause i n (lanesOf s.wid)).isSome || !namesOk i n d (pageOfFe f.span) cid then fireFault x .illop d
      else if privileged i && !(d.ctx cid).priv then fireFault x .priv d
      else if ((o.p.map (·.poi)).getD false) then fireFault x .poisonc d
      else if suppresses n o then (match pl.suppressed with | some g => g x d | none => begin_ d f o)
      else if pl.waits x d then d
      else match destCheck d f.span n (pl.emits x d) with
        | .error e => fireFault x e d
        | .ok (a, b) =>
          let x := { x with a := a, b := b }
          match pl.check x d with
            | some e => fireFault x e (pl.onFault x d) (pl.addr x d)
            | none => pl.act x (begin_ d f o)

/-! ### Results -/

/-- The tag of emitted tokens (R93); FNEW and FRET are given by FCALL and FRETN themselves. -/
def emitTag (n : NodeRec) (t : Tag) : Tag :=
  match n.tga with
  | .inc => { t with iter := t.iter + 1 }
  | .dec => { t with iter := t.iter - 1 }
  | .zero => { t with iter := 0 }
  | .liti => { t with iter := n.lit.setWidth 16 }
  | _ => t

/-- The SEQ of emitted tokens (R95, R96): a sequence source counts the firings that emit. -/
def takeSeq (x : Fire) (d : Dev) : BitVec 26 × Dev :=
  if x.n.seq then
    let s := (d.span x.key).seqs.getD x.f.node 0
    (s, d.modSpan x.key fun sp => { sp with seqs := sp.seqs.set x.f.node (s + 1) })
  else (x.o.seq, d)

/-- The token a firing emits, but for its destination. -/
def mkTok (x : Fire) (seq : BitVec 26) (cls : Cls) (lvl : BitVec 3) (p : Payload) : Token :=
  { tag := emitTag x.n x.f.tag, seq, ma := .once, poi := x.o.poi, cls, lvl, payload := p, dest := ⟨0, 0, 0, 0, .l⟩ }

/-- A firing emits: with PRD 3 the result goes to DSTA only when P is true and to DSTB only when P is false (R91, R99). -/
def emit2 (x : Fire) (d : Dev) (ka kb : Cls) (lvl : BitVec 3) (pa pb : Payload) : Dev :=
  let t := (x.o.p.map tokTrue).getD false
  let toA := match x.n.prd with | .steer => if t then x.a else none | _ => x.a
  let toB := match x.n.prd with | .steer => if t then none else x.b | _ => x.b
  if toA.isNone && toB.isNone then d
  else
    let (s, d) := takeSeq x d
    let d := sendAll d (.span x.key) (mkTok x s ka lvl pa) toA.toList
    sendAll d (.span x.key) (mkTok x s kb lvl pb) toB.toList

/-- Tokens of one firing to chosen destinations, with one SEQ: class, LVL, match action and payload of each. -/
def emitEach (x : Fire) (d : Dev) (l : List (Option Dest × Cls × BitVec 3 × Ma × Payload)) : Dev :=
  if l.all (fun e => e.1.isNone) then d
  else
    let (s, d) := takeSeq x d
    l.foldl (fun d e => sendAll d (.span x.key) { mkTok x s e.2.1 e.2.2.1 e.2.2.2.2 with ma := e.2.2.2.1 } e.1.toList) d

/-- L unchanged, its class and LVL too, to both destinations (R167, R170). -/
def emitL (x : Fire) (d : Dev) (ma : Ma := .once) : Dev :=
  let k := (x.o.l.map (·.cls)).getD .data
  let v := (x.o.l.map (·.lvl)).getD 0
  emitEach x d [(x.a, k, v, ma, x.lPay), (x.b, k, v, ma, x.lPay)]

/-- The same data token to both destinations. -/
def emitData (x : Fire) (p : Payload) (d : Dev) : Dev := emit2 x d .data .data 0 p p

/-- A payload whose first lanes are given and whose other lanes are invalid. -/
def lanesThen (n : Nat) (vs : List Nat) : Payload := (vs.map Lane.some ++ List.replicate n Lane.none).take n

/-- The outcome of a step that acts on the package. -/
abbrev Out := Host.Outcome State Fault Refusal

def lift (f : Dev → Dev) (s : State) : Out := .next { s with dev := f s.dev }

/-! ### Arithmetic firings -/

def argsOf (x : Fire) (ftz : Bool) : Args :=
  { fmt := x.n.fmt, ary := x.n.ary, lit := x.lit, n := x.lanes, ftz, l := x.lPay
    r := match x.o.r with
      | some t => t.payload
      | none => if x.n.ary = Ary.lit then litPayload x.n.fmt x.lanes x.lit else []
    c := x.cPay, tag := x.f.tag, seq := (x.o.l.map (·.seq)).getD 0
    cls := (x.o.l.map (·.cls)).getD .data, lvl := (x.o.l.map (·.lvl)).getD 0 }

/-- An arithmetic instruction: its result is a function of its operands, and its counts go to the span's count set (R123 to R130). -/
def arith (i : Instr) (n : NodeRec) (res : Args → Res) (d : Dev) : Dev :=
  fire i n
    { ports := portsOf i n
      act := fun x d =>
        let r := res (argsOf x (d.page x.pg).ftz)
        addCounts (emit2 x d r.clsA r.clsB r.lvl r.a r.b) x.key r.counts } d

end Sys2Proof.Machine
end

