-- ==== Sys2Proof/Machine/Ports.lean ====
section
/-! DEFINITION. Memory ports: arrival and acceptance of accesses, their translation and faults, cache banks, and their performance part by part
(R208, R209, R213 to R215, R219, R222, R224 to R226, R230, R234, R300 to R318, R328, R335, R362, R363, R460, R467, R468, R470). -/

namespace Sys2Proof.Machine

/-! ### When accesses are performed (R305) -/

/-- The write of an identifier is performed at a scope of a party; a write that has had its place and is no longer logged is performed at SYS. -/
def wDone (m : Mem) (p : Party) (sc : Scope) (w : Nat) : Bool :=
  match m.wlog.find? (·.id == w) with
  | none => !waitsPlace m w
  | some e => e.covers p sc

def elDone (m : Mem) (p : Party) (sc : Scope) (e : Elem) : Bool :=
  match e.st with
  | .todo => false
  | .read rs => rs.all (wDone m p sc)
  | .wrote ws => ws.all (wDone m p sc)
  | .both rs ws => rs.all (wDone m p sc) && ws.all (wDone m p sc)

def Access.party (a : Access) : Party := .span a.span

/-- An access is performed at a scope. -/
def Access.perfAt (d : Dev) (a : Access) (sc : Scope) : Bool := a.acc.isSome && a.els.all (elDone d.mem a.party sc)

/-- The access of an identifier on a page is performed at a scope; one no longer held is performed at SYS. -/
def accDone (d : Dev) (pg : Nat) (sc : Scope) (i : Nat) : Bool :=
  match (d.page pg).accs.find? (·.id == i) with
  | none => true
  | some a => a.perfAt d sc

def isWrite (k : AccKind) : Bool := match k with | .store | .atom | .cas | .sts => true | _ => false
def isRead (k : AccKind) : Bool := match k with | .load | .atom | .cas | .lds => true | _ => false
def isAtomic (k : AccKind) : Bool := match k with | .atom | .cas => true | _ => false

/-- The code of the fault that holds an access. -/
def holdCode (d : Dev) (a : Access) : Option FCode :=
  a.fault.bind fun f => ((d.graph a.cid).faults.find? (·.fid == f)).map (·.code)

/-- An access holds its port (R233): a POISONC held for its operands holds none. -/
def holdsPort (d : Dev) (a : Access) : Bool := match holdCode d a with | some .poisonc => false | some _ => true | none => false

/-- Accepted before `b`. -/
def before (a b : Access) : Bool := match a.acc, b.acc with | some x, some y => decide (x < y) | some _, none => true | _, _ => false

/-- Elements of two accesses overlap by physical bytes; where one has no translation, by virtual ones, which an access by PA has none of (R234, R309). -/
def overlap (a b : Access) (e f : Elem) : Bool :=
  match e.pa, f.pa with
  | some x, some y => decide (x < y + f.size) && decide (y < x + e.size)
  | _, _ => !a.phys && !b.phys && decide (e.va < f.va + f.size) && decide (f.va < e.va + e.size)

def sameStream (a b : Access) : Bool := a.port == b.port && (a.port != 5) && (if a.port < 4 then a.stream == b.stream else a.span == b.span && a.node == b.node)

/-- Where a send goes: the mailbox, the context, and the package where it names another. -/
def Access.box (a : Access) : Nat := (a.aux[0]?).getD 0
def Access.boxCid (a : Access) : Nat := (a.aux[1]?).getD 0
def Access.boxPkg (d : Dev) (a : Access) : Option Nat :=
  let p := (a.aux[2]?).getD 0
  if p ≠ 0 ∧ p - 1 ≠ d.pkg then some (p - 1) else none

/-- Two sends of one node go to one mailbox (R230). -/
def sameBox (d : Dev) (a b : Access) : Bool := a.box == b.box && a.boxCid == b.boxCid && a.boxPkg d == b.boxPkg d
def sameSend (d : Dev) (a b : Access) : Bool :=
  a.kind == .msend && b.kind == .msend && a.span == b.span && a.node == b.node && sameBox d a b

/-- Earlier accesses of the stream. -/
def earlier (p : Page) (b : Access) : List Access := p.accs.filter fun a => before a b && sameStream a b

/-- Accesses of the page accepted earlier that are acquires still short of their scope (R209). -/
def acquireHeld (d : Dev) (p : Page) (b : Access) : Bool := p.accs.any fun a => before a b && a.acq && !a.perfAt d a.scope

/-- An accepted acquire of the page is still short of its scope: what is accepted and performed at once waits for it (R209, R308). -/
def acquireOpen (d : Dev) (p : Page) : Bool := p.accs.any fun a => a.acc.isSome && a.acq && !a.perfAt d a.scope

/-- Stream order and a held stream let element `e` of `b` be read (R309, R234). -/
def mayRead (d : Dev) (p : Page) (b : Access) (e : Elem) : Bool :=
  let es := earlier p b
  let held := es.any (holdsPort d)
  es.all fun a => a.els.all fun f =>
    (if held && !overlap a b f e then true
     else if isRead a.kind && !(f.st != .todo) then false
     else true) &&
    (!(isWrite a.kind && overlap a b f e) || (match f.st with
      | .wrote ws => ws.all fun w => (match d.mem.wlog.find? (·.id == w) with | none => true | some x => x.sees b.party)
      | .both _ ws => ws.all fun w => (match d.mem.wlog.find? (·.id == w) with | none => true | some x => x.sees b.party)
      | .todo => false
      | .read _ => true))

/-- An earlier send of the node to the same mailbox is on its way (R230). -/
def sendBefore (d : Dev) (p : Page) (b : Access) : Bool :=
  p.accs.any fun a => before a b && sameSend d a b && a.els.any (·.st == .todo)

/-- Stream order and a held stream let element `e` of `b` be written: behind earlier accesses to the same bytes (R309); one that has stood in a commit queue
behind every earlier write of its stream (R234, R235), and one of the page store behind every earlier write of its node (R214). -/
def mayWrite (d : Dev) (p : Page) (b : Access) (e : Elem) : Bool :=
  let es := earlier p b
  !es.any (holdsPort d) && !(b.kind == .msend && sendBefore d p b)
  && es.all fun a => a.els.all fun f => !(overlap a b f e || (isWrite a.kind && (b.queued || decide (4 ≤ b.port)))) || f.st != .todo

/-- The stores that a held access keeps in its commit queue are marked: they drain in order once it is resolved (R235). -/
def queueHeld (d : Dev) (p : Page) : Page :=
  { p with accs := p.accs.map fun b => if isWrite b.kind && decide (b.port < 4) && (earlier p b).any (holdsPort d) then { b with queued := true } else b }

/-! ### Poison and containment -/

/-- A context under rollback containment that is not in an interval of poison (R353, R354). -/
def rollsBack (d : Dev) (cid : Nat) : Bool :=
  (d.ctx cid).contain && (match (d.hold cid).undo with | some u => !u.poison && u.cut.isSome && decide (u.tries < 4) | none => false)

/-- A read has met an error under rollback containment (R353). -/
def meetError (d : Dev) (cid : Nat) : Dev := d.modHold cid fun h => { h with undo := h.undo.map fun u => { u with hit := true } }

/-! ### Reading global memory by any party -/

/-- A read of a party of the package at a home key: memory by R304; a register window; or, outside the package, a free value (log 8). -/
def readKey (d : Dev) (q : Party) (a n : Nat) : (List Byte × Bool × List Nat) × Dev :=
  if a ≥ 2 ^ 52 then
    let (v, d) := freeNat (8 * n) (sendRequest d a)
    let (p, d) := freeNat 1 d
    ((bytesOf v n, decide (p = 1), []), d)
  else match regionOf d a with
    | .control => let (bs, d) := ctlRead d (a - 0x200000000000) n; ((bs, false, []), d)
    | .hostWin =>
      let (v, d) := freeNat (8 * n) d
      let (p, d) := freeNat 1 d
      ((bytesOf v n, decide (p = 1), []), d)
    | _ => (readEl d.mem q a n, d)

/-- What an atomic writes to the control aperture: a register takes a whole write by a host or a store only, so that it is dropped with an event; the recovery buffer takes it, and the debug
window takes it as a write (R475, R526). -/
def ctlAtomic (d : Dev) (o n v : Nat) : Dev :=
  if o < 0x800000 then (if isCtlReg (o / 8 * 8) then raiseEvent d 4 ⟨3, 8, 0, 0x200000000000 + o, 0⟩ else d)
  else if o < 0x1000000 then recoverStore d o (bytesOf v n)
  else { d with ctlq := d.ctlq ++ [⟨o, n, v⟩] }

/-! ### Cache banks (R213, R226, R315, R316) -/

def Bank.holds (b : Bank) (va : Nat) : Bool := decide (b.va ≤ va) && decide (va < b.va + b.size)

/-- The bank of a page that holds a VA, by its place in the list. -/
def bankAt (p : Page) (va : Nat) : Option Nat := firstIdx (fun b : Bank => b.holds va) p.banks

def lineOf (b : Bank) (va : Nat) : Nat := (va - b.va) / 64
def findLine (b : Bank) (ix : Nat) : Option BankLine := b.lines.find? (·.ix == ix)
def setLine (b : Bank) (l : BankLine) : Bank := { b with lines := b.lines.filter (·.ix != l.ix) ++ [l] }
def dropLine (b : Bank) (ix : Nat) : Bank := { b with lines := b.lines.filter (·.ix != ix) }
def modBank (d : Dev) (pg k : Nat) (f : Bank → Bank) : Dev := d.modPage pg fun p => { p with banks := modNth f k p.banks }

/-- Write back a dirty line: each written granule is one write element at its home, which every span of the page can return from then on (R316), and the line's value of the
granule is that write's (R305). A line whose
leaf cannot be written stays as it is (log 9). The identifiers of the writes are returned, and kept for a later FLUSH (R318). -/
def writeBack (d : Dev) (pg k ix cid span : Nat) : List Nat × Dev :=
  match (d.page pg).banks[k]? with
  | none => ([], d)
  | some b =>
    match findLine b ix with
    | some l =>
      if !l.dirty then ([], d)
      else match walk d cid (b.va + 64 * ix) with
        | .error _ => ([], d)
        | .ok lf =>
          if lf.state == 4 then ([], modBank d pg k fun b => setLine b { l with dirty := false, written := 0 })
          else if (leafCheck lf .wr).isSome then ([], d)
          else
            let (ws, d) := ((List.range 16).filter (bitAt l.written ·)).foldl (fun (acc : List Nat × Dev) g =>
              let p := acc.2.page pg
              let o := b.off + 64 * ix + 4 * g
              let key := homeKey acc.2 (lf.pa (b.va + 64 * ix + 4 * g))
              let (i, d) := applyHome acc.2 cid (.span span) key (p.bytes o 4) (poiOf (p.poisoned o 4) key 4) false (some .page)
              (acc.1 ++ [i], countHot d key)) ([], d)
            let d := d.modPage pg fun p =>
              { p with wbacks := (p.wbacks.filter fun w => d.mem.wlog.any (·.id == w.2)) ++ ws.map fun w => (b.va + 64 * ix, w) }
            let through := ((List.range 16).filter (bitAt l.written ·)).zip ws
            (ws, modBank d pg k fun b => setLine b { l with dirty := false, written := 0, source := l.source ++ through })
    | none => ([], d)

/-- A line holds data that could not be written back. -/
def stillDirty (d : Dev) (pg k ix : Nat) : Bool := ((d.page pg).banks[k]?).any fun b => (findLine b ix).any (·.dirty)

/-- Fill a line: sixteen reads of the binding page's party (R312, R315). -/
def fillLine (d : Dev) (pg k ix span : Nat) (lf : Leaf) : Dev :=
  match (d.page pg).banks[k]? with
  | none => d
  | some b =>
    let (rs, d) := (List.range 16).foldl (fun (acc : List (Nat × Nat) × Dev) g =>
      let d := acc.2
      let va := b.va + 64 * ix + 4 * g
      let (r, d) := readKey d (.span span) (homeKey d (lf.pa va)) 4
      let d := logStore d (((d.page pg).cid.map BitVec.toNat).getD 0) pg (b.off + 64 * ix + 4 * g) 4
      (acc.1 ++ r.2.2.map fun w => (g, w), countHot (d.modPage pg fun p => p.write (b.off + 64 * ix + 4 * g) r.1 r.2.1) (homeKey d (lf.pa va)))) ([], d)
    modBank d pg k fun b => setLine b ⟨ix, false, 0, rs⟩

/-- The leaf of a VA at the moment a line is filled. -/
def leafNow (d : Dev) (cid va : Nat) : Option Leaf := match walk d cid va with | .ok l => some l | .error _ => none

/-- Make the line of a VA valid; an acquire writes it back and refills it. -/
def readyLine (d : Dev) (pg k va cid span : Nat) (acq : Bool) : Dev :=
  match (d.page pg).banks[k]? with
  | none => d
  | some b =>
    let ix := lineOf b va
    let d := if acq then (let d := (writeBack d pg k ix cid span).2; if stillDirty d pg k ix then d else modBank d pg k (dropLine · ix)) else d
    match (d.page pg).banks[k]? with
    | none => d
    | some b =>
      if (findLine b ix).isSome then d
      else match leafNow d cid (b.va + 64 * ix) with
        | some lf => fillLine d pg k ix span lf
        | none => d

/-- The writes whose values the granules of a VA run in a line are. -/
def BankLine.writes (l : BankLine) (b : Bank) (va n : Nat) : List Nat :=
  ((l.source.filter fun s => (granules ((va - b.va) % 64) n).contains (4 * s.1)).map (·.2)).dedup

/-- Read through a bank; the value is the page's own, or one that the fill returned (R305, R315). -/
def bankRead (d : Dev) (pg k va n cid span : Nat) (acq : Bool) : (List Byte × Bool × List Nat) × Dev :=
  let d := readyLine d pg k va cid span acq
  match (d.page pg).banks[k]? with
  | none => ((List.replicate n 0, false, []), d)
  | some b =>
    let o := b.off + (va - b.va)
    (((d.page pg).bytes o n, (d.page pg).poisoned o n, ((findLine b (lineOf b va)).map fun l => l.writes b va n).getD []), d)

/-- Store into a bank's line; a store at ELEM or PAGE marks it dirty. Its granules hold the value of the write that goes through to memory, where one
does. -/
def bankWrite (d : Dev) (pg k va cid span : Nat) (bs : List Byte) (poi dirty : Bool) (through : Option Nat) : Dev :=
  let d := readyLine d pg k va cid span false
  match (d.page pg).banks[k]? with
  | none => d
  | some b =>
    let o := b.off + (va - b.va)
    let ix := lineOf b va
    let d := logStore d cid pg o bs.length
    let d := d.modPage pg fun p => p.write o bs poi
    modBank d pg k fun b => match findLine b ix with
      | some l =>
        let gs := (granules ((va - b.va) % 64) bs.length).map (· / 4)
        setLine b { l with dirty := l.dirty || dirty, written := gs.foldl (fun m g => m ||| 2 ^ g) l.written
                           source := l.source.filter (fun s => !gs.contains s.1) ++ through.toList.flatMap fun w => gs.map fun g => (g, w) }
      | none => b

/-- Write back and drop the line of a VA in any bank of the page (R219). -/
def evictLine (d : Dev) (pg va cid span : Nat) : Dev :=
  match bankAt (d.page pg) va with
  | none => d
  | some k => match (d.page pg).banks[k]? with
    | none => d
    | some b => modBank (writeBack d pg k (lineOf b va) cid span).2 pg k (dropLine · (lineOf b va))

/-! ### Acceptance (R208, R209, R215, R224, R334, R335, R362, R363) -/

/-- Shoot-downs, switching migrations and remapped rows that hold an access (R334, R337, R481). -/
def shootHolds (d : Dev) (cid va n : Nat) : Bool :=
  d.leaven.shoots.any fun s => s.cid == cid && (match s.size with | none => true | some k => decide (va < s.va + k) && decide (s.va < va + n))

def migrHolds (d : Dev) (cid va n : Nat) : Bool :=
  d.leaven.migrs.any fun m => m.cid == cid && decide (va < m.va + m.size) && decide (m.va < va + n)
    && (m.phase == .switch || m.phase == .finish)

/-- What an access asks of its leaves. -/
def wantOf (k : AccKind) : Want := match k with | .store => .wr | .atom | .cas => .at | _ => .rd

/-- The check of a leaf at acceptance, a leaf that moves while RDUP included. -/
def leafFault (d : Dev) (cid : Nat) (l : Leaf) (w : Want) : Option FCode :=
  match leafCheck l w with
  | some e => some e
  | none => if w != .rd && movingDup d cid l then some .wpf else none

/-- Of atomics only ATOM `.add` and `.swap` and CAS reach the host window, and only while the root port has enabled AtomicOp requests; an ATOMS is marked in `aux` (R468). -/
def hostAtomicOk (d : Dev) (a : Access) : Bool := d.host.atomicOp && (a.kind == .cas || ((a.op == 0 || a.op == 6) && a.aux.isEmpty))

/-- What the target of a physical address answers before data moves: a fault, or fine (R328, R461, R467 to R470). -/
def targetFault (d : Dev) (cid pa : Nat) (a : Access) : Option FCode × Dev :=
  let sys := (d.ctx cid).priv
  match regionPa d pa with
  | none =>
    if !routed d (pkgOf pa) then (some .linkf, d)
    else
      -- the other package decides (R461)
      let (v, d) := freeNat 1 d
      (remoteCause sys (decide (v = 1)) pa, d)
  | some r => match r with
    | .hole => (some .permf, raiseEvent d 4 ⟨3, 10, 0, localOf pa, 0⟩)
    | .control => (if sys then none else some .permf, if sys then d else raiseEvent d 4 ⟨3, 10, 0, localOf pa, 0⟩)
    | .hostWin =>
      if isAtomic a.kind && !hostAtomicOk d a then (some .permf, d)
      else
        -- the root complex may refuse what is not posted (R468)
        if isRead a.kind then (let (v, d) := freeNat 1 d; (if v = 1 then some .permf else none, d)) else (none, d)
    | .cxl k => (if ((d.mem.cxl[k]?).map (·.1)).getD false then none else some .linkf, d)
    | _ => (none, d)

/-- A range of PA is pinned with a right (R222). -/
def pinned (d : Dev) (cid pa n : Nat) (w : Bool) : Bool :=
  (List.range ((pa + n + 65535) / 65536 - pa / 65536)).all fun k =>
    let lo := max pa ((pa / 65536 + k) * 65536)
    (d.hold cid).pins.any fun p => decide (p.pa ≤ lo) && decide (min (pa + n) ((pa / 65536 + k + 1) * 65536) ≤ p.pa + p.size)
      && (if w then p.w else p.r)

/-- Translate one element of an access. -/
def transEl (pg : Nat) (a : Access) (evict : Bool) (e : Elem) (d : Dev) : Except (FCode × Nat) Elem × Dev :=
  if a.phys then
    if e.va ≥ 2 ^ 62 || !pinned d a.cid e.va e.size (a.kind == .store) then (.error (.permf, e.va), d)
    else match targetFault d a.cid e.va a with
      | (some c, d) => (.error (c, e.va), d)
      | (none, d) => (.ok { e with pa := some (homeKey d e.va) }, d)
  else match translate d pg a.cid e.va evict with
    | (.error c, d) => (.error (c, e.va), d)
    | (.ok l, d) =>
      match leafFault d a.cid l (wantOf a.kind) with
      | some c => (.error (c, e.va), d)
      | none =>
        if l.state == 4 then
          (.ok { e with pa := none, got := 0, gpoi := true, st := if a.kind == .store then .wrote [] else .read [] }, d)
        else match targetFault d a.cid (l.pa e.va) a with
          | (some c, d) => (.error (c, e.va), d)
          | (none, d) =>
            let bank := (a.kind == .load || a.kind == .store) && !a.nob && !pteNc l.bits && (bankAt (d.page pg) e.va).isSome
            (.ok { e with pa := some (homeKey d (l.pa e.va)), bank := bank }, d)

/-- Every byte of an LDP or STP's run lies in pinned mappings, that of an absent granule too (R222): the first address that does not. -/
def physFault (d : Dev) (a : Access) : Option Nat :=
  match a.phys, a.aux with
  | true, [_, va, n] =>
    let g := if fmtBits a.fmt = 64 then 8 else 4
    ((List.range (n / g)).map fun k => va + g * k).find? fun x => decide (x ≥ 2 ^ 62) || !pinned d a.cid x g (a.kind == .store)
  | _, _ => none

/-- Translate every element of an access: all of them, or the first fault. -/
def transAll (pg : Nat) (a : Access) (evict : Bool) (d : Dev) : Except (FCode × Nat) (List Elem) × Dev :=
  match physFault d a with
  | some x => (.error (.permf, x), d)
  | none => a.els.foldl (fun (acc : Except (FCode × Nat) (List Elem) × Dev) e =>
    match acc.1 with
    | .error x => (.error x, acc.2)
    | .ok es => match transEl pg a evict e acc.2 with
      | (.error x, d) => (.error x, d)
      | (.ok e, d) => (.ok (es ++ [e]), d)) (.ok [], d)

/-- The physical bytes of an element of a held access: overlap is judged by them (R234). -/
def heldEl (d : Dev) (pg : Nat) (a : Access) (e : Elem) : Elem :=
  if a.phys then { e with pa := some (homeKey d e.va) }
  else match (translate d pg a.cid e.va false).1 with
    | .ok l => { e with pa := some (homeKey d (l.pa e.va)) }
    | .error _ => { e with pa := none }

/-- The elements of a held access: one whose translation has failed reaches no physical byte (R234). -/
def heldEls (d : Dev) (pg : Nat) (a : Access) (code : FCode) : List Elem :=
  a.els.map fun e => if code = .xlatf then { e with pa := none } else heldEl d pg a e

/-- Some leaf of the access is in a state that holds it at the port: COLL for writes and atomics, or a hold of its range (R335). -/
def heldAtPort (d : Dev) (pg : Nat) (a : Access) : Bool :=
  !a.phys && a.els.any fun e =>
    shootHolds d a.cid e.va e.size || migrHolds d a.cid e.va e.size ||
    (isWrite a.kind && (match ((d.page pg).tlb ++ tlb2Of d.mem (pg / 80)).find? (·.covers a.cid e.va) with
      | some t => t.leaf.state == 3
      | none => match walk d a.cid e.va with | .ok l => l.state == 3 | .error _ => false))

/-- Rows and lines that are being copied to a spare hold accesses (R481). -/
def remapHolds (d : Dev) (a : Access) : Bool :=
  a.els.any fun e => (List.range 4).any fun k => (d.die k).remaps.any fun r =>
    match a.kind with
    | .lds | .sts =>
      r.src == 3 && r.idx == pageOfFe a.span % 80 && k == pageOfFe a.span / 80 && decide (r.unit ≤ (e.va + e.size - 1) / 64) && decide (e.va / 64 ≤ r.unit)
    | _ =>
      let row := fun pa : Nat => decide (r.src ≤ 1) && isLocal d pa && decide (localOf pa / 8192 = r.unit)
      if a.phys then row e.va else match walk d a.cid e.va with | .ok l => row (l.pa e.va) | .error _ => false

def setAcc (d : Dev) (pg : Nat) (a : Access) : Dev :=
  d.modPage pg fun p => { p with accs := p.accs.map fun x => if x.id == a.id then a else x }

/-- A held access's fault (R233, R234): the record names the port, the stream and the address. Of the message port it names port 1 and stream 0: the
spec gives that port no number (DESIGN CHOICE, log 77). -/
def portFault (d : Dev) (pg : Nat) (a : Access) (code : FCode) (addr : Nat) : Dev :=
  let fid := (d.graph a.cid).nextFid
  let d := takeFault d a.cid (some a.tok.tag.frame) code
    { port := code != .poisonc, hdr := a.tok.header, loc := locOf d a.span a.node none, addr, src := a.port % 4 + a.stream * 4 }
  setAcc d pg { a with fault := some fid }

/-- Cycles for which an access holds its port's data path (R362). -/
def pathCycles (a : Access) : Nat :=
  let lines := ((a.els.map fun e => e.va / 64).dedup).length
  max 1 (match a.kind with
    | .load | .store => if a.aux.head? == some 1 then lines else ceilDiv (a.els.map (·.size)).sum 64
    | _ => 1)

/-! ### Messages (R230, R322) -/

/-- Why a send is refused (R230): no route, a context that is FREE, another JOBID, or the other package's refusal (log 8). -/
def sendCause (d : Dev) (a : Access) : Option FCode :=
  match a.boxPkg d with
  | some p => if !routed d p then some .linkf else if (Config.freeBits 1 d.tick) == 1#1 then some .permf else none
  | none =>
    if (d.graph a.boxCid).st == .free then some .permf
    else if !(d.ctx a.cid).priv && (d.ctx a.boxCid).jobid ≠ (d.ctx a.cid).jobid then some .permf else none

/-- The mailbox of a send is full: the send stays unaccepted (R230). -/
def boxFull (d : Dev) (a : Access) : Bool :=
  (a.boxPkg d).isNone && (sendCause d a).isNone && decide (((d.hold a.boxCid).mail.getD a.box []).length ≥ 64)

/-- An accepted send enters its mailbox; one to another package is on its way until a port is up (R230, R459). -/
def sendMsg (d : Dev) (pg : Nat) (a : Access) : Dev :=
  match a.boxPkg d with
  | some p => setAcc (sendFlit { d with tick := d.tick + 1 } vcReq p) pg { a with fault := none, retry := false, els := a.els.map fun e => { e with pa := some ((p + 1) * 2 ^ 52) } }
  | none =>
    setAcc (d.modHold a.boxCid fun h => { h with mail := h.mail.set a.box (h.mail.getD a.box [] ++ [⟨a.tok.payload.take 8, a.tok.poi⟩]) }) pg
      { a with fault := none, retry := false, els := a.els.map fun e => { e with st := .wrote [] } }

/-- The access may be accepted now, its translation apart. -/
def canAccept (d : Dev) (pg : Nat) (a : Access) : Bool :=
  let p := d.page pg
  let accd := p.accs.filter (·.acc.isSome)
  (decide (a.port ≥ 4) || decide ((p.busy[a.port]?).getD 0 ≤ d.now.toNat))
  && !(decide (a.port < 4) && p.barriers.any fun b => b.sbar && b.streams.contains a.stream)
  && (!a.rel || accd.all fun x => x.perfAt d a.scope)
  && !heldAtPort d pg a && !remapHolds d a
  && !(a.kind == .msend && (boxFull d a || acquireOpen d p))
  && !(a.port == 4 && p.score.any fun r => a.els.any fun e => decide (e.va < r.off + r.len) && decide (r.off < e.va + e.size))
  && !(isWrite a.kind && decide (a.port < 4) && accd.any (fun x => sameStream x a && holdsPort d x)
       && decide ((accd.filter fun x => x.port == a.port && isWrite x.kind && (earlier p x).any (holdsPort d)).length ≥ 64))
  && !((a.kind == .store || a.kind == .load || isAtomic a.kind) && p.accs.any fun x => before x a && x.retry)

/-- A part of a PREF would fault: it is skipped (R229). -/
def prefSkips (d : Dev) (a : Access) (l : Leaf) (e : Elem) : Bool :=
  (leafCheck l .rd).isSome || l.state == 4 || (targetFault d a.cid (l.pa e.va) a).1.isSome

/-- Accept one access of a page: it takes its place, is translated, and is held where a part faults. -/
def acceptOne (d : Dev) (pg : Nat) (a : Access) (evict : Bool) : Dev :=
  let (n, d) := freshId d
  let a := { a with acc := some n, since := d.now.toNat, round := (d.span a.span).rnd.round }
  let d := { d with opRound := a.round }
  let d := if a.port < 4 then
      d.modPage pg fun p => { p with last := modNth (fun _ => a.stream) a.port p.last
                                     busy := modNth (fun _ => d.now.toNat + pathCycles a) a.port p.busy }
    else d
  match a.kind with
  | .lds | .sts => setAcc d pg { a with els := a.els.map fun e => { e with pa := some e.va } }
  | .flush => setAcc d pg a
  | .pref =>
    -- bank lines are filled, the TLB otherwise (R229)
    let d := a.els.foldl (fun d e =>
      match translate d pg a.cid e.va evict with
      | (.error _, d) => d
      | (.ok l, d) =>
        if !prefSkips d a l e && !a.nob && !pteNc l.bits then
          (match bankAt (d.page pg) e.va with
           | some k => readyLine d pg k e.va a.cid a.span false
           | none => d)
        else d) { d with tick := d.tick + 1 }
    setAcc d pg { a with els := a.els.map fun e => { e with st := .read [] } }
  | .msend =>
    match sendCause d a with
    | some c => portFault (setAcc d pg a) pg a c 0
    | none => sendMsg d pg a
  | _ =>
    match transAll pg a evict d with
    | (.error (c, va), d) =>
      let a := { a with els := heldEls d pg a c }
      portFault (setAcc d pg a) pg a c va
    | (.ok es, d) => setAcc d pg { a with els := es, fault := none, retry := false }

/-- ACCESS_ACCEPT: an access arrives at its port (in firing order for one node and stream), or a port accepts the head of one stream's queue among the accesses whose frame is not
parked, in turn over stream ids after the stream accepted last (R208, R363, R367). -/
def acceptStep (d : Dev) : Dev :=
  match d.occ with
  | .arrive pg id =>
    let p := d.page pg
    match p.accs.find? (·.id == id) with
    | some a =>
      if a.qpos.isSome || p.accs.any (fun x => x.qpos.isNone && decide (x.id < a.id) && x.span == a.span && x.node == a.node && x.port == a.port && x.stream == a.stream) then d
      else
        let (n, d) := freshId d
        setAcc d pg { a with qpos := some n }
    | none => d
  | .accept pg port evict =>
    let p := d.page pg
    let g := d.graph ((d.cidOf pg).getD 64)
    if g.ending.isSome || g.st == .stopped then d else
    let waiting := p.accs.filter fun a => a.port == port && a.acc.isNone && a.qpos.isSome && !d.parkedFrame a.cid a.tok.tag.frame
    let heads := waiting.filter fun a => !waiting.any fun x =>
      decide (x.qpos.getD 0 < a.qpos.getD 0) && (if port < 4 then x.stream == a.stream else x.span == a.span && x.node == a.node)
    let ready := heads.filter (canAccept d pg)
    let turn := fun a : Access => if port < 4 then (a.stream + 256 - (p.last[port]?).getD 0 - 1) % 256 else a.qpos.getD 0
    match sortBy (fun a b => decide (turn a < turn b)) ready with
    | a :: _ => acceptOne d pg a evict
    | [] => d
  | _ => d

def execAccessAccept (s : State) : Out := lift acceptStep s

/-! ### Performance (R302 to R318) -/

def modEl (a : Access) (k : Nat) (f : Elem → Elem) : Access := { a with els := modNth f k a.els }

/-- One access writes every granule of the 64-byte line of an address, none of them poisoned (R329). -/
def wholeLine (a : Access) (pa : Nat) : Bool :=
  !(a.els.any fun e => e.vpoi && e.pa.any fun x => x / 64 == pa / 64) &&
  (granules (pa / 64 * 64) 64).all fun g => a.els.any fun e => match e.pa with | some x => decide (x ≤ g) && decide (g + 4 ≤ x + e.size) | none => false

/-- A fold of two values that both pass through `scaled_in` first, with the counts of all of it (R217). -/
def foldFlushed (a : Args) (op : FoldOp) (m r : Nat) : Nat × Counts :=
  let x := foldIn a m
  let y := foldIn a r
  let z := foldStep a op x.1 y.1
  (z.1, (x.2.add y.2).add z.2)

/-- The new value of a location and the counts made (R217). -/
def atomicNew (op m r : Nat) (f : Fmt) (ftz : Bool) : Nat × Counts :=
  let a : Args := ⟨f, .lr, 0, 8, ftz, [], [], [], ⟨0, 0, 0⟩, 0, .data, 0⟩
  let w := fmtBits f
  match op with
  | 0 => (patOf (a.val m + a.val r) w, .zero)
  | 1 => (m &&& r, .zero)
  | 2 => (m ||| r, .zero)
  | 3 => (m ^^^ r, .zero)
  | 4 => (if a.val r < a.val m then r else m, .zero)
  | 5 => (if a.val m < a.val r then r else m, .zero)
  | 6 => (r, .zero)
  | 8 => foldFlushed a .sum m r
  | 9 => foldFlushed a .min m r
  | _ => foldFlushed a .max m r

/-- An element read already shares bytes of a write that elements read now return and it did not (R313). -/
def mixes (m : Mem) (rs : List Nat) (f : Elem) : Bool :=
  match f.st, f.pa with
  | .read rf, some a => !f.bank && m.wlog.any fun w =>
      rs.contains w.id && !rf.contains w.id && decide (w.addr < a + f.size) && decide (a < w.addr + w.bytes.length)
  | _, _ => false

/-- An element read at its home. -/
def readAt (m : Mem) (q : Party) (e : Elem) : Elem :=
  match e.pa with
  | some a => let r := readEl m q a e.size; { e with got := natOfBytes r.1, gpoi := r.2.1, st := .read r.2.2 }
  | none => e

/-- No load returns a part of a write beside older bytes of the rest of it: the elements read before that would are read again with this one, which is
their service then (R302, R313). -/
def rereads (m : Mem) (q : Party) : Nat → List Nat → List Elem → List Elem
  | 0, _, es => es
  | k + 1, rs, es =>
    let again := (es.filter (mixes m rs)).map (readAt m q)
    if again.isEmpty then es
    else rereads m q k (rs ++ again.flatMap fun e => match e.st with | .read r => r | _ => []) (es.map fun f => if mixes m rs f then readAt m q f else f)

/-- An access of a package has read one part of a write's bytes and not yet another. -/
def halfRead (d : Dev) (w : WEl) : Bool :=
  let in_ := fun e : Elem => e.pa.any fun a => decide (w.addr < a + e.size) && decide (a < w.addr + w.bytes.length)
  d.pages.any fun x => x.2.accs.any fun a => a.els.any (fun e => in_ e && e.st != .todo) && a.els.any fun e => in_ e && e.st == .todo

/-- Read element `k` of an access (R304, R313, R315). -/
def serve (d : Dev) (pg : Nat) (a : Access) (k : Nat) : Dev :=
  let p := d.page pg
  match a.els[k]? with
  | none => d
  | some e =>
    if a.acc.isNone || a.fault.isSome || e.st != .todo || !(a.kind == .load || a.kind == .lds) || acquireHeld d p a || !mayRead d p a e then d
    else if a.kind == .lds then
      if p.poisoned e.va e.size && rollsBack d a.cid then meetError d a.cid else
      setAcc d pg (modEl a k fun e => { e with got := natOfBytes (p.bytes e.va e.size), gpoi := p.poisoned e.va e.size, st := .read [] })
    else match e.pa with
      | none => d
      | some key =>
        if !wayOpen d key then d else
        let bank := if e.bank then bankAt p e.va else none
        let ((bs, poi, rs), d') := match bank with
          | some b => bankRead d pg b e.va e.size a.cid a.span a.acq
          | none => let (r, d) := readKey d a.party key e.size; (r, countHot d key)
        let es := rereads d.mem a.party a.els.length rs (modNth (fun e => { e with got := natOfBytes bs, gpoi := poi, st := .read rs }) k a.els)
        if (es.filter fun e => !a.els.contains e).any (·.gpoi) && rollsBack d a.cid then meetError d a.cid
        else setAcc d' pg { a with els := es }

/-- An STS writes its elements of one aligned 16-byte granule together: a copy that reads the page store sees each granule wholly before or after it
(R215). -/
def storeGranule (d : Dev) (pg : Nat) (a : Access) (e : Elem) : Dev :=
  let mine := fun f : Elem => f.st == .todo && f.va / 16 == e.va / 16
  let d := (a.els.filter mine).foldl (fun d f => (logStore d a.cid pg f.va f.size).modPage pg fun p => p.write f.va (bytesOf f.val f.size) f.vpoi) d
  setAcc d pg { a with els := a.els.map fun f => if mine f then { f with st := .wrote [] } else f }

/-- Two elements of one access name one granule (R212). -/
def sameGranule (e f : Elem) : Bool := match e.pa, f.pa with | some a, some b => a == b | _, _ => e.va == f.va

/-- Apply element `k` of an access at its home (R303, R314, R316). -/
def applyAt (d : Dev) (pg : Nat) (a : Access) (k : Nat) : Dev :=
  let p := d.page pg
  match a.els[k]? with
  | none => d
  | some e =>
    if a.acc.isNone || a.fault.isSome || e.st != .todo || !(isWrite a.kind || a.kind == .msend) || acquireHeld d p a || !mayWrite d p a e
       || (isAtomic a.kind && !mayRead d p a e)
       || (a.els.take k).any (fun f => sameGranule f e && f.st == .todo)
       || (match e.pa with | some key => a.kind != .sts && !wayOpen d key | none => false) then d
    else match a.kind with
      | .sts => storeGranule d pg a e
      | .msend => setAcc d pg (modEl a k fun e => { e with st := .wrote [] })
      | .store =>
        match e.pa with
        | none => d
        | some key =>
          let bs := bytesOf e.val e.size
          let poi := poiOf e.vpoi key e.size
          let bank := if e.bank then bankAt p e.va else none
          match bank with
          | some b =>
            if scopeRank a.scope ≤ 1 then
              setAcc (bankWrite d pg b e.va a.cid a.span bs e.vpoi true none) pg (modEl a k fun e => { e with st := .wrote [] })
            else
              let (i, d) := applyHome (sendRequest (readyLine d pg b e.va a.cid a.span false) key) a.cid a.party key bs poi (wholeLine a key) none
              let d := bankWrite d pg b e.va a.cid a.span bs e.vpoi false (some i)
              setAcc (countHot d key) pg (modEl a k fun e => { e with st := .wrote [i] })
          | none =>
            if key < 2 ^ 52 && regionOf d key == .control then
              setAcc { d with ctlq := d.ctlq ++ [⟨key - 0x200000000000, e.size, e.val⟩] } pg (modEl a k fun e => { e with st := .wrote [] })
            else
              let (i, d) := applyHome (sendRequest d key) a.cid a.party key bs poi (wholeLine a key) none
              setAcc (countHot d key) pg (modEl a k fun e => { e with st := .wrote [i] })
      | _ =>
        match e.pa with
        | none => d
        | some key =>
          let d := evictLine d pg e.va a.cid a.span
          let outside := decide (key ≥ 2 ^ 52) || regionOf d key == .hostWin
          let window := !decide (key ≥ 2 ^ 52) && regionOf d key == .control
          let ((old, poi), d) :=
            if outside || window then (let (r, d) := readKey d a.party key e.size; ((natOfBytes r.1, r.2.1), d))
            else ((natOfBytes (homeBytes d.mem key e.size), homePoi d.mem key e.size), d)
          if poi && rollsBack d a.cid then meetError d a.cid
          else
            let cas := a.kind == .cas
            let hit := decide (old = (a.opnd[0]?).getD 0)
            let (new, kc) := if cas then ((a.opnd[1]?).getD 0, Counts.zero) else atomicNew a.op old ((a.opnd[0]?).getD 0) a.fmt a.ftz
            let d := countHot (addCounts d a.span kc) key
            let last := ((List.range e.size).filterMap fun j => (lastWrite d.mem (fun _ => true) (key + j)).map (·.id)).dedup
            if (cas && !hit) || outside || window then
              let d := if window && (!cas || hit) then ctlAtomic d (key - 0x200000000000) e.size new else d
              setAcc d pg (modEl a k fun e => { e with got := old, gpoi := poi, val := boolNat hit, st := .both (if outside || window then [] else last) [] })
            else
              let (i, d) := applyHome d a.cid a.party key (bytesOf new e.size) (poiOf poi key e.size) false none
              setAcc d pg (modEl a k fun e => { e with got := old, gpoi := poi, val := boolNat hit, st := .both last [i] })

/-- Payload of the data token (R211, R212, R217, R218). -/
def dataPayload (a : Access) (n : Nat) : Payload :=
  let put := fun (p : Payload) (lane size v : Nat) =>
    modNth (fun _ => Lane.some (v % 2 ^ 32)) lane (if size = 8 then modNth (fun _ => Lane.some (v / 2 ^ 32)) (lane + 1) p else p)
  let p := a.els.foldl (fun p e => put p e.lane e.size e.got) (List.replicate n Lane.none)
  match a.kind, a.els with
  | .cas, e :: _ => modNth (fun _ => Lane.some e.val) 2 p
  | _, _ => p

/-- A wholly performed access that has no token left to send is forgotten. -/
def forget (d : Dev) (pg : Nat) : Dev :=
  let done := fun a : Access => a.fault.isNone && a.doneTo.isEmpty && (a.dataTo.isEmpty || a.dataSent) && a.perfAt d .sys
  if (d.page pg).accs.any done then d.modPage pg fun p => { p with accs := p.accs.filter fun a => !done a } else d

/-- One part of an access's performance. -/
def perfStep (d : Dev) (pg id : Nat) (act : PerfAct) : Dev :=
  match act with
  | .show_ w q sc => { d with mem := { d.mem with wlog := d.mem.wlog.map fun x =>
      if x.id == w && !(x.covers q sc) && sc != Scope.sys && (q.mine || sc == Scope.elem) then { x with seen := x.seen ++ [(q, sc)] } else x } }
  | .widen w => { d with mem := { d.mem with wlog := d.mem.wlog.map fun x => if x.id == w && x.level != some .sys && (decide (x.addr < 2 ^ 52) || wayOpen d x.addr) then { x with level := Scope.next x.level } else x } }
  | .place w => (match d.mem.pend.find? (·.el.id == w) with
    | some p => if firstPend d.mem p && (decide (p.el.addr < 2 ^ 52) || wayOpen d p.el.addr) then countHot (placeEl d p) p.el.addr else d
    | none => d)
  | .fold => if d.mem.wlog.head?.any (halfRead d) then d else forget { d with mem := foldOne d.mem } pg
  | .barrier k =>
    match (d.page pg).barriers[k]? with
    | some b =>
      if b.waits.all (accDone d pg b.scope) && hasSpace d b.span b.toks.length then
        b.toks.foldl (fun d t => send d (.span b.span) t) (d.modPage pg fun p => { p with barriers := dropNth k p.barriers })
      else d
    | none => d
  | _ =>
    match (d.page pg).accs.find? (·.id == id) with
    | none => d
    | some a =>
      let d := { d with opRound := a.round }
      match act with
      | .serve k => serve d pg a k
      | .apply k => applyAt d pg a k
      | .data =>
        if a.fault.isNone && a.acc.isSome && !a.dataSent && !a.dataTo.isEmpty && a.els.all (fun e => e.st != .todo)
           && (!a.acq || a.perfAt d a.scope) && hasSpace d a.span a.dataTo.length then
          let t := { a.emit with payload := dataPayload a a.emit.payload.length, poi := a.els.any (·.gpoi) }
          forget (setAcc (sendAll d (.span a.span) t a.dataTo) pg { a with dataSent := true }) pg
        else d
      | .done =>
        if a.fault.isNone && a.acc.isSome && !a.doneTo.isEmpty && a.perfAt d a.scope && hasSpace d a.span a.doneTo.length then
          forget (setAcc (sendAll d (.span a.span) a.emit a.doneTo) pg { a with doneTo := [] }) pg
        else d
      | _ => d

/-- Engine accesses of a context are held: a shoot-down, a switching migration, or a collapse of its leaves is under way (R334, R335,
R337). -/
def tasksHeld (d : Dev) (cid : Nat) : Bool :=
  d.leaven.shoots.any (·.cid == cid) || d.leaven.migrs.any (fun m => m.cid == cid && (m.phase == .switch || m.phase == .finish))
  || d.leaven.ops.any fun o => o.mod_ && (o.cid == cid || o.others.contains cid)

/-! ### Reads and writes of an engine task (R263, R273, R319) -/

/-- The elements that a party, where it is a task, has read already. -/
def aheadOf (d : Dev) (q : Party) : List Ahead :=
  match q with
  | .isle i id => (((d.chan i).tasks.find? (·.id == id)).map (·.ahead)).getD []
  | _ => []
def Ahead.meets (x : Ahead) (a n : Nat) : Bool := decide (x.addr < a + n) && decide (a < x.addr + x.bytes.length)

/-- A party's own last write to a byte, where it still waits for its place. -/
def ownPend (m : Mem) (q : Party) (key : Nat) : Option WEl :=
  (m.pend.reverse.find? fun p => p.el.owner == q && decide (p.el.addr ≤ key) && decide (key < p.el.addr + p.el.bytes.length)).map (·.el)

/-- A read element of a party at a home key: one that a task has read already, memory by R304, a register window, or what an outside agent answers (log 8). -/
def keyByte (d : Dev) (q : Party) (key : Nat) : Byte × Bool :=
  if key ≥ 2 ^ 52 then (Config.outsideByte d.tick key, Config.outsidePoison d.tick (key / 4))
  else match regionOf d key with
    | .control => (BitVec.ofNat 8 ((ctlByte d (key - 0x200000000000)).filled (Config.outsideByte d.tick key).toNat), false)
    | .hostWin => (Config.outsideByte d.tick key, Config.outsidePoison d.tick key)
    | _ => match (aheadOf d q).find? (·.meets key 1), ownPend d.mem q key with
      | some x, _ => (x.bytes[key - x.addr]?).getD (0, false)
      | none, some w => ((w.bytes[key - w.addr]?).getD 0, w.poi.contains (key / 4 * 4))
      | none, none => let r := readEl d.mem q key 1; ((r.1[0]?).getD 0, r.2.1)

/-- The size of the elements that an island reads and writes (R312). -/
def Isle.element (i : Isle) : Nat := if i.kind == .hearth then 4 else 16

/-- A task that is not done reads one element of memory before the rest of its source: what it returns is fixed now (R302, R319). A Braid task that waits
in the interlock has not started, and reads nothing (R448). -/
def readAhead (d : Dev) (isl : Isle) (id addr : Nat) : Dev :=
  let n := isl.element
  let a := addr / n * n
  match (d.chan isl).tasks.find? (·.id == id) with
  | none => d
  | some t =>
    let bs := (List.range n).map fun k => keyByte d (.isle isl id) (a + k)
    let cid := (t.pk.map (·.cid)).getD 64
    if t.phase == 2 || t.phase == 3 || (isl.kind == .braid && t.phase == 0) || 2 ^ 52 ≤ a || !(regionOf d a).isTier || tasksHeld d cid || t.ahead.any (·.meets a n) || (bs.any (·.2) && rollsBack d cid) then d
    else d.modChan isl fun c => { c with tasks := c.tasks.map fun u =>
      if u.id == id then { u with ahead := u.ahead ++ [⟨a, bs, (readEl d.mem (.isle isl id) a n).2.2⟩] } else u }

/-- A task's own write to bytes that it has read already: a later read of them returns it. -/
def forgetAhead (d : Dev) (q : Party) (a n : Nat) : Dev :=
  match q with
  | .isle i id =>
    if (aheadOf d q).any (·.meets a n) then
      d.modChan i fun c => { c with tasks := c.tasks.map fun u => if u.id == id then { u with ahead := u.ahead.filter fun x => !x.meets a n } else u }
    else d
  | _ => d

/-- ACCESS_PERFORM: of a memory node's access, or of one element that an engine task reads. -/
def execAccessPerform (s : State) : Out :=
  lift (fun d => match d.occ with | .perf pg id act => perfStep d pg id act | .ahead isl id a => readAhead d isl id a | _ => d) s

end Sys2Proof.Machine
end

