-- ==== Sys2Proof/Machine/Vmem.lean ====
section
/-! DEFINITION. Memory as the loader and the engines reach it: bytes read and written through a context's translation, byte by byte
(R263, R273, R303, R304, R328, R329, R332, R333, R390, R406, R467, R468). -/

namespace Sys2Proof.Machine

/-- Step the moment of free values. -/
def tock (d : Dev) : Dev := { d with tick := d.tick + 1 }

/-- A response deadline is set and no answer for a PA comes within it (R462, R468, R470). -/
def silent (d : Dev) (pa : Nat) : Bool := fld d.sb.ctl.toNat 31 16 != 0 && Config.outsideSilent d.tick pa

/-- What the target of a PA answers to a read or a write of a context, before data moves. A path that is down is taken to stay down until its fault
(log 5). -/
def outsideCause (d : Dev) (cid pa : Nat) (rd : Bool) : Option FCode :=
  let sys := (d.ctx cid).priv
  match regionPa d pa with
  | none =>
    if !(routed d (pkgOf pa) && portUp d (pkgOf pa)) then some .linkf
    else if silent d pa then some .timeout
    else remoteCause sys (Config.outsideRefuses d.tick pa) pa
  | some .hole => some .permf
  | some .control => if sys then none else some .permf
  | some .hostWin => if rd && Config.outsideRefuses d.tick pa then some .permf else if rd && silent d pa then some .timeout else none
  | some (.cxl k) => if !((d.mem.cxl[k]?).map (·.1)).getD false then some .linkf else if silent d pa then some .timeout else none
  | some _ => none

/-- A refused access is an event of the I/O die (R328, R480). -/
def refusedEvent (d : Dev) (pa : Nat) : Dev :=
  match regionPa d pa with
  | some .hole | some .control => raiseEvent d 4 ⟨3, 10, 0, localOf pa, 0⟩
  | _ => d

/-- The address of an access that ended in a PERMF is logged where its leaf allowed it and its target refused it (R328). -/
def logRefused (d : Dev) (die cid va : Nat) (w : Want) : Dev :=
  match translateAt d die cid va with
  | .ok l => if (leafFault d cid l w).isNone && l.state != 4 && outsideCause d cid (l.pa va) (w == .rd) == some .permf then refusedEvent d (l.pa va) else d
  | .error _ => d

/-- The home key of a VA for a die's engines (die 4: the I/O die; die 5: the loader, R333) and a right: none where the leaf is in state POISON. -/
def vaKey (d : Dev) (die cid va : Nat) (w : Want) : Except FCode (Option Nat) :=
  match translateAt d die cid va with
  | .error e => .error e
  | .ok l => match leafFault d cid l w with
    | some e => .error e
    | none =>
      if l.state == 4 then .ok none
      else match outsideCause d cid (l.pa va) (w == .rd) with
        | some e => .error e
        | none => .ok (some (homeKey d (l.pa va)))

/-- Collect results over a list, or the first error with the place it came from. -/
def mapE {α β ε : Type} (f : α → Except ε β) : List α → Except ε (List β)
  | [] => .ok []
  | a :: l => match f a with
    | .error e => .error e
    | .ok b => match mapE f l with
      | .error e => .error e
      | .ok bs => .ok (b :: bs)

/-- Home keys of a run of VAs. -/
def vaKeys (d : Dev) (die cid va n : Nat) (w : Want) : Except (FCode × Nat) (List (Option Nat)) :=
  mapE (fun k => match vaKey d die cid (va + k) w with | .error e => .error (e, va + k) | .ok x => .ok x) (List.range n)

/-- Bytes of a run with the poison of each, as a party reads them; a leaf in state POISON reads poisoned zeros. -/
def vaRead (d : Dev) (q : Party) (die cid va n : Nat) : Except (FCode × Nat) (List (Byte × Bool)) :=
  match vaKeys d die cid va n .rd with
  | .error e => .error e
  | .ok ks => .ok (ks.map fun k => match k with | some k => keyByte d q k | none => (0, true))

/-- The number in a run of bytes. -/
def numOf (bs : List (Byte × Bool)) : Nat := natOfBytes (bs.map (·.1))

/-- One write element of a party of the package at a home key: a register window takes it as a register write; one of an engine task waits for its place in
home order, since the accesses of a task are unordered among themselves (R319). -/
def putKey (d : Dev) (cid : Nat) (q : Party) (key : Nat) (bs : List Byte) (poi : List Nat) (full : Bool) : List Nat × Dev :=
  if key < 2 ^ 52 && regionOf d key == .control then
    ([], { d with ctlq := d.ctlq ++ [⟨key - 0x200000000000, bs.length, natOfBytes bs⟩] })
  else
    match q with
    | .isle _ _ => let (i, d) := queueEl (sendRequest d key) cid q key bs poi full; ([i], forgetAhead d q key bs.length)
    | _ => let (i, d) := applyHome (sendRequest d key) cid q key bs poi full none; ([i], countHot d key)

/-- Where the bytes of a run go, in chunks that keep within aligned granules of `g` bytes: place in the run, key, length. -/
def chunksOf (g : Nat) : Nat → List (Option Nat) → List (Nat × Nat × Nat)
  | _, [] => []
  | k, none :: r => chunksOf g (k + 1) r
  | k, some a :: r =>
    match chunksOf g (k + 1) r with
    | (k', a', n) :: t => if k' = k + 1 ∧ a' = a + 1 ∧ a' % g ≠ 0 then (k, a, n + 1) :: t else (k, a, 1) :: (k', a', n) :: t
    | [] => [(k, a, 1)]

/-- Poisoned granules of an element at `a`: those with a poisoned byte. -/
def poiBytes (a : Nat) (bs : List (Byte × Bool)) : List Nat :=
  (granules a bs.length).filter fun g => (indexed bs).any fun (k, b) => b.2 && (a + k) / 4 * 4 == g

/-- The element is the last of a 64-byte line that the run writes whole, with no poison in it (R329). -/
def endsLine (ks : List (Option Nat × Bool)) (a n : Nat) : Bool :=
  (a + n) % 64 == 0 && (List.range 64).all fun j => ks.contains (some ((a + n) / 64 * 64 - 64 + j), false)

/-- Write a run at its home keys, each aligned granule of `g` bytes as one element (R312); the writes made. -/
def putRun (d : Dev) (cid : Nat) (q : Party) (g : Nat) (ks : List (Option Nat)) (bs : List (Byte × Bool)) : List Nat × Dev :=
  (chunksOf g 0 ks).foldl (fun (acc : List Nat × Dev) c =>
    let part := (bs.drop c.1).take c.2.2
    let (ws, d) := putKey acc.2 cid q c.2.1 (part.map (·.1)) (poiBytes c.2.1 part) (endsLine (List.zip ks (bs.map (·.2))) c.2.1 c.2.2)
    (acc.1 ++ ws, d)) ([], d)

/-- Write a run through a context's translation, each aligned granule of `g` bytes at once. -/
def vaWrite (d : Dev) (q : Party) (die cid g va : Nat) (bs : List (Byte × Bool)) : Except (FCode × Nat) (List Nat × Dev) :=
  match vaKeys d die cid va bs.length .wr with
  | .error e => .error e
  | .ok ks => .ok (putRun d cid q g ks bs)

/-- A write by the loader through a context's translation, in elements of 8 bytes (R312), performed at SYS at once (R122, R392, R406). -/
def loaderPut (d : Dev) (cid va : Nat) (bs : List Byte) : Except (FCode × Nat) Dev :=
  match vaKeys d 5 cid va bs.length .wr with
  | .error e => .error e
  | .ok ks => .ok ((chunksOf 8 0 ks).foldl (fun d c =>
      let part := (bs.drop c.1).take c.2.2
      if c.2.1 < 2 ^ 52 && regionOf d c.2.1 == .control then { d with ctlq := d.ctlq ++ [⟨c.2.1 - 0x200000000000, part.length, natOfBytes part⟩] }
      else countHot (writeHome d .loader c.2.1 part (endsLine (ks.map fun k => (k, false)) c.2.1 c.2.2)) c.2.1) d)

/-- A number that the loader reads through a context's translation. -/
def loaderNum (d : Dev) (cid va n : Nat) : Except (FCode × Nat) Nat :=
  match vaRead d .loader 5 cid va n with
  | .error e => .error e
  | .ok bs => .ok (numOf bs)

/-- Reads of a run in elements of `g` bytes are counted (R342). -/
def countRun (d : Dev) (die cid g va n : Nat) : Dev :=
  match vaKeys d die cid va n .rd with
  | .error _ => d
  | .ok ks => (chunksOf g 0 ks).foldl (fun d c => countHot d c.2.1) d

/-- Accesses of the loader to a region by its address, in elements of 8 bytes, are counted (R342). -/
def countArea (d : Dev) (a n : Nat) : Dev := (List.range ((n + 7) / 8)).foldl (fun d k => countHot d (a + 8 * k)) d

/-- Every write of a list is performed at a scope of a party. -/
def writesDone (d : Dev) (q : Party) (sc : Scope) (ws : List Nat) : Bool := ws.all (wDone d.mem q sc)

end Sys2Proof.Machine
end

