-- ==== Sys2Proof/Machine/Flow.lean ====
section
/-! DEFINITION. Meanings of the dataflow-control, loop, frame, stream, tag, timer and counter instructions (R166 to R189). -/

namespace Sys2Proof.Machine

/-- The record of a node of a span, decoded. -/
def nodeAt (d : Dev) (key node : Nat) : Option Instr := ((d.span key).nodes.find? node).bind instrOf?

/-! ### Records that decode to nothing (R111) -/

/-- The instruction whose operands a record asks for: where it decodes to nothing, that of its opcode with TGA and the mode bits put right; none where
no instruction has its opcode. -/
def shapeOf? (r : Record) : Option Instr :=
  match instrOf? r with
  | some i => some i
  | none =>
    let w := setFld r.toNat 79 77 0
    [fld w 31 0, 0, 3 * 2 ^ 11].findSome? fun lit => instrOf? (BitVec.ofNat 96 (setFld w 31 0 lit))

def shapeAt (d : Dev) (key node : Nat) : Option Instr := ((d.span key).nodes.find? node).bind shapeOf?

/-- What a record with an opcode of no instruction asks of its operands by its own ARY and PRD: the ports that must hold tokens (DESIGN CHOICE, log 77). -/
def rawPorts (w : Nat) : List Port := aryPorts (decAry (fld w 83 82)) ++ (if fld w 81 80 = 0 then [] else [.p])

/-- The ports that a firing at a site needs: the arrival's own where its port is unmatched (R168), else those that the record requires. -/
def neededPorts (d : Dev) (f : Focus) : List Port :=
  match (d.span f.span).nodes.find? f.node with
  | none => []
  | some r => match (shapeOf? r).bind fun i => (partsOf i).map fun x => (i, x.2.2) with
    | some (i, n) => if unmatched i f.port then [f.port] else portsOf i n
    | none => rawPorts r.toNat

/-- The ports of a node take tokens one by one. -/
def oneByOne (d : Dev) (key node : Nat) (q : Port) : Bool := (shapeAt d key node).any (unmatched · q)

/-- Queue space that a node's destinations need. -/
def namedOf (i : Instr) (n : NodeRec) : Nat :=
  named (n.dsta :: n.dstb :: (match i with
    | .fan _ => (match dstOfCode? (fld n.lit.toNat 21 0) with | some t => [t] | none => [])
    | _ => []))

/-- Queue space that the destinations of a node's record need, whatever it decodes to. -/
def spaceOf (d : Dev) (key node : Nat) : Nat :=
  match (d.span key).nodes.find? node with
  | none => 0
  | some r => match (instrOf? r).bind fun i => (partsOf i).map fun x => (i, x.2.2) with
    | some (i, n) => namedOf i n
    | none => named [decDst (fld r.toNat 75 54), decDst (fld r.toNat 53 32)]

/-! ### Node state held in matching-store entries (R169) -/

/-- Entries that the state of one node and frame takes: one for a loop, a counter or an EOSW, and one for each end-of-stream token held. -/
def stateAt (sp : Span) (node : Nat) (frame : BitVec 14) : Nat :=
  (sp.loops.filter fun l => l.node == node && l.frame == frame).length + (sp.cntrs.filter fun e => e.node == node && e.frame == frame).length
  + ((sp.eosws.filter fun e => e.node == node && e.frame == frame).map fun e => 1 + e.held.length).sum

/-- Entries that the node state of a span takes. -/
def stateCount (sp : Span) : Nat := sp.loops.length + sp.cntrs.length + (sp.eosws.map fun e => 1 + e.held.length).sum

/-- A spilled entry of node state of a span. -/
def isStateOf (key : Nat) (e : Entry) : Bool := e.role == .state && e.tok.dest.key == key

/-- Entries of a span's matching store in use: tokens, and node state that has not been spilled (R26, R169). -/
def storeUsed (d : Dev) (key : Nat) : Nat :=
  let p := d.page (pageOfFe key)
  (p.toks.filter fun e => e.place == .store && e.tok.dest.key == key).length
  + (stateCount (d.span key) - (p.toks.filter (isStateOf key)).length)

/-- What stands for a spilled entry of node state on the spill path. -/
def stateEntry (d : Dev) (key node : Nat) (frame : BitVec 14) : Entry :=
  ⟨{ tag := ⟨BitVec.ofNat 6 ((d.cidOf (pageOfFe key)).getD 0), frame, 0⟩, seq := 0, ma := .once, poi := false, cls := .data, lvl := 0
     payload := List.replicate (lanesOf (d.span key).wid) Lane.none, dest := destAt key node .l }, .vc1, false, .state⟩

/-- After a firing at a node: the state it used is back in the store, and what the store has no room for leaves for the spill engine as an arrival
without a partner does (R27, R169). -/
def settleState (key node : Nat) (frame : BitVec 14) (d : Dev) : Dev :=
  let d := d.modPage (pageOfFe key) fun p =>
    { p with toks := p.toks.filter fun e => !(isStateOf key e && e.tok.dest.node == node && e.tok.tag.frame == frame) }
  let excess := min (storeUsed d key - 64) (stateAt (d.span key) node frame)
  d.modPage (pageOfFe key) fun p => { p with toks := p.toks ++ List.replicate excess (stateEntry d key node frame) }

/-- A page's entries of node state without those of state that is gone: no more of a node and frame than its state takes. -/
def trimState (spanOf : Nat → Span) (p : Page) : Page :=
  let same := fun (a b : Entry) => a.role == .state && a.tok.dest == b.tok.dest && a.tok.tag.frame == b.tok.tag.frame
  { p with toks := p.toks.foldl (fun (l : List Entry) e =>
      if e.role == .state && decide (stateAt (spanOf e.tok.dest.fe) e.tok.dest.node e.tok.tag.frame ≤ (l.filter (same e)).length) then l else l ++ [e]) [] }

/-- An EOSW loses the tokens that it holds for a frame; its entry goes where no count is left (R183). -/
def clearEosws (frame : BitVec 14) (l : List EoswSt) : List EoswSt :=
  (l.map fun w => if w.frame == frame then { w with held := [] } else w).filter fun w => !(w.frame == frame && w.count == 0)

/-! ### Steering, joining and discarding (R170, R171) -/

/-- A payload kept valid only where a test of the P lane holds (R171). -/
def steerLanes (l p : Payload) (want : Bool) : Payload :=
  (indexed l).map fun (j, x) => if laneTrue (laneOf p j) == want then x else { x with ok := false }

/-- STEER: the whole token by P, or each lane by the lane of P (R171). -/
def execSteer (n : NodeRec) (s : State) : Out :=
  lift (fire (.steer n) n
    { ports := portsOf (.steer n) n
      emits := fun x _ =>
        let p := (x.o.p.map (·.payload)).getD []
        !bitAt x.lit 0 || (steerLanes x.lPay p true).any (·.ok) || (steerLanes x.lPay p false).any (·.ok)
      act := fun x d =>
        let k := (x.o.l.map (·.cls)).getD .data
        let v := (x.o.l.map (·.lvl)).getD 0
        if bitAt x.lit 0 then
          let p := (x.o.p.map (·.payload)).getD []
          let pa := steerLanes x.lPay p true
          let pb := steerLanes x.lPay p false
          emitEach x d [(if pa.any (·.ok) then x.a else none, k, v, .once, pa), (if pb.any (·.ok) then x.b else none, k, v, .once, pb)]
        else emit2 x d k k v x.lPay x.lPay }) s

/-- MERGE: each arrival alone, the port being the firing's own (R168, R170). -/
def execMerge (n : NodeRec) (s : State) : Out :=
  lift (fun d => fire (.merge n) n
    { ports := [d.focus.port]
      act := fun x d =>
        let t := (x.o.at x.f.port)
        let k := (t.map (·.cls)).getD .data
        let v := (t.map (·.lvl)).getD 0
        let p := (t.map (·.payload)).getD []
        emitEach x d [(x.a, k, v, .once, p), (x.b, k, v, .once, p)] } d) s

/-- FAN: to a third destination in the literal as well (R170). -/
def execFan (n : NodeRec) (s : State) : Out :=
  lift (fire (.fan n) n
    { ports := portsOf (.fan n) n
      extra := match dstOfCode? (fld n.lit.toNat 21 0) with | some .none => [] | some t => [t] | none => []
      check := fun x d =>
        match dstOfCode? (fld x.lit 21 0) with
        | none => some .illop
        | some t => if (dstCause t).isSome then some .illop else (match resolveDst d x.key t with | .error e => some e | .ok _ => none)
      act := fun x d =>
        let k := (x.o.l.map (·.cls)).getD .data
        let v := (x.o.l.map (·.lvl)).getD 0
        let c := match dstOfCode? (fld x.lit 21 0) with
          | some t => (match resolveDst d x.key t with | .ok y => y | .error _ => none)
          | none => none
        emitEach x d [(x.a, k, v, .once, x.lPay), (x.b, k, v, .once, x.lPay), (c, k, v, .once, x.lPay)] }) s

/-! ### Ordered sinks (R97, R189) -/

def sinkOf (sp : Span) (node : Nat) : SinkSt := (sp.sinks.find? (·.node == node)).getD ⟨node, 0, []⟩
def setSink (sp : Span) (st : SinkSt) : Span := { sp with sinks := sp.sinks.filter (·.node != st.node) ++ [st] }

/-- The first staged firing that may be performed: one whose SEQ precedes X, which X passed by COMMIT or by a firing of the same SEQ, or else the
one X has reached (R97). -/
def sinkDue (st : SinkSt) : Option Staged :=
  match st.stage.find? (fun e => seqPrecedes e.seq st.x) with
  | some e => some e
  | none => st.stage.find? (·.seq == st.x)

/-- It is performed by discarding it; X advances where it is the expected one. -/
def sinkAdvance (st : SinkSt) : SinkSt :=
  match sinkDue st with
  | some e => { st with stage := removeFirst (· == e) st.stage, x := if e.seq = st.x then st.x + 1 else st.x }
  | none => st

/-- A firing stays in the matching store: its SEQ lies 64 or more after X, or the 64 entries of the reorder stage are taken (R97). -/
def sinkHolds (st : SinkSt) (seq : BitVec 26) : Bool :=
  !(seq == st.x || seqPrecedes seq st.x) && !(decide (seqAfter st.x seq ≤ 63) && decide (st.stage.length < 64))

/-- A firing is performed, and X advances where it is the expected one; or it is staged (R97). -/
def sinkTake (x : Fire) (supp : Bool) (d : Dev) : Dev :=
  d.modSpan x.key fun sp =>
    let st := sinkOf sp x.f.node
    if x.o.seq = st.x then setSink sp { st with x := st.x + 1 }
    else if seqPrecedes x.o.seq st.x then sp
    else match x.o.l with
      | some l => setSink sp { st with stage := st.stage ++ [⟨x.f.tag, x.o.seq, supp, l, x.o.r, x.o.c, x.o.p⟩] }
      | none => sp

/-- SINK discards its token; with SEQ = 1 in SEQ order (R97, R170). -/
def execSink (n : NodeRec) (s : State) : Out :=
  lift (fire (.sink n) n
    { ports := portsOf (.sink n) n
      waits := fun x d => n.seq && sinkHolds (sinkOf (d.span x.key) x.f.node) x.o.seq
      emits := fun _ _ => false
      suppressed := if n.seq then some fun x d =>
        if sinkHolds (sinkOf (d.span x.key) x.f.node) x.o.seq then d else sinkTake x true (begin_ d x.f x.o) else none
      act := fun x d => if n.seq then sinkTake x false d else d }) s

/-- A waiting entry of the reorder stage is performed once X reaches it or has passed it (R97). -/
def execOrderedSinkRelease (s : State) : Out :=
  lift (fun d =>
    match d.occ with
    | .site f =>
      match d.cidOf (pageOfFe f.span) with
      | some c =>
        if runs (d.graph c) then
          let st := sinkOf (d.span f.span) f.node
          if (sinkDue st).isSome then d.modSpan f.span fun sp => setSink sp (sinkAdvance st) else d
        else d
      | none => d
    | _ => d) s

/-- GATE passes L once R holds a token (R170). -/
def execGate (n : NodeRec) (s : State) : Out :=
  lift (fire (.gate n) n { ports := portsOf (.gate n) n, act := fun x d => emitL x d }) s

/-- ORD emits a data token with every lane invalid (R170). -/
def execOrd (n : NodeRec) (s : State) : Out :=
  lift (fire (.ord n) n { ports := portsOf (.ord n) n, act := fun x d => emitData x (List.replicate x.lanes Lane.none) d }) s

/-! ### Loops (R172 to R177) -/

def loopW (n : NodeRec) : Nat := fld n.lit.toNat 14 0 + 1
def loopB (n : NodeRec) : Nat := fld n.lit.toNat 29 15 + 1
def loopUnbounded : Nat := 0xFFFFFFFF

/-- Bytes of a retirement bitmap (R360). -/
def loopBytes (n : NodeRec) : Nat := ceilDiv (loopW n) 512 * 64

/-- The first free run of a size in the 64 KiB loop area, in ascending offset order (R360). -/
def freeRun (runs : List (Nat × Nat)) (size : Nat) : Option Nat :=
  ((List.range (0x10000 / 64)).map (· * 64)).find? fun o =>
    decide (o + size ≤ 0x10000) && runs.all fun r => decide (o + size ≤ r.1) || decide (r.1 + r.2 ≤ o)

def loopAt (sp : Span) (node : Nat) (frame : BitVec 14) : Option LoopSt := sp.loops.find? fun l => l.node == node && l.frame == frame

def setLoop (sp : Span) (l : LoopSt) : Span :=
  { sp with loops := sp.loops.map fun x => if x.node == l.node && x.frame == l.frame then l else x }

/-- Every iteration is admitted (or an exit has come) and has retired (R174). -/
def LoopSt.ended (l : LoopSt) : Bool :=
  (l.exit.isSome || (l.n != loopUnbounded && l.adm == l.n)) && l.live.isEmpty && decide (l.upto ≤ l.adm)

/-- The completion token (R174). -/
def loopDone (l : LoopSt) (lanes : Nat) : Token :=
  let t0 := l.entry
  match l.exit with
  | some (_, x) =>
    { t0 with payload := x.payload, poi := x.poi, ma := .once, cls := if x.lvl = 0 then .data else .control, lvl := if x.lvl = 0 then 0 else x.lvl - 1 }
  | none => { t0 with payload := lanesThen lanes [l.adm % 2 ^ 32], ma := .once, cls := .data, lvl := 0 }

/-- A loop that has ended sends its completion token and is cleared (R174, R360). -/
def loopFinish (key node : Nat) (frame : BitVec 14) (b : Option Dest) (d : Dev) : Dev :=
  match loopAt (d.span key) node frame with
  | some l =>
    if l.ended then
      let d := sendAll d (.span key) (loopDone l (lanesOf (d.span key).wid)) b.toList
      let d := d.modSpan key fun sp => { sp with loops := sp.loops.filter fun x => !(x.node == node && x.frame == frame) }
      settleState key node frame (d.modPage (pageOfFe key) fun p => { p with runs := p.runs.filter fun r => r.1 != l.off })
    else d
  | none => d

/-- LOOPB takes an entry token on L and starts a loop (R173). -/
def execLoopb (n : NodeRec) (s : State) : Out :=
  lift (fire (.loopb n) n
    { ports := [.l]
      waits := fun x d =>
        (loopAt (d.span x.key) x.f.node x.f.tag.frame).isSome || (freeRun (d.page x.pg).runs (loopBytes n)).isNone
      emits := fun x _ => (x.o.l.bind fun t => lane32? t.payload 0).getD 0 == 0
      act := fun x d =>
        match x.o.l, freeRun (d.page x.pg).runs (loopBytes n) with
        | some t, some off =>
          let l : LoopSt := ⟨x.f.node, x.f.tag.frame, (lane32? t.payload 0).getD 0, t, 0, [], none, off, 0⟩
          let d := (markStale d x.pg (0x3E0000 + off) (loopBytes n)).modPage x.pg fun p => { p with runs := p.runs ++ [(off, loopBytes n)] }
          let d := settleState x.key x.f.node x.f.tag.frame (d.modSpan x.key fun sp => { sp with loops := sp.loops ++ [l] })
          loopFinish x.key x.f.node x.f.tag.frame x.b d
        | _, _ => d }) s

/-- The last iteration of the next batch, where it may be admitted now (R173). -/
def nextBatch (l : LoopSt) (n : NodeRec) : Option Nat :=
  if l.exit.isSome || !(l.n == loopUnbounded || decide (l.adm < l.n)) then none
  else
    let last := if l.n == loopUnbounded then l.adm + loopB n - 1 else min (l.adm + loopB n - 1) (l.n - 1)
    if l.live.all (fun j => decide (last < j + loopW n)) then some last else none

/-- Emits the next iteration (R173). -/
def admitOne (key : Nat) (n : NodeRec) (a : Option Dest) (l : LoopSt) (d : Dev) : Dev :=
  let seq := if n.seq then (d.span key).seqs.getD l.node 0 else l.entry.seq
  let d := if n.seq ∧ a.isSome then d.modSpan key fun sp => { sp with seqs := sp.seqs.set l.node (seq + 1) } else d
  let p := Lane.some (l.adm % 2 ^ 32) :: l.entry.payload.drop 1
  sendAll d (.span key)
    { l.entry with tag := { l.entry.tag with iter := BitVec.ofNat 16 l.adm }, seq, ma := .once, cls := .data, lvl := 0, payload := p } a.toList

/-- End of the batch to which the next iteration belongs: the batch under way, or the next one, where the window allows it and neither an exit nor
a pre-emption nor an enlargement stops admission (R173, R410). -/
def batchEnd (g : Graph) (l : LoopSt) (n : NodeRec) : Option Nat :=
  if l.adm < l.upto then some l.upto
  else if g.st == .resident && g.preempt.isNone then (nextBatch l n).map (· + 1)
  else none

/-- LOOPB admits one iteration: the next of the batch under way, or the first of the next batch (R173). Each admission is a firing of the loop's
frame, so a parked frame admits nothing (R38), and its destination is checked as it emits (R111). -/
def execLoopbAdmit (s : State) : Out :=
  lift (fun d =>
    match d.occ with
    | .site f =>
      match d.cidOf (pageOfFe f.span), nodeAt d f.span f.node with
      | some c, some (.loopb n) =>
        match loopAt (d.span f.span) f.node f.tag.frame with
        | some l =>
          if runs (d.graph c) && hasSpace d f.span (named [n.dsta]) && !d.parkedFrame c f.tag.frame then
            match batchEnd (d.graph c) l n with
            | some upto =>
              match destCheck d f.span n true with
              | .error e => takeFault d c (some f.tag.frame) e { hdr := l.entry.header, loc := locOf d f.span f.node none }
              | .ok (a, _) =>
                markFired ((admitOne f.span n a l d).modSpan f.span fun sp =>
                  setLoop sp { l with adm := l.adm + 1, upto, live := l.live ++ [l.adm] }) f.span
            | none => d
          else d
        | none => d
      | _, _ => d
    | _ => d) s

/-- A token on R or C retires the live iteration it names; with none it raises ILLOP (R174, R175). -/
def loopRetireAt (exit : Bool) (d : Dev) : Dev :=
  match d.occ with
  | .site f =>
    match nodeAt d f.span f.node with
    | some (.loopb n) =>
      let named := fun d : Dev => (loopAt (d.span f.span) f.node f.tag.frame).bind fun l =>
        (l.live.find? fun i => BitVec.ofNat 16 i == f.tag.iter).map fun i => (l, i)
      fire (.loopb n) n
        { ports := [if exit then .c else .r]
          emits := fun _ d => (named d).any fun (l, i) =>
            ({ l with live := l.live.filter (· != i), exit := if exit then some (i, l.entry) else l.exit } : LoopSt).ended
          check := fun _ d => if (named d).isNone then some .illop else none
          act := fun x d =>
            match named d with
            | some (l, i) =>
              let t := x.o.at (if exit then .c else .r)
              let ex := if exit then (match l.exit, t with
                | some (j, u), some t => if i < j then some (i, t) else some (j, u)
                | none, some t => some (i, t)
                | e, none => e) else l.exit
              loopFinish x.key x.f.node x.f.tag.frame x.b
                (d.modSpan x.key fun sp => setLoop sp { l with live := l.live.filter (· != i), exit := ex })
            | none => d } { d with focus := f }
    | _ => d
  | _ => d

/-- A retire token on R (R174). -/
def execLoopbRetire (s : State) : Out := lift (loopRetireAt false) s

/-- An exit request on C (R174). -/
def execLoopbExitRequest (s : State) : Out := lift (loopRetireAt true) s

/-- CARRY passes L to a later iteration (R176). -/
def execCarry (n : NodeRec) (s : State) : Out :=
  lift (fire (.carry n) n
    { ports := portsOf (.carry n) n
      act := fun x d =>
        emitL { x with f := { x.f with tag := { x.f.tag with iter := x.f.tag.iter + BitVec.ofNat 16 (fld x.lit 14 0) } } } d }) s

/-- LEXIT sends an exit request to DSTA and the payload as data to DSTB (R177). -/
def execLexit (n : NodeRec) (s : State) : Out :=
  lift (fire (.lexit n) n
    { ports := portsOf (.lexit n) n
      act := fun x d => emitEach x d [(x.a, .control, 0, .once, x.lPay), (x.b, .data, 0, .once, x.lPay)] }) s

/-! ### Frames (R178 to R181) -/

/-- VA of a frame's link (R31, R47). -/
def linkVa (c : Ctx) (frame : BitVec 14) : Nat := fld c.framebase.toNat 56 18 * 2 ^ 18 + 16 * frame.toNat

/-- The 128-bit link (R31). -/
def linkOf (caller : Tag) (t : Option Dest) : Nat :=
  let body := match t with
    | some t => portCode t.port * 2 ^ 40 + t.node * 2 ^ 30 + t.dfe * 2 ^ 17 + t.die * 2 ^ 15
    | none => 0x3FF * 2 ^ 30
  caller.frame.toNat * 2 ^ 58 + caller.iter.toNat * 2 ^ 42 + body + 1

/-- The home key of a frame link for a right, none where its leaf is in state POISON; and the state with the translation in the page's TLBs. -/
def linkHome (d : Dev) (pg cid : Nat) (frame : BitVec 14) (w : Want) : Except FCode (Option Nat) × Dev :=
  let va := linkVa (d.ctx cid) frame
  match translate d pg cid va false with
  | (.error e, d) => (.error e, d)
  | (.ok l, d) => match leafFault d cid l w with
    | some e => (.error e, d)
    | none =>
      if l.state = 4 then (.ok none, d)
      else match outsideCause d cid (l.pa va) (w == .rd) with
        | some e => (.error e, d)
        | none => (.ok (some (homeKey d (l.pa va))), d)

/-- The link at a home key, as its home holds it; another package or the host answers for its own (log 8); a leaf in state POISON reads as zero. -/
def linkRead (d : Dev) (key : Option Nat) : Nat :=
  match key with
  | none => 0
  | some a =>
    if decide (2 ^ 52 ≤ a) || regionOf d a == .hostWin || regionOf d a == .control then natOfBytes ((List.range 16).map fun k => (keyByte d .loader (a + k)).1)
    else natOfBytes (homeBytes d.mem a 16)

/-- A link is written by a page's span: the write made (R178, R179). -/
def linkWrite (d : Dev) (cid key : Nat) (a : Option Nat) (v : Nat) : List Nat × Dev :=
  match a with
  | none => ([], d)
  | some a => putKey { d with opRound := (d.span key).rnd.round } cid (.span key) a (bytesOf v 16) [] false

/-- A link's read meets poison of a context under rollback containment (R353). -/
def linkErr (d : Dev) (cid : Nat) (key : Option Nat) : Bool :=
  key.any fun a => decide (a < 2 ^ 52) && (regionOf d a).isTier && homePoi d.mem a 16 && rollsBack d cid

/-- A refused access to a frame link is logged (R328). -/
def linkFault (x : Fire) (w : Want) (frame : BitVec 14) (d : Dev) : Dev :=
  let va := linkVa (d.ctx x.cid) frame
  match (translate d x.pg x.cid va false).1 with
  | .ok l => if (leafFault d x.cid l w).isNone && l.state != 4 && outsideCause d x.cid (l.pa va) (w == .rd) == some .permf then refusedEvent d (l.pa va) else d
  | .error _ => d

/-- Links of a page's cache whose write is not yet performed at MOD (R359). -/
def linksPending (d : Dev) (p : Page) : List Nat := p.links.filter fun i => d.mem.wlog.any fun w => w.id == i && !w.at .mod

/-- FCALL calls a subgraph in a new frame: the link is written before any token of the frame is emitted. A frame whose link's write faults goes back
to the tail of the pool (R178). -/
def execFcall (n : NodeRec) (s : State) : Out :=
  lift (fire (.fcall n) n
    { ports := portsOf (.fcall n) n
      waits := fun x d => (d.graph x.cid).pool.isEmpty || decide ((linksPending d (d.page x.pg)).length ≥ 4096)
      check := fun x d =>
        match (d.graph x.cid).pool with
        | [] => none
        | fr :: _ => match (linkHome d x.pg x.cid fr .wr).1 with | .error e => some e | .ok _ => none
      addr := fun x d => match (d.graph x.cid).pool with | [] => 0 | fr :: _ => linkVa (d.ctx x.cid) fr
      onFault := fun x d =>
        match (d.graph x.cid).pool with
        | [] => d
        | fr :: rest => (linkFault x .wr fr d).modGraph x.cid fun g => { g with pool := rest ++ [fr] }
      act := fun x d =>
        match (d.graph x.cid).pool with
        | [] => d
        | fr :: rest =>
          match linkHome d x.pg x.cid fr .wr with
          | (.error _, d) => d
          | (.ok a, d) =>
            let (ws, d) := linkWrite d x.cid x.key a (linkOf x.f.tag x.b)
            let d := (markStale d x.pg 0x3F0000 0x10000).modPage x.pg fun p => { p with links := linksPending d p ++ ws }
            let d := d.modGraph x.cid fun g => { g with pool := rest }
            let (sq, d) := if x.a.isSome then takeSeq x d else (x.o.seq, d)
            sendAll d (.span x.key) { mkTok x sq .data 0 x.lPay with tag := { x.f.tag with frame := fr, iter := 0 } } x.a.toList }) s

/-- A token in an output queue when its frame is swept is removed or arrives afterwards (R180): a free choice for each. -/
def sweepNet (cid : Nat) (frame : BitVec 14) (d : Dev) : Dev :=
  let r := d.net.foldl (fun (acc : List Flight × Nat) f =>
    if f.cid == cid && f.tok.tag.frame == frame && f.tok.cls != .marker then
      (if (Config.freeBits 1 acc.2) == 1#1 then acc.1 else acc.1 ++ [f], acc.2 + 1)
    else (acc.1 ++ [f], acc.2)) ([], d.tick)
  { d with net := r.1, tick := r.2 }

/-- The release sweep (R180). The operands of an access that its port has not accepted stand at its node (R208) and go too. -/
def releaseSweep (cid : Nat) (frame : BitVec 14) (d : Dev) : Dev :=
  let d := modLoadPages d cid fun p =>
    { p with toks := p.toks.filter fun e => !ofFrame frame e.tok || e.role == .state
             accs := p.accs.filter fun a => a.acc.isSome || !ofFrame frame a.tok }
  let d := sweepNet cid frame d
  match (d.graph cid).load with
  | none => d
  | some ld =>
    let d := d.spans.foldl (fun d e =>
      if ld.holds (pageOfFe e.1) then d.modSpan e.1 fun sp =>
        { sp with eosws := clearEosws frame sp.eosws, farQ := sp.farQ.filter fun t => !ofFrame frame t } else d) d
    ld.pages.foldl (fun d p => d.modPage p (trimState fun fe => d.span (p * 64 + fe))) d

/-- The place that a link's continuation names. -/
def linkPlace (v : Nat) : Dest := ⟨fld v 16 15, fld v 29 23, fld v 22 17, fld v 39 30, portOf (fld v 41 40)⟩

/-- Where a link returns to: none where the continuation names nothing; a fault where the load has no such place (R32). -/
def linkDest (d : Dev) (cid : Nat) (v : Nat) : Except FCode (Option Dest) :=
  let node := fld v 39 30
  if node = 0x3FF then .ok none
  else
    let t := linkPlace v
    match (d.graph cid).load with
    | none => .error .islandf
    | some l =>
      if !(l.die == t.die && l.holds (t.die * 80 + t.page)) then .error .islandf
      else if (d.span t.key).anchor then .ok (some t) else .error .spanf

/-- Why FRETN faults: frame 0, a fault of the link's read or of the write that clears V, a link with V = 0, or a continuation that the load does
not have (R32, R179). -/
def fretnCause (x : Fire) (d : Dev) : Option FCode :=
  if x.f.tag.frame = 0 then some .illop
  else match (linkHome d x.pg x.cid x.f.tag.frame .rd).1 with
    | .error e => some e
    | .ok a =>
      if !bitAt (linkRead d a) 0 then some .illop
      else match (linkHome d x.pg x.cid x.f.tag.frame .wr).1 with
        | .error e => some e
        | .ok _ => match linkDest d x.cid (linkRead d a) with | .error e => some e | .ok _ => none

/-- FRETN returns through the frame's link, clears it and sweeps the frame (R179, R180). -/
def execFretn (n : NodeRec) (s : State) : Out :=
  lift (fire (.fretn n) n
    { ports := portsOf (.fretn n) n
      check := fretnCause
      addr := fun x d => match fretnCause x d with
        | some .illop | some .islandf | some .spanf => 0
        | _ => linkVa (d.ctx x.cid) x.f.tag.frame
      onFault := fun x d => linkFault x .wr x.f.tag.frame (linkFault x .rd x.f.tag.frame d)
      act := fun x d =>
        match linkHome d x.pg x.cid x.f.tag.frame .wr with
        | (.error _, d) => d
        | (.ok a, d) =>
          let v := linkRead d a
          match linkDest d x.cid v with
          | .error _ => d
          | .ok t =>
            if linkErr d x.cid a then meetError d x.cid else
            let d := match a with | some a => countHot d a | none => d
            let d := (linkWrite d x.cid x.key a (setFld v 0 0 0)).2
            let (sq, d) := if t.isSome then takeSeq x d else (x.o.seq, d)
            let tag : Tag := ⟨x.f.tag.cid, BitVec.ofNat 14 (fld v 71 58), BitVec.ofNat 16 (fld v 57 42)⟩
            let d := sendAll d (.span x.key) { mkTok x sq .data 0 x.lPay with tag := tag } t.toList
            let d := releaseSweep x.cid x.f.tag.frame d
            d.modGraph x.cid fun g => { g with pool := g.pool ++ [x.f.tag.frame] } }) s

/-- STICK sets sticky slots (R181). -/
def execStick (n : NodeRec) (s : State) : Out :=
  lift (fire (.stick n) n { ports := portsOf (.stick n) n, act := fun x d => emitL x d .sticky }) s

/-- PURGE clears them (R181). -/
def execPurge (n : NodeRec) (s : State) : Out :=
  lift (fire (.purge n) n { ports := portsOf (.purge n) n, act := fun x d => emitL x d .purge }) s

/-! ### Streams and tags (R182, R183, R185) -/

/-- EOS emits L's payload as a control token of the literal's level (R182). -/
def execEos (n : NodeRec) (s : State) : Out :=
  lift (fire (.eos n) n
    { ports := portsOf (.eos n) n
      act := fun x d =>
        let v := BitVec.ofNat 3 (fld x.lit 2 0)
        emitEach x d [(x.a, .control, v, .once, x.lPay), (x.b, .control, v, .once, x.lPay)] }) s

def eoswAt (sp : Span) (node : Nat) (frame : BitVec 14) : EoswSt :=
  (sp.eosws.find? fun e => e.node == node && e.frame == frame).getD ⟨node, frame, 0, []⟩

/-- Store EOSW state; it is freed when the count is zero and nothing is held (R183). -/
def setEosw (sp : Span) (e : EoswSt) : Span :=
  let rest := sp.eosws.filter fun x => !(x.node == e.node && x.frame == e.frame)
  { sp with eosws := if e.count = 0 ∧ e.held = [] then rest else rest ++ [e] }

/-- Release the held end-of-stream tokens whose items have passed, oldest in SEQ order first (R183). -/
def eoswRelease (x : Fire) : Nat → EoswSt → Dev → Dev
  | 0, e, d => d.modSpan x.key fun sp => setEosw sp e
  | k + 1, e, d =>
    match sortBy bySeq e.held with
    | [] => d.modSpan x.key fun sp => setEosw sp e
    | t :: rest =>
      let c := (lane32? t.payload 0).getD 0
      if e.count < c then d.modSpan x.key fun sp => setEosw sp e
      else
        let seq := if x.n.seq then (d.span x.key).seqs.getD x.f.node 0 else t.seq
        let d := if x.n.seq ∧ x.b.isSome then d.modSpan x.key fun sp => { sp with seqs := sp.seqs.set x.f.node (seq + 1) } else d
        let d := sendAll d (.span x.key) { t with tag := emitTag x.n t.tag, seq, ma := .once } x.b.toList
        eoswRelease x k { e with count := e.count - c, held := rest } d

/-- EOSW sends items on and holds end-of-stream tokens behind them (R183). -/
def execEosw (n : NodeRec) (s : State) : Out :=
  lift (fun d => fire (.eosw n) n
    { ports := [d.focus.port]
      emits := fun x d => x.f.port == .l ||
        (let e := eoswAt (d.span x.key) x.f.node x.f.tag.frame
         (sortBy bySeq (e.held ++ x.o.r.toList)).head?.any fun t => decide ((lane32? t.payload 0).getD 0 ≤ e.count))
      check := fun x _ => if x.f.port == .r && (x.o.r.map (·.cls)) == some .data then some .illop else none
      act := fun x d =>
        let e := eoswAt (d.span x.key) x.f.node x.f.tag.frame
        let d :=
          if x.f.port == .l then
            let k := (x.o.l.map (·.cls)).getD .data
            let d := emitEach x d [(x.a, k, (x.o.l.map (·.lvl)).getD 0, .once, x.lPay)]
            eoswRelease x (e.held.length + 1) { e with count := e.count + 1 } d
          else
            eoswRelease x (e.held.length + 2) { e with held := e.held ++ x.o.r.toList } d
        settleState x.key x.f.node x.f.tag.frame d } d) s

/-- TAGSET writes tag fields from R (R185). -/
def execTagset (n : NodeRec) (s : State) : Out :=
  lift (fire (.tagset n) n
    { ports := portsOf (.tagset n) n
      act := fun x d =>
        let set := fun (bit lane : Nat) => if bitAt x.lit bit then lane32? x.rPay lane else none
        let frame := match set 0 0 with | some v => BitVec.ofNat 14 v | none => x.f.tag.frame
        let iter := match set 1 1 with | some v => BitVec.ofNat 16 v | none => x.f.tag.iter
        if x.dests.isEmpty then d
        else
          let (sq, d) := takeSeq x d
          let seq := match set 2 2 with | some v => BitVec.ofNat 26 v | none => sq
          sendAll d (.span x.key) { mkTok x seq .data 0 x.lPay with tag := ⟨x.f.tag.cid, frame, iter⟩ } x.dests }) s

/-- TAGGET reads the tag into lanes 0 to 3, before TGA (R185). -/
def execTagget (n : NodeRec) (s : State) : Out :=
  lift (fire (.tagget n) n
    { ports := portsOf (.tagget n) n
      act := fun x d =>
        let t := x.f.tag
        let seq := (x.o.l.map (·.seq)).getD 0
        emitData x ([Lane.some t.frame.toNat, Lane.some t.iter.toNat, Lane.some seq.toNat, Lane.some t.cid.toNat] ++ x.lPay.drop 4) d }) s

/-! ### Timers, counters and sequence numbers (R186 to R189) -/

/-- TIMER delays its token by resident cycles (R186). -/
def execTimer (n : NodeRec) (s : State) : Out :=
  lift (fire (.timer n) n
    { ports := portsOf (.timer n) n
      waits := fun x d => decide (((d.span x.key).timers.filter (·.node == x.f.node)).length ≥ 16)
      act := fun x d =>
        let del := if x.n.ary = Ary.l then x.lit else (lane32? x.rPay 0).getD 0
        if x.dests.isEmpty then d
        else
          let (sq, d) := takeSeq x d
          let t := mkTok x sq ((x.o.l.map (·.cls)).getD .data) ((x.o.l.map (·.lvl)).getD 0) x.lPay
          d.modSpan x.key fun sp => { sp with timers := sp.timers ++ [⟨x.f.node, max del 1, x.dests, t⟩] } }) s

/-- The due token of a node's timer queue that leaves first: by deadline, and by firing order among equal deadlines (R186). -/
def dueTimer (sp : Span) (node : Nat) : Option TimerSt :=
  (sortBy (fun a b : TimerSt => decide (a.left < b.left)) (sp.timers.filter fun t => t.node == node && decide (t.left ≤ 0))).head?

/-- A due TIMER token is emitted when there is space (R186). -/
def execTimerDue (s : State) : Out :=
  lift (fun d =>
    match d.occ with
    | .site f =>
      match d.cidOf (pageOfFe f.span), dueTimer (d.span f.span) f.node with
      | some c, some t =>
        if runs (d.graph c) && hasSpace d f.span t.dsts.length then
          sendAll (d.modSpan f.span fun sp => { sp with timers := removeFirst (· == t) sp.timers }) (.span f.span) t.tok t.dsts
        else d
      | _, _ => d
    | _ => d) s

/-- The N of a CNTR's firing, and its count with this firing (R187). -/
def cntrLimit (x : Fire) : Nat :=
  let v := if x.n.ary = Ary.l then x.lit else (lane32? x.rPay 0).getD 0
  if v = 0 then 2 ^ 32 else v
def cntrNow (x : Fire) (d : Dev) : Nat :=
  (((d.span x.key).cntrs.find? fun e => e.node == x.f.node && e.frame == x.f.tag.frame).map (·.count)).getD 0 + 1

/-- CNTR emits the N-th token (R187). -/
def execCntr (n : NodeRec) (s : State) : Out :=
  lift (fire (.cntr n) n
    { ports := portsOf (.cntr n) n
      emits := fun x d => decide (cntrLimit x ≤ cntrNow x d)
      act := fun x d =>
        let c := cntrNow x d
        let rest := (d.span x.key).cntrs.filter fun e => !(e.node == x.f.node && e.frame == x.f.tag.frame)
        settleState x.key x.f.node x.f.tag.frame
          (if c ≥ cntrLimit x then emitL x (d.modSpan x.key fun sp => { sp with cntrs := rest })
           else d.modSpan x.key fun sp => { sp with cntrs := rest ++ [⟨x.f.node, x.f.tag.frame, c⟩] }) }) s

/-- A SEQ chosen by the operands, or by R95 where its source lane is invalid (R188). -/
def emitWithSeq (x : Fire) (v : Option Nat) (d : Dev) : Dev :=
  let seq := match v with | some v => BitVec.ofNat 26 v | none => x.o.seq
  sendAll d (.span x.key) (mkTok x seq .data 0 x.lPay) x.dests

/-- SEQS in iter mode (R188). -/
def execSeqsIter (n : NodeRec) (s : State) : Out :=
  lift (fire (.seqsIter n) n
    { ports := portsOf (.seqsIter n) n
      act := fun x d => emitWithSeq x ((lane32? x.rPay 0).map fun v => v % 2 ^ 26 + fld x.lit 27 2 * x.f.tag.iter.toNat) d }) s

/-- SEQS in lane mode (R188). -/
def execSeqsLane (n : NodeRec) (s : State) : Out :=
  lift (fire (.seqsLane n) n { ports := portsOf (.seqsLane n) n, act := fun x d => emitWithSeq x (lane32? x.lPay 0) d }) s

/-- The node of COMMIT's literal is a SINK with SEQ = 1 in its own span (R189). -/
def commitOk (x : Fire) (d : Dev) : Bool := match nodeAt d x.key (fld x.lit 9 0) with | some (.sink m) => m.seq | _ => false

/-- COMMIT emits X. -/
def emitX (x : Fire) (d : Dev) : Dev := emitData x (lanesThen x.lanes [(sinkOf (d.span x.key) (fld x.lit 9 0)).x.toNat]) d

/-- COMMIT reads X (R189). -/
def execCommitGet (n : NodeRec) (s : State) : Out :=
  lift (fire (.commitGet n) n
    { ports := portsOf (.commitGet n) n, check := fun x d => if commitOk x d then none else some .illop, act := fun x d => emitX x d }) s

/-- COMMIT reads X and sets it; staged entries that now precede X are performed at once (R189). -/
def execCommitSet (n : NodeRec) (s : State) : Out :=
  lift (fire (.commitSet n) n
    { ports := portsOf (.commitSet n) n
      check := fun x d => if commitOk x d then none else some .illop
      act := fun x d =>
        let d := emitX x d
        match lane32? x.lPay 0 with
        | some v =>
          let k := BitVec.ofNat 26 v
          d.modSpan x.key fun sp =>
            let st := sinkOf sp (fld x.lit 9 0)
            setSink sp { st with x := k, stage := st.stage.filter fun e => !seqPrecedes e.seq k }
        | none => d }) s

end Sys2Proof.Machine
end

