-- ==== Sys2Proof/Machine/Arrive.lean ====
section
/-! DEFINITION. Tokens arriving at FEs, the spill path, switch-box combining and round markers (R18 to R28, R36 to R38, R371, R372,
R376 to R382). -/

namespace Sys2Proof.Machine

/-! ### Arrival (R19, R23, R25, R27, R87, R111, R130, R167, R168) -/

/-- Ports of the node a token is bound for; none where the slot holds no valid record. -/
def slotInstr (d : Dev) (t : Token) : Option (Instr × NodeRec) :=
  (nodeAt d t.dest.key t.dest.node).bind fun i => (partsOf i).map fun x => (i, x.2.2)

/-- Lanes that a port of a node takes (R19, R163). -/
def portLanes (i : Instr) (q : Port) (lanes : Nat) : Nat :=
  match i with
  | .join _ => if q == .l || q == .r then lanes / 2 else lanes
  | _ => lanes

/-- Why a token is refused on arrival. Where several causes hold, the one of the first test below is raised: an empty slot's ILLOP before a wrong
width's SPANF, and that before a port or a class that the node does not take (DESIGN CHOICE, log 77). -/
def arrivalCause (d : Dev) (t : Token) : Option FCode :=
  let sp := d.span t.dest.key
  if !sp.anchor then some .illop
  else match sp.nodes.find? t.dest.node with
    | none => some .illop
    | some r =>
      if r = 0 then some .illop
      else match slotInstr d t with
        | none => if t.payload.length = lanesOf sp.wid then none else some .spanf
        | some (i, n) =>
          if t.payload.length != portLanes i t.dest.port (lanesOf sp.wid) then some .spanf
          else match i with
            | .far _ => if t.dest.port == .l then none else some .illop
            | _ =>
              if !(portsOf i n).contains t.dest.port then some .illop
              else if !portTakes i t.dest.port t.cls then some .illop
              else if !maTaken i t.dest.port t.ma then some .illop
              else none

/-- The store holds a partner of a token: a ONCE token of its tag, or the sticky slot of its frame, at another required port (R27). -/
def partnerIn (d : Dev) (t : Token) : Bool :=
  let p := d.page (pageOfFe t.dest.key)
  (neededPorts d ⟨t.dest.key, t.dest.node, t.tag, t.dest.port⟩).any fun q => q != t.dest.port &&
      p.toks.any fun e => e.place == .store && (isOnce t.dest.key t.dest.node q t.tag e || isSticky t.dest.key t.dest.node q t.tag e)

/-- Same sticky slot (R23). -/
def sameSlot (t : Token) (e : Entry) : Bool :=
  e.role == .plain && e.tok.ma == .sticky && e.tok.dest == t.dest && e.tok.tag.frame == t.tag.frame && e.tok.tag.cid == t.tag.cid

def addEntry (d : Dev) (e : Entry) : Dev := holdAt d (pageOfFe e.tok.dest.key) e

/-- The oldest waiting ONCE token of a full store that has no partner there leaves for the spill engine (R27). Where there is none, an entry of node
state leaves, which spills like a waiting token (R169; the age of state is open, log 77). -/
def evictOne (d : Dev) (key : Nat) : Option Dev :=
  let p := d.page (pageOfFe key)
  match firstIdx (fun e : Entry => e.place == .store && !e.parked && e.role == .plain && e.tok.dest.key == key && e.tok.ma == .once && !partnerIn d e.tok) p.toks with
  | some k => some (d.modPage (pageOfFe key) fun p => { p with toks := modNth (fun e => { e with place := .vc1 }) k p.toks })
  | none =>
    let sp := d.span key
    let out := fun (n : Nat) (f : BitVec 14) => (p.toks.filter fun e => isStateOf key e && e.tok.dest.node == n && e.tok.tag.frame == f).length
    let all := sp.loops.map (fun l => (l.node, l.frame)) ++ sp.eosws.map (fun e => (e.node, e.frame)) ++ sp.cntrs.map fun e => (e.node, e.frame)
    (all.find? fun x => decide (out x.1 x.2 < stateAt sp x.1 x.2)).map fun x => addEntry d (stateEntry d key x.1 x.2)

/-- Firings of a sticky token's slot that are ready now, each by its tag: as many of one tag as it has whole operand sets, stored or spilled (R22, R25,
R27). -/
def readyTags (d : Dev) (t : Token) : List Tag :=
  let p := d.page (pageOfFe t.dest.key)
  let key := t.dest.key
  let node := t.dest.node
  let ports := neededPorts d ⟨key, node, t.tag, t.dest.port⟩
  let tags := ((p.toks.filter fun e => heldFor key node e.tok.dest.port e && e.tok.ma == .once && e.tok.tag.frame == t.tag.frame).map fun e => e.tok.tag).dedup
  if !hasSpace d key (spaceOf d key node) then []
  else tags.flatMap fun g =>
    let once := ports.filter fun q => p.toks.any (isOnce key node q g)
    if once.isEmpty || once.contains t.dest.port || !(ports.all fun q => (pickAt p key node q g).isSome) then []
    else
      let olds := (p.toks.filter (isOld key node t.dest.port g)).length
      let each := once.map fun q => (p.toks.filter (isOnce key node q g)).length
      List.replicate (each.foldl min 64 - olds) g

/-- Before a sticky slot is replaced or emptied, its value is kept for the firings that are ready already (R25). -/
def keepOld (d : Dev) (t : Token) : Dev :=
  match (d.page (pageOfFe t.dest.key)).toks.find? (sameSlot t) with
  | none => d
  | some e => (readyTags d t).foldl (fun d g => addEntry d { e with place := .returned, role := .old g }) d

/-- An accepted arrival takes its place (R23, R25, R27). -/
def takeToken (d : Dev) (t : Token) : Dev :=
  let key := t.dest.key
  let free := decide (storeUsed d key < 64)
  match t.ma with
  | .purge => (keepOld d t).modPage (pageOfFe key) fun p => { p with toks := p.toks.filter fun e => !sameSlot t e }
  | .sticky =>
    let p := d.page (pageOfFe key)
    if p.toks.any (sameSlot t) then
      (keepOld d t).modPage (pageOfFe key) fun p => { p with toks := p.toks.map fun e => if sameSlot t e then { e with tok := t } else e }
    else addEntry d ⟨t, if free then .store else .vc1, false, .plain⟩
  | .once =>
    if free then addEntry d ⟨t, .store, false, .plain⟩
    else if partnerIn d t then
      match evictOne d key with
      | some d => addEntry d ⟨t, .store, false, .plain⟩
      | none => addEntry d ⟨t, .vc1, false, .plain⟩
    else addEntry d ⟨t, .vc1, false, .plain⟩

/-- An input of a span, by where a token on it comes from (R379). -/
def inputOf (src : Src) : RInput := match src with | .span k | .box k _ => .span k | .island => .island | .loader => .loader

/-- The cuts for which a span records a token that arrives now on an input: cut m + 1 for each round m + 1 that the span has entered, while marker
m has not arrived on the input (R381). -/
def cutsOwed (r : RoundSt) (inp : RInput) : List (BitVec 16) :=
  let last := ((r.inputs.find? (·.1 == inp)).map (·.2)).join
  let k := match last with | none => r.round.toNat | some l => if l == r.round then 0 else (r.round - 1 - l).toNat
  (List.range (if k < 2 ^ 15 then k else 0)).map fun j => r.round - BitVec.ofNat 16 j

/-- A span records a token for its incomplete cuts (R381). -/
def recordArrival (sp : Span) (src : Src) (t : Token) : Span :=
  { sp with rnd := { sp.rnd with recorded := sp.rnd.recorded ++ (cutsOwed sp.rnd (inputOf src)).map fun n => (n, t) } }

/-- A token at its FE is examined: refused, parked with its frame, queued at a FAR node or taken into the store (R19, R23, R38, R87, R103, R111, R130,
R167, R168). -/
def takeIn (d : Dev) (t : Token) : Dev :=
  let cid := (d.cidOf (pageOfFe t.dest.key)).getD 0
  match arrivalCause d t with
  | some e =>
    if d.parkedFrame cid t.tag.frame then addEntry d ⟨t, .vc1, true, .refused⟩
    else takeFault (addEntry d ⟨t, .vc1, true, .refused⟩) cid (some t.tag.frame) e
      { hdr := t.header, loc := locOf d t.dest.key t.dest.node (some t.dest.port) }
  | none =>
    if d.parkedFrame cid t.tag.frame then addEntry d ⟨t, .vc1, true, .plain⟩
    else match nodeAt d t.dest.key t.dest.node with
      | some (.far _) => d.modSpan t.dest.key fun sp => { sp with farQ := sp.farQ ++ [t] }
      | _ => takeToken d t

/-- One token arrives at its FE, by a port that takes no other arrival in this cycle (R25). -/
def arrive (d : Dev) (src : Src) (t : Token) : Dev :=
  takeIn (d.modSpan t.dest.key fun sp => { recordArrival sp src t with arrived := some (d.now.toNat, portCode t.dest.port) }) t

/-- The FE takes a token in this cycle: none has arrived yet, or only on ports before its own in the order L, R, C, P (R25). -/
def portFree (d : Dev) (t : Token) : Bool :=
  match (d.span t.dest.key).arrived with
  | some (c, q) => c != d.now.toNat || decide (q < portCode t.dest.port)
  | none => true

/-! ### Inbound tokens (R391) -/

/-- The fault of an inbound token that no place of its load takes: ILLOP of frame 0, with the coordinates that IREC gave. The physical place that the
record's header and LOC give of such a token is open: a free value (log 15). -/
def awayInfo (l : Load) (t : Token) (d : Dev) : FInfo × Dev :=
  let (v, d) := freeNat 14 d
  let t' := { t with dest := { t.dest with die := l.die, page := v / 64 % 80, fe := v % 64 } }
  ({ hdr := t'.header
     loc := t.dest.page % 16 * 8 + t.dest.fe % 8 + (t.dest.page / 16 * 8 + t.dest.fe / 8) * 2 ^ 8 + t.dest.node * 2 ^ 16 + portCode t.dest.port * 2 ^ 26
            + l.die * 2 ^ 28 + v / 64 % 80 * 2 ^ 32 }, d)

/-- An inbound token at the resident load: it goes to its destination in the load with the width of the receiving span. One that the load has no place
for is refused on arrival and kept, parked with frame 0, to be examined again (R38, R111). -/
def deliverInbound (c : Nat) (d : Dev) (t : Token) : Dev :=
  match (d.graph c).load with
  | none => d
  | some l =>
    match l.feAt ((t.dest.page % 16) * 8 + t.dest.fe % 8) ((t.dest.page / 16) * 8 + t.dest.fe / 8) with
    | none =>
      let d := d.modHold c fun h => { h with away := h.away ++ [t] }
      if d.parkedFrame c 0 then d else (let (x, d) := awayInfo l t d; takeFault d c (some 0) .illop x)
    | some k =>
      let n := lanesOf (d.span k).wid
      send d .loader { t with dest := destAt k t.dest.node t.dest.port, payload := (t.payload ++ List.replicate n Lane.none).take n }

/-- Inbound tokens that were refused are delivered again once frame 0 is not parked. -/
def deliverAway (c : Nat) (d : Dev) : Dev :=
  if d.parkedFrame c 0 then d
  else (d.hold c).away.foldl (deliverInbound c) (d.modHold c fun h => { h with away := [] })

/-! ### Frames that are released (R38) -/

/-- One parked token becomes live again: in the queue from which it was withdrawn; where its arrival had been refused, as an arrival; a sticky token
takes its slot, a PURGE token empties it; every other where it is held. While the frame is parked, it stays parked. -/
def relive (cid : Nat) (d : Dev) (e : Entry) : Dev :=
  if d.parkedFrame cid e.tok.tag.frame then addEntry d e
  else match e.role with
    | .refused => takeIn d e.tok
    | .queued k => { d with net := d.net ++ [⟨cid, .span k, netOf e.tok.cls, e.tok⟩] }
    | .old _ | .state => addEntry d { e with parked := false }
    | .plain =>
      match nodeAt d e.tok.dest.key e.tok.dest.node, e.tok.ma with
      | some (.far _), _ => d.modSpan e.tok.dest.key fun sp => { sp with farQ := sp.farQ ++ [e.tok] }
      | _, .once => addEntry d { e with parked := false }
      | _, .sticky =>
        if (d.page (pageOfFe e.tok.dest.key)).toks.any fun u => !u.parked && sameSlot e.tok u then takeToken d e.tok else addEntry d { e with parked := false }
      | _, .purge => takeToken d e.tok

/-- The parked tokens of a frame become live again, those bound for one port of a node in SEQ order (R38). -/
def unparkFrame (d : Dev) (cid : Nat) (frame : BitVec 14) : Dev :=
  match (d.graph cid).load with
  | none => d
  | some l =>
    let mine := fun e : Entry => ofFrame frame e.tok && e.parked
    let again := l.pages.flatMap fun p => sortBy (fun a b : Entry => a.tok.dest == b.tok.dest && bySeq a.tok b.tok) ((d.page p).toks.filter mine)
    let d := modLoadPages d cid fun p => { p with toks := p.toks.filter fun e => !mine e }
    let d := again.foldl (relive cid) d
    if frame = 0 then deliverAway cid d else d

/-! ### Switch boxes (R365, R371, R372) -/

/-- Physical coordinates of an FE on its die (R355). -/
def feXY (key : Nat) : Nat × Nat :=
  let p := key / 64 % 80
  (8 * (p % 10) + key % 8, 8 * (p / 10) + key / 8 % 8)

/-- The input port by which a token on its XY route from `a` to `b` enters box `x`; none where the route does not pass it. -/
def inPort (a b x : Nat × Nat) : Option Nat :=
  if x = a then some 0
  else if x.2 = a.2 ∧ a.1 < x.1 ∧ x.1 ≤ b.1 then some 4
  else if x.2 = a.2 ∧ x.1 < a.1 ∧ b.1 ≤ x.1 then some 2
  else if x.1 = b.1 ∧ a.2 < x.2 ∧ x.2 ≤ b.2 then some 1
  else if x.1 = b.1 ∧ x.2 < a.2 ∧ b.2 ≤ x.2 then some 3
  else none

/-- Where a token's way on the element mesh begins: the FE of its span, or the box that made it; and that span. The ways of island results and of
loader tokens are not given and affect timing only (R373). -/
def wayFrom (f : Flight) : Option (Nat × Nat) :=
  match f.src with
  | .span k => some (k, k)
  | .box k b => some (k, b)
  | _ => none

/-- Boxes that a token passes from one place to another. -/
def hops (a b : Nat × Nat) : Nat := (a.1 - b.1) + (b.1 - a.1) + (a.2 - b.2) + (b.2 - a.2)

/-- The combining entry that a token in transit meets, with its input port: the first on its route (R365, R372). A sum does not meet the box that made it
again. No token of a graph enters the network of the I/O die: its entries take part only in collectives, whose results they do not change (R291, R372). -/
def meets (d : Dev) (f : Flight) : Option (Nat × Nat) :=
  match wayFrom f with
  | some (k, from_) =>
    if f.tok.cls == .data && f.tok.ma == .once && k / 5120 == f.tok.dest.die then
      let all := (indexed d.combs).filterMap fun (j, c) =>
        if c.dest == f.tok.dest && c.box / 5120 == f.tok.dest.die && !(c.box == from_ && f.src != .span k) then
          match inPort (feXY from_) (feXY f.tok.dest.key) (feXY c.box) with
          | some q =>
            let wids := (c.held.filter fun h => h.tok.tag == f.tok.tag).map (·.tok.wid)
            if bitAt c.inmask q && (wids.isEmpty || wids.head? == some f.tok.wid) then some (hops (feXY from_) (feXY c.box), j, q) else none
          | none => none
        else none
      (sortBy (fun x y : Nat × Nat × Nat => decide (x.1 < y.1)) all).head?.map (·.2)
    else none
  | none => none

/-- The token is the first of its sender, network and receiver (R367). A marker keeps its place among the tokens of every network (R36, R380). -/
def isHead (d : Dev) (k : Nat) (f : Flight) : Bool :=
  !(d.net.take k).any fun g =>
    g.src == f.src && g.tok.dest.key == f.tok.dest.key && (g.net == f.net || g.tok.cls == .marker || f.tok.cls == .marker)

/-- An element of a box's sum: one alone, or two added by `add_rounded` (R83, R60). -/
def boxSum (args : Args) : Option Nat → Option Nat → Option Nat
  | some x, some y => some (foldStep args .sum (foldIn args x).1 (foldIn args y).1).1
  | some x, none => some (settleNan args (foldIn args x)).1
  | none, some y => some (settleNan args (foldIn args y)).1
  | none, none => none

/-- Add the lanes of two meeting tokens (R83): only valid lanes take part, and the parts of a complex element are added on their own (R57). The box has
no count set, so what `add_rounded` counts goes nowhere (log 77). -/
def combineLane (ftz : Bool) (fmt : Fmt) (rm : Nat) (a b : Payload) : Payload :=
  let args := fun f : Fmt => (⟨f, .lr, rm * 16, a.length, ftz, a, b, [], ⟨0, 0, 0⟩, 0, .data, 0⟩ : Args)
  packElems fmt a.length (List.zipWith (fun x y =>
    if fmt = .c64 then
      let part := fun k : Nat => boxSum (args .f32) (x.map (· / 2 ^ k % 2 ^ 32)) (y.map (· / 2 ^ k % 2 ^ 32))
      (part 0).bind fun re => (part 32).map fun im => re + im * 2 ^ 32
    else boxSum (args fmt) x y) (elems fmt a) (elems fmt b))

def lowestFirst (a b : CombHeld) : Bool := decide (a.inp < b.inp)

/-- The sum of the tokens of one tag in ascending port index: the tag they share, the SEQ and place of the lowest port's, the OR of the POI bits
(R83, R372). FTZ is that of the page for which the tokens are bound (log 77). -/
def combined (d : Dev) (c : CombEntry) (h : CombHeld) (rest : List CombHeld) : Token :=
  let ftz := (d.page (pageOfFe h.tok.dest.key)).ftz
  { h.tok with
    payload := rest.foldl (fun acc x => combineLane ftz c.fmt c.rm acc x.tok.payload) h.tok.payload
    poi := (h :: rest).any (·.tok.poi), ma := .once, cls := .data }

/-- A token `f` at place `k` of the networks meets entry `j` by port `q`: it is held, or, where every port of INMASK has then supplied one of its tag,
their sum goes on from the box. -/
def combineAt (d : Dev) (k : Nat) (f : Flight) (j q : Nat) (c : CombEntry) : Dev :=
  let key := ((wayFrom f).map (·.1)).getD 0
  let mine := c.held.filter fun h => h.tok.tag == f.tok.tag
  let d := { d with net := dropNth k d.net }
  if mine.length + 1 < ((List.range 8).filter (bitAt c.inmask ·)).length then
    { d with combs := modNth (fun c => { c with held := c.held ++ [⟨q, key, f.tok⟩] }) j d.combs }
  else
    let d := { d with combs := modNth (fun c => { c with held := c.held.filter fun h => h.tok.tag != f.tok.tag }) j d.combs }
    match sortBy lowestFirst (mine ++ [⟨q, key, f.tok⟩]) with
    | [] => d
    | h :: rest => { d with net := d.net ++ [⟨f.cid, .box h.key c.box, .elem, combined d c h rest⟩] }

/-- A combining entry as R371 allows it: two inputs or more, no b32, and a box that is there. -/
def CombEntry.ok (c : CombEntry) : Bool :=
  decide (2 ≤ ((List.range 8).filter (bitAt c.inmask ·)).length) && decide (c.inmask < 256) && c.fmt != .b32 && decide (c.rm < 4) && c.held.isEmpty
  && (if c.box < 0x10000 then decide (c.box < 20480) && c.block == 0 else decide (c.block < 9))

/-- The loader or the collective logic writes a combining entry, or clears one that holds no token (R371). When they do so is open (log 83). -/
def writeComb (e : CombEntry) (set : Bool) (d : Dev) : Dev :=
  if !set then { d with combs := d.combs.filter (· != e) }
  else if e.ok && decide ((d.combs.filter (·.box == e.box)).length < 4) then { d with combs := d.combs ++ [e] }
  else d

/-- SWITCH_COMBINE: a meeting token is held; when every input port has supplied one of its tag, their sum goes on (R83, R372). A second token of a tag
from one port waits in that port's buffer. -/
def execSwitchCombine (s : State) : Out :=
  lift (fun d =>
    match d.occ with
    | .flight k =>
      match d.net[k]? with
      | some f =>
        match meets d f with
        | some (j, q) =>
          match d.combs[j]? with
          | some c => if !isHead d k f || c.held.any (fun h => h.tok.tag == f.tok.tag && h.inp == q) then d else combineAt d k f j q c
          | none => d
        | none => d
      | none => d
    | .comb e set => if e.held.isEmpty then writeComb e set d else d
    | _ => d) s

/-- TOKEN_ARRIVAL: the head token of one sender to one receiver arrives (R27, R367). Tokens of a context with no resident load wait in
the loader (R416). -/
def execTokenArrival (s : State) : Out :=
  lift (fun d =>
    match d.occ with
    | .flight k =>
      match d.net[k]? with
      | some f =>
        let g := d.graph f.cid
        let here := (g.load.map fun l => l.die == f.tok.dest.die && l.holds (f.tok.dest.die * 80 + f.tok.dest.page)).getD false
        if f.tok.cls == .marker || g.st == .queued || !isHead d k f || (meets d f).isSome || !here || !portFree d f.tok then d
        else arrive { d with net := dropNth k d.net } f.src f.tok
      | none => d
    | _ => d) s

/-! ### The spill path (R376, R377) -/

/-- `spill_index` (R377). -/
def spillIndex (t : Token) (log : Nat) : Nat :=
  let it := if t.ma = .sticky then 0 else t.tag.iter.toNat
  let k1 := (it * 2 ^ 16 + t.tag.frame.toNat * 2 ^ 2 + portCode t.dest.port) % 2 ^ 32
  let k2 := t.dest.fe * 2 ^ 10 + t.dest.node
  hash32 k1 k2 % 2 ^ log

/-- The first free index by linear probing from a home index; none when every entry is valid. -/
def probe (used : List Nat) (size home : Nat) : Option Nat :=
  ((List.range size).map fun k => (home + k) % size).find? fun i => !used.contains i

/-- Index of a token's entry in the spill table, where it has one. -/
def tableIx (e : Entry) : Option Nat := match e.place with | .table i => some i | _ => none

/-- The place of a token among the arrivals that the spill engine holds for MSFULL. -/
def heldPlace (e : Entry) : Option Nat := match e.place with | .held k => some k | _ => none

/-- The record of an MSFULL (R407, R410); its SUB is known once it has been handled. -/
def msfullRec (d : Dev) (cid : Nat) (t : Token) : FaultRec :=
  ⟨(d.graph cid).nextFid, .msfull, false, true, false, 0, t.header, locOf d t.dest.key t.dest.node none, 0, 0, 0, d.now.toNat, none⟩

/-- The entry of a page that the spill engine inserts next: in a context that runs, the arrivals held for a MSFULL come first, in the order in which
they arrived (R410); then what waits in VC1. -/
def nextSpill (g : Graph) (p : Page) : Option Nat :=
  let vc1 := firstIdx (fun e : Entry => e.place == .vc1) p.toks
  if g.st == .resident then (match firstIdx (fun e : Entry => (heldPlace e).isSome) p.toks with | some k => some k | none => vc1) else vc1

/-- Entry `k` of a page takes a place. -/
def setPlace (pg k : Nat) (pl : Place) (d : Dev) : Dev := d.modPage pg fun p => { p with toks := modNth (fun e => { e with place := pl }) k p.toks }

/-- Entry `k` of a page is held for MSFULL, after the arrivals held before it; one that was held keeps its place among them. -/
def holdSpill (pg k : Nat) (d : Dev) : Dev :=
  match ((d.page pg).toks[k]?).bind heldPlace with
  | some _ => d
  | none => let (i, d) := freshId d; setPlace pg k (.held i) d

/-- MSFULL for an arrival: the context becomes PARKED (R28, R410). -/
def raiseMsfull (d : Dev) (cid : Nat) (t : Token) : Dev :=
  d.modGraph cid fun g => { g with st := .parked, nextFid := nextFid g.nextFid, msfull := some (msfullRec d cid t) }

/-- Entry `k` of a page enters the spill table; a full table raises MSFULL and parks the context, or, where it is parked for that already, holds the
token (R28, R377). -/
def insertAt (d : Dev) (cid pg k : Nat) : Dev :=
  let p := d.page pg
  match p.toks[k]? with
  | none => d
  | some e =>
    match probe (p.toks.filterMap tableIx) (2 ^ p.spillLog) (spillIndex e.tok p.spillLog) with
    | some i => setPlace pg k (.table i) (markStale d pg (p.spillBase + i * tableEntry d pg) (tableEntry d pg))
    | none =>
      let g := d.graph cid
      if g.st == .parked then
        (if (p.toks.filter (fun e => (heldPlace e).isSome)).length ≥ 16 then d else holdSpill pg k d)
      else if g.st == .resident then holdSpill pg k (raiseMsfull d cid e.tok)
      else d

/-- SPILL_INSERT: the next waiting token of a page enters its spill table. -/
def execSpillInsert (s : State) : Out :=
  lift (fun d =>
    match d.occ with
    | .entry pg k =>
      (match d.cidOf pg with
       | some cid => if nextSpill (d.graph cid) (d.page pg) != some k then d else insertAt d cid pg k
       | none => d)
    | _ => d) s

/-- Where the entry that a tag uses at a port lies among a page's tokens. -/
def pickIx (p : Page) (f : Focus) (q : Port) : Option Nat :=
  match firstIdx (isOnce f.span f.node q f.tag) p.toks with
  | some k => some k
  | none => match firstIdx (isOld f.span f.node q f.tag) p.toks with
    | some k => some k
    | none => firstIdx (isSticky f.span f.node q f.tag) p.toks

/-- The places, among a page's tokens, of the partners that a firing lacks and the spill table holds. -/
def lookupIxs (p : Page) (f : Focus) (ports : List Port) : List Nat :=
  (ports.filterMap (pickIx p f)).filter fun k => ((p.toks[k]?).map fun e => (tableIx e).isSome).getD false

/-- What the engine returns: partners that complete an operand set come back for their firing; others take a place in the store as an arrival with
its partner present does (R27, R376). -/
def returnPartners (d : Dev) (f : Focus) (ports : List Port) (ks : List Nat) : Dev :=
  let put := fun (pl : Place) (d : Dev) (k : Nat) => setPlace (pageOfFe f.span) k pl d
  let d' := ks.foldl (put .returned) d
  if (operandsOf d' f ports).isSome then d'
  else ks.foldl (fun d k =>
    if storeUsed d f.span < 64 then put .store d k
    else match evictOne d f.span with
      | some d => put .store d k
      | none => put .vc1 d k) d

/-- SPILL_LOOKUP: the engine returns each partner that a node's waiting token lacks in the store and the table holds, and frees its entry (R27, R376). -/
def execSpillLookup (s : State) : Out :=
  lift (fun d =>
    match d.occ with
    | .site f =>
      let ports := neededPorts d f
      returnPartners d f ports (lookupIxs (d.page (pageOfFe f.span)) f ports)
    | _ => d) s

/-! ### Rounds (R36, R379 to R382) -/

/-- Spans that a record names: DSTA, DSTB, a FAN third destination, a FAR target (R379). -/
def namedSpans (d : Dev) (key : Nat) (i : Instr) (n : NodeRec) : List Nat :=
  let one := fun t : Dst => match resolveDst d key t with | .ok (some x) => [x.key] | _ => []
  let lit := n.lit.toNat
  one n.dsta ++ one n.dstb ++ (match i with
    | .fan _ => (match dstOfCode? (fld lit 21 0) with | some t => one t | none => [])
    | .far _ => (match resolveXY d key (fld lit 24 18) (fld lit 17 12) (fld lit 11 2) .l with | .ok x => [x.key] | .error _ => [])
    | _ => [])

/-- The output spans of a span, each once. -/
def outputSpans (d : Dev) (key : Nat) : List Nat :=
  ((d.span key).nodes.flatMap fun e =>
    match (instrOf? e.2).bind fun i => (partsOf i).map fun x => (i, x.2.2) with
    | some (i, n) => namedSpans d key i n
    | none => []).dedup

/-- Spans of a load that hold a record: the units of its rounds (R379). -/
def unitsOfLoad (d : Dev) (l : Load) : List Nat :=
  (d.spans.filter fun e => l.holds (pageOfFe e.1) && e.2.anchor && e.2.nodes.any fun n => n.2 != 0).map (·.1)

def markerTok (t : Tag) (lanes : Nat) (n : BitVec 16) (key : Nat) : Token :=
  { tag := { t with iter := n }, seq := 0, ma := .once, poi := false, cls := .marker, lvl := 0
    payload := List.replicate lanes Lane.none, dest := destAt key 0 .l }

def roundAfter (a b : BitVec 16) : Bool := let k := (a - b).toNat; decide (1 ≤ k) && decide (k < 2 ^ 15)

/-- A span has round counter `n + 1` or later. -/
def reached (sp : Span) (n : BitVec 16) : Bool := roundAfter sp.rnd.round n

/-- What a save keeps of the islands that a load binds, by gateway and index (R265, R443). Its fourth number is the tile's own, for R265. -/
def captureIsles (d : Dev) (cid : Nat) (l : Load) : IsleSave :=
  let each := (indexed l.gws).flatMap fun (g, w) => (indexed w.isles).map fun (k, i) => (g, k, i)
  { tiles := (each.filter fun x => x.2.2.kind == .hearth).map fun x => (x.1, x.2.1, x.2.2.tileNo, d.tile x.2.2.tileNo)
    racks := (each.filter fun x => x.2.2.kind == .rack && (d.rack x.2.2.unitNo).cid == some cid).map fun x => (x.1, x.2.1, d.rack x.2.2.unitNo)
    sifters := (each.filter fun x => x.2.2.kind == .sifter).map fun x => (x.1, x.2.1, d.sifter x.2.2.unitNo)
    chains := [] }

/-- The image of one resident load: its pages by place (py·16 + px) and its spans by place and FE, as a save or a cut keeps them. -/
def captureLoad (d : Dev) (cid : Nat) (l : Load) (kind : Nat) : Save :=
  { kind, load := l, isles := captureIsles d cid l
    pages := (l.pages.map fun p => (((d.page p).py * 16 + (d.page p).px), d.page p))
    spans := (d.spans.filter fun e => l.holds (pageOfFe e.1)).map fun e =>
      (((d.page (pageOfFe e.1)).py * 16 + (d.page (pageOfFe e.1)).px) * 64 + e.1 % 64, e.2) }

/-- A checkpoint without the state of any span. -/
def emptyCut (d : Dev) (cid : Nat) (l : Load) (n : BitVec 16) : Cut :=
  let all := captureLoad d cid l 1
  ⟨n, { all with spans := [], pages := all.pages.map fun e => (e.1, { e.2 with toks := [], accs := [], barriers := [] }) }, [], (d.graph cid).pool, []⟩

/-- State of one span and its held tokens put into a checkpoint (R352). -/
def cutSave (d : Dev) (key : Nat) (b : Save) : Save :=
  let p := d.page (pageOfFe key)
  let at_ := p.py * 16 + p.px
  let pg := (b.pages.find? at_).getD {}
  { b with
    spans := b.spans.set (at_ * 64 + key % 64) (d.span key)
    pages := b.pages.set at_ { pg with toks := pg.toks ++ p.toks.filter (fun e => e.tok.dest.key == key)
                                       accs := pg.accs ++ p.accs.filter (fun a => a.span == key)
                                       barriers := pg.barriers ++ p.barriers.filter (fun b => b.span == key) } }

/-- A span that enters round `n` is saved for cut `n` (R352). -/
def cutSpan (d : Dev) (cid key : Nat) (n : BitVec 16) : Dev :=
  if !(d.ctx cid).contain then d else
  match (d.graph cid).load with
  | none => d
  | some l =>
    d.modHold cid fun h => { h with undo := h.undo.map fun u =>
      let c := (u.begun.find? (·.n == n)).getD (emptyCut d cid l n)
      { u with begun := u.begun.filter (·.n != n) ++ [{ c with save := cutSave d key c.save, waits := c.waits ++ h.waits.filter (·.span == key) }] } }

/-- The island input delivers marker `n` once every span has entered round n + 1 and the engine tasks of round n or earlier are done
(R380). `busy` says that such a task remains. -/
def islandMarker (busy : Dev → Nat → BitVec 16 → Bool) (cid : Nat) (t : Tag) (d : Dev) : Dev :=
  let g := d.graph cid
  match g.load with
  | none => d
  | some l =>
    let us := unitsOfLoad d l
    if us.all (fun k => reached (d.span k) g.islRound) && !us.isEmpty && !busy d cid g.islRound then
      let d := us.foldl (fun d k => { d with net := d.net ++ [⟨cid, .island, .elem, markerTok t (lanesOf (d.span k).wid) g.islRound k⟩] }) d
      d.modGraph cid fun g => { g with islRound := g.islRound + 1 }
    else d

/-- A span in round n enters round n + 1: its state is cut, marker n goes to its outputs, and with the first span of the load to enter, to
every loader input (R36, R380). -/
def enterRound (cid key : Nat) (t : Tag) (d : Dev) : Dev :=
  let n := (d.span key).rnd.round
  let d := d.modSpan key fun sp => { sp with rnd := { sp.rnd with round := n + 1 } }
  let d := cutSpan d cid key (n + 1)
  let d := (outputSpans d key).foldl (fun d k =>
    { d with net := d.net ++ [⟨cid, .span key, .elem, markerTok t (lanesOf (d.span k).wid) n k⟩] }) d
  match (d.graph cid).load with
  | none => d
  | some l =>
    if (d.graph cid).ldrRound = n then
      let d := (unitsOfLoad d l).foldl (fun d k =>
        { d with net := d.net ++ [⟨cid, .loader, .elem, markerTok t (lanesOf (d.span k).wid) n k⟩] }) d
      d.modGraph cid fun g => { g with ldrRound := n + 1 }
    else d

/-- Every input of a span has delivered marker `n`. -/
def allInputs (sp : Span) (n : BitVec 16) : Bool := sp.rnd.inputs.all fun e => match e.2 with | some m => m == n || roundAfter m n | none => false

/-- Once cut n + 1 is complete, its checkpoint takes the tokens recorded for it and becomes the last complete cut, and older log records are freed
(R352, R381). -/
def completeCut (cid : Nat) (n : BitVec 16) (d : Dev) : Dev :=
  match (d.graph cid).load with
  | none => d
  | some l =>
    let us := unitsOfLoad d l
    if us.all (fun k => allInputs (d.span k) n && reached (d.span k) n) then
      let recs := us.flatMap fun k => ((d.span k).rnd.recorded.filter (·.1 == n + 1)).map (·.2)
      let d := us.foldl (fun d k => d.modSpan k fun sp => { sp with rnd := { sp.rnd with recorded := sp.rnd.recorded.filter (·.1 != n + 1) } }) d
      d.modHold cid fun h => { h with undo := h.undo.map fun u =>
        match (u.begun.find? fun c => c.n == n + 1) with
        | none => u
        | some c =>
          let keep := u.lines.filter fun l => roundAfter l.1 n
          { u with cut := some { c with recs := recs }, begun := u.begun.filter (·.n != n + 1), tries := 0, lines := keep
                   used := Config.undoRecord * keep.length, poison := false } }
    else d

/-- A span has entered its first round of the load: a counter that stands at 0 again has had a marker of the islands or of the loader. -/
def RoundSt.begun (r : RoundSt) : Bool := r.round != 0 || r.inputs.any fun e => e.2.isSome && (e.1 == .island || e.1 == .loader)

/-- ROUND waits while an input owes marker n − 1; before the first round of the load nothing is owed (R382). -/
def roundHeld (d : Dev) (key : Nat) : Bool := (d.span key).rnd.begun && !allInputs (d.span key) ((d.span key).rnd.round - 1)

/-- An engine task of a context of round `n` or earlier is not completed, or its results have not left (R380). -/
def busyRound (d : Dev) (cid : Nat) (n : BitVec 16) : Bool :=
  let early := fun p : Packet => p.cid == cid && !roundAfter p.round n
  d.chans.any fun e =>
    e.2.packets.any early || e.2.tasks.any (fun t => (t.pk.map early).getD false) || e.2.results.any (·.cid == cid)

/-- The island input delivers its markers as soon as it may (R380). -/
def islandTry (cid : Nat) (t : Tag) (d : Dev) : Dev := islandMarker busyRound cid t d

/-- ROUND starts a round (R184). -/
def execRound (n : NodeRec) (s : State) : Out :=
  lift (fire (.round n) n
    { ports := portsOf (.round n) n
      waits := fun x d => roundHeld d x.key
      act := fun x d => islandTry x.cid x.f.tag (enterRound x.cid x.key x.f.tag d) }) s

/-- MARKER_ARRIVAL: marker n is taken by the span's round logic (R36, R380 to R382). -/
def execMarkerArrival (s : State) : Out :=
  lift (fun d =>
    match d.occ with
    | .flight k =>
      match d.net[k]? with
      | some f =>
        let cid := f.cid
        let key := f.tok.dest.key
        let here := ((d.graph cid).load.map fun l => l.die == f.tok.dest.die && l.holds (pageOfFe key)).getD false
        if f.tok.cls != .marker || !isHead d k f || !here then d
        else
          let n := f.tok.tag.iter
          let inp := inputOf f.src
          let d := { d with net := dropNth k d.net }
          let d := d.modSpan key fun sp =>
            { sp with rnd := { sp.rnd with inputs := sp.rnd.inputs.map fun e => if e.1 == inp then (inp, some n) else e } }
          let d := if (d.span key).rnd.round = n then enterRound cid key f.tok.tag d else d
          islandTry cid f.tok.tag (completeCut cid n d)
      | none => d
    | _ => d) s

/-- The last marker that a sender in round `n` has sent: none before its first. -/
def lastMarker (begun : Bool) (n : BitVec 16) : Option (BitVec 16) := if begun then some (n - 1) else none

/-- The inputs of a span as the node records now have them (R379): those that stand keep their markers; a new one is taken to have delivered every
marker below its sender's round; one that no record names any more goes. -/
def inputsNow (d : Dev) (g : Graph) (us : List Nat) (k : Nat) (r : RoundSt) : List (RInput × Option (BitVec 16)) :=
  let now := ((us.filter fun j => (outputSpans d j).contains k).map fun j => (RInput.span j, lastMarker (d.span j).rnd.begun (d.span j).rnd.round))
    ++ [(.island, lastMarker (g.islRound != 0) g.islRound), (.loader, lastMarker (g.ldrRound != 0) g.ldrRound)]
  now.map fun e => (r.inputs.find? (·.1 == e.1)).getD e

/-- A WRNODE brings the inputs of every span of the load up to date (R379); a cut that waited for an input that is gone may now be complete. -/
def updateInputs (cid : Nat) (d : Dev) : Dev :=
  match (d.graph cid).load with
  | none => d
  | some l =>
    let us := unitsOfLoad d l
    let d' := us.foldl (fun d' k => d'.modSpan k fun sp => { sp with rnd := { sp.rnd with inputs := inputsNow d (d.graph cid) us k sp.rnd } }) d
    (((d'.hold cid).undo.map (·.begun)).getD []).foldl (fun d c => completeCut cid (c.n - 1) d) d'

end Sys2Proof.Machine
end

