-- ==== Sys2Proof/Machine/Block.lean ====
section
/-! DEFINITION. Meanings of the block-format and statistics instructions (R149 to R158). -/

namespace Sys2Proof.Machine

/-- R151: Emits the FP32 block amax per block, optionally folded with an earlier amax. -/
def execAmax (n : NodeRec) (s : State) : Out := lift (arith (.amax n) n resAmax) s

/-- R152: Computes block scales for a target and emits only the scale token. -/
def execScaleq (n : NodeRec) (s : State) : Out := lift (arith (.scaleq n) n resScaleq) s

/-- R153: Quantises blocks into an MX or DX stream with a computed or supplied scale. -/
def execQnt (n : NodeRec) (s : State) : Out := lift (arith (.qnt n) n resQnt) s

/-- R154: Decodes an MX or DX b32 stream into a floating-point format. -/
def execDqnt (n : NodeRec) (s : State) : Out := lift (arith (.dqnt n) n resDqnt) s

/-- R155: Packs the low W bits of each byte into a b32 stream. -/
def execPack (n : NodeRec) (s : State) : Out := lift (arith (.pack n) n resPack) s

/-- R155: Unpacks W-bit elements into bytes. -/
def execUnpack (n : NodeRec) (s : State) : Out := lift (arith (.unpack n) n resUnpack) s

/-- R157: Adds two stat tokens lane by lane, saturating. -/
def execSsum (n : NodeRec) (s : State) : Out := lift (arith (.ssum n) n resSsum) s

/-- R158: Decodes a scale token into FP32 scale values. -/
def execCvtsDec (n : NodeRec) (s : State) : Out := lift (arith (.cvtsDec n) n resCvtsDec) s

/-- R158: Encodes FP32 values into a scale token. -/
def execCvtsEnc (n : NodeRec) (s : State) : Out := lift (arith (.cvtsEnc n) n resCvtsEnc) s

/-- STAT emits the span's count set and clears it unless KEEP is set (R156). -/
def execStat (n : NodeRec) (s : State) : Out :=
  lift (fire (.stat n) n
    { ports := portsOf (.stat n) n
      act := fun x d =>
        let p := statToken x.lanes (d.span x.key).counts
        let d := emit2 x d .stat .stat 0 p p
        if bitAt x.lit 0 then d else d.modSpan x.key fun sp => { sp with counts := .zero } }) s

end Sys2Proof.Machine
end

