-- ==== Sys2Proof/Machine/Rebase.lean ====
section
/-! DEFINITION. Moving a load: every place that names an FE of it is rewritten (R106, R385, R422), the slot tables of its links (R369),
releasing its pages (R193, R414), and putting saved pages back. -/

namespace Sys2Proof.Machine

/-! ### Rewriting places -/

/-- The FE key at the same place of a load that has moved; other keys stay. -/
def moveKey (a b : Load) (k : Nat) : Nat :=
  let p := k / 64 % 80
  if k / 5120 == a.die && decide (a.row ≤ p / 10) && decide (p / 10 < a.row + a.h) && decide (a.col ≤ p % 10) && decide (p % 10 < a.col + a.w) then
    feKey b.die ((p / 10 - a.row + b.row) * 10 + (p % 10 - a.col + b.col)) (k % 64)
  else k

section
variable (f : Nat → Nat)

def mvDest (t : Dest) : Dest := destAt (f t.key) t.node t.port
def mvTok (t : Token) : Token := { t with dest := mvDest f t.dest }
def mvEntry (e : Entry) : Entry :=
  { e with tok := mvTok f e.tok, role := match e.role with | .queued k => .queued (f k) | r => r }
def mvStaged (s : Staged) : Staged := { s with l := mvTok f s.l, r := s.r.map (mvTok f), c := s.c.map (mvTok f), p := s.p.map (mvTok f) }

def mvSpan (s : Span) : Span :=
  { s with
    loops := s.loops.map fun l => { l with entry := mvTok f l.entry, exit := l.exit.map fun e => (e.1, mvTok f e.2) }
    eosws := s.eosws.map fun e => { e with held := e.held.map (mvTok f) }
    timers := s.timers.map fun t => { t with dsts := t.dsts.map (mvDest f), tok := mvTok f t.tok }
    sinks := s.sinks.map fun k => { k with stage := k.stage.map (mvStaged f) }
    rnd := { s.rnd with
      inputs := s.rnd.inputs.map fun e => (match e.1 with | .span k => .span (f k) | i => i, e.2)
      recorded := s.rnd.recorded.map fun e => (e.1, mvTok f e.2) }
    farQ := s.farQ.map (mvTok f) }

def mvAcc (a : Access) : Access :=
  { a with span := f a.span, tok := mvTok f a.tok, dataTo := a.dataTo.map (mvDest f), doneTo := a.doneTo.map (mvDest f), emit := mvTok f a.emit }

def mvPage (p : Page) : Page :=
  { p with
    toks := p.toks.map (mvEntry f)
    accs := p.accs.map (mvAcc f)
    barriers := p.barriers.map fun b => { b with span := f b.span, toks := b.toks.map (mvTok f) } }

def mvPacket (p : Packet) : Packet := { p with span := f p.span, a := p.a.map (mvDest f), b := p.b.map (mvDest f) }
def mvResult (r : Result) : Result := { r with tok := mvTok f r.tok }

/-- The packets, tasks and results of one context in a channel. -/
def mvChan (cid : Nat) (c : Chan) : Chan :=
  let pk := fun p : Packet => if p.cid == cid then mvPacket f p else p
  let rs := fun r : Result => if r.cid == cid then mvResult f r else r
  { packets := c.packets.map pk
    tasks := c.tasks.map fun t => { t with pk := t.pk.map pk, out := t.out.map rs, pend := t.pend.map fun e => (e.1, rs e.2) }
    results := c.results.map rs }

def mvWait (w : Wait) : Wait := { w with span := f w.span, toks := w.toks.map (mvTok f) }

def mvLoad (l : Load) : Load :=
  let k := f (feKey l.die (l.row * 10 + l.col) 0)
  { l with die := k / 5120, row := k / 64 % 80 / 10, col := k / 64 % 80 % 10 }

/-- A checkpoint of a load that has moved. -/
def mvCut (c : Cut) : Cut :=
  { c with
    save := { c.save with load := mvLoad f c.save.load, pages := c.save.pages.map fun e => (e.1, mvPage f e.2), spans := c.save.spans.map fun e => (e.1, mvSpan f e.2) }
    recs := c.recs.map (mvTok f), waits := c.waits.map (mvWait f) }

def mvUndo (u : Undo) : Undo :=
  { u with
    lines := u.lines.map fun l => if l.2.1 < 2 ^ 60 then l else
      (l.1, storeKey (f ((l.2.1 - 2 ^ 60) / 2 ^ 22 * 64) / 64) (l.2.1 % 2 ^ 22), l.2.2)
    cut := u.cut.map (mvCut f), begun := u.begun.map (mvCut f) }

def mvHold (h : Hold) : Hold :=
  { h with toks := h.toks.map (mvTok f), away := h.away.map (mvTok f), waits := h.waits.map (mvWait f), undo := h.undo.map (mvUndo f) }

end

/-- Rewrite what stays outside the pages: tokens in transit, engine work and what the loader holds of a context. -/
def mvOutside (f : Nat → Nat) (cid : Nat) (d : Dev) : Dev :=
  { d with
    net := d.net.map fun x => if x.cid == cid then
        { x with tok := mvTok f x.tok, src := match x.src with | .span k => .span (f k) | .box k b => .box (f k) (f b) | s => s } else x
    chans := d.chans.map fun e => (e.1, mvChan f cid e.2)
    combs := d.combs.map fun c => { c with held := c.held.map fun h => if h.tok.tag.cid.toNat == cid then { h with key := f h.key, tok := mvTok f h.tok } else h }
    holds := d.holds.map fun e => if e.1 == cid then (e.1, mvHold f e.2) else e }

/-! ### Slot tables (R361 to R369) -/

/-- FE of a port's attachment: (0,0), (7,0), (0,7), (7,7) (R362). -/
def portFe (k : Nat) : Nat := match k with | 0 => 0 | 1 => 7 | 2 => 56 | _ => 63

/-- Links of the XY route between two FEs of a page: box and output port (1 north, 2 east, 3 south, 4 west). -/
def routeLinks (a b : Nat) : List (Nat × Nat) :=
  let ax := a % 8
  let ay := a / 8
  let bx := b % 8
  let by_ := b / 8
  let xs := if ax ≤ bx then (List.range (bx - ax)).map fun k => (ay * 8 + ax + k, 2) else (List.range (ax - bx)).map fun k => (ay * 8 + ax - k, 4)
  let ys := if ay ≤ by_ then (List.range (by_ - ay)).map fun k => ((ay + k) * 8 + bx, 3) else (List.range (ay - by_)).map fun k => ((ay - k) * 8 + bx, 1)
  xs ++ ys

/-- Links of a stream's path in a page (R369): FE and output port, the port link as port 5. -/
def streamPath (users : List Nat) (port : Nat) : List (Nat × Nat) :=
  ((users.flatMap fun u => routeLinks u (portFe port) ++ routeLinks (portFe port) u) ++ [(portFe port, 5)]).dedup

/-- Slot entries: KIND in [15:14], PORT and STREAM (R368). A slot not yet given is none. -/
def strmSlot (port id : Nat) : Nat := 2 * 2 ^ 14 + port * 2 ^ 8 + id

/-- Place `k` slots of an entry at evenly spread targets: each takes the first free slot at or after its target, cyclically. -/
def placeSlots (e : Nat) (k : Nat) (t : List (Option Nat)) : List (Option Nat) :=
  (List.range k).foldl (fun t j =>
    match (List.range 16).find? fun o => (t[(16 * j / k + o) % 16]?).join.isNone with
    | some o => modNth (fun _ => some e) ((16 * j / k + o) % 16) t
    | none => t) t

/-- A whole table from the streams that use a link, in order: none where fewer than two TOKN or two DYN slots are left. -/
def slotTable (uses : List (Nat × Nat)) : Option (List Nat) :=
  if (uses.map (·.2)).sum > 12 then none
  else
    let t := uses.foldl (fun t u => placeSlots u.1 u.2 t) (List.replicate 16 (none : Option Nat))
    let free := (indexed t).filterMap fun (i, x) => if x.isNone then some i else none
    let dyn := free.drop (free.length - 2)
    some ((indexed t).map fun (i, x) => match x with | some e => e | none => if dyn.contains i then 1 * 2 ^ 14 else 0)

/-- The streams with a rate on each link of a page, in ascending order of id: link, then entries with their slot counts. -/
def pageLinks (streams : List StreamDef) (users : Nat → List Nat) : List ((Nat × Nat) × List (Nat × Nat)) :=
  let ss := sortBy (fun a b : StreamDef => decide (a.id < b.id)) (streams.filter (·.num != 0))
  let paths := ss.map fun s => (s, streamPath (users s.id) s.port)
  ((paths.flatMap (·.2)).dedup).map fun l =>
    (l, (paths.filter fun p => p.2.contains l).map fun p => (strmSlot p.1.port p.1.id, ceilDiv (16 * p.1.num) p.1.den))

/-- Streams can all be given their slots (R121). -/
def ratesFit (streams : List StreamDef) (users : Nat → List Nat) : Bool := (pageLinks streams users).all fun e => (slotTable e.2).isSome

/-- FEs of a page whose nodes name a stream. -/
def streamUsers (d : Dev) (pg id : Nat) : List Nat :=
  (List.range 64).filter fun fe => (d.span (pg * 64 + fe)).nodes.any fun e =>
    match instrOf? e.2 with
    | some i => (match partsOf i with | some (_, _, n) => streamOf i n == some id | none => false)
    | none => false

/-- Key of a link: FE key and output port. -/
def linkKey (pg : Nat) (l : Nat × Nat) : Nat := (pg * 64 + l.1) * 8 + l.2

/-- Recompute the slot tables of a load's links. -/
def setSlots (d : Dev) (l : Load) : Dev :=
  let cleared := d.slots.filter fun e => !l.holds (pageOfFe (e.1 / 8))
  let new := l.pages.flatMap fun pg =>
    (pageLinks (d.page pg).streams (streamUsers d pg)).filterMap fun e => (slotTable e.2).map fun t => (linkKey pg e.1, t)
  { d with slots := new.foldl (fun t e => Tab.set t e.1 e.2) cleared }

/-! ### Releasing and binding -/

/-- A page that no load holds: what stands is kept, its tokens, accesses and configuration go (R196). -/
def idlePage (p : Page) : Page :=
  { cycles := p.cycles, stall := p.stall, tlb := p.tlb, miss := p.miss, ftz := p.ftz, store := p.store, poison := p.poison, offline := p.offline }

/-- The islands that a load's gateways hold exclusively (R375). -/
def Load.isles (l : Load) : List Isle :=
  l.gws.flatMap fun g => match g.kind with | .leaven | .coll => [] | _ => g.isles

/-- Unbind one island; its state stays until a placement clears it (R238). -/
def unbindIsle (cid : Nat) (keep : Bool) (d : Dev) (i : Isle) : Dev :=
  match i.kind with
  | .hearth => d.modTile i.tileNo fun t => { t with cid := none, held := if keep then some cid else t.held, inbound := if keep then [] else t.inbound }
  | .sifter => d.modSifter i.unitNo fun t => { t with cid := none }
  | .rack => d.modRack i.unitNo fun t => { t with cid := none }
  | _ => d

/-- The pages of a load are released, with their spans; its islands too unless they stay bound. -/
def releaseLoad (d : Dev) (cid : Nat) (keep : Bool) (isles : Bool) : Dev :=
  match (d.graph cid).load with
  | none => d
  | some l =>
    let d := l.pages.foldl (fun d p => d.modPage p idlePage) { d with spans := d.spans.filter fun e => !l.holds (pageOfFe e.1) }
    let d := if isles then l.isles.foldl (unbindIsle cid keep) d else d
    { d.modGraph cid (fun g => { g with load := none, reloc := false }) with
      slots := d.slots.filter (fun e => !l.holds (pageOfFe (e.1 / 8)))
      loader := { d.loader with decide := true, placed := d.loader.placed + 1 } }

/-- Drop every token of a context in transit. -/
def dropNet (d : Dev) (cid : Nat) : Dev :=
  { d with
    net := d.net.filter fun f => f.cid != cid
    combs := d.combs.map fun c => { c with held := c.held.filter fun h => h.tok.tag.cid.toNat != cid } }

/-- Saved pages and spans put at a load's new place, with every place in them rewritten. -/
def putLoad (d : Dev) (cid : Nat) (s : Save) (l : Load) : Dev :=
  let f := moveKey s.load l
  let pgOf := fun at_ : Nat => l.die * 80 + (l.row + at_ / 16) * 10 + l.col + at_ % 16
  let d := s.pages.foldl (fun d e => d.modPage (pgOf e.1) fun p =>
    { mvPage f e.2 with cid := some (BitVec.ofNat 6 cid), w := l.w, h := l.h, px := e.1 % 16, py := e.1 / 16, tlb := [], miss := p.miss
                        offline := p.offline }) d
  s.spans.foldl (fun d e => d.modSpan (pgOf (e.1 / 64) * 64 + e.1 % 64) fun _ => mvSpan f e.2) d

end Sys2Proof.Machine
end

