-- ==== Sys2Proof/Machine/SaveArea.lean ====
section
/-! DEFINITION. The bytes of a save area (R417 to R421). The saved state itself is `Save`; these are the bytes that memory then holds at
SAVEPA. -/

namespace Sys2Proof.Machine

def pad16 (bs : List Byte) : List Byte := bs ++ List.replicate ((16 - bs.length % 16) % 16) 0
def fieldOf (v n : Nat) : List Byte := pad16 (bytesOf v n)
def images (ts : List Token) : List Byte := ts.flatMap fun t => pad16 t.image

/-! ### Node-state records (R420) -/

def nsRecord (kind fe node frame : Nat) (body : List Byte) : List Byte :=
  bytesOf kind 1 ++ bytesOf fe 1 ++ bytesOf node 2 ++ bytesOf frame 2 ++ bytesOf 0 2 ++ bytesOf body.length 4 ++ bytesOf 0 4 ++ body

def nsLoop (s : Span) (l : LoopSt) : List Byte :=
  let lit := ((s.nodes.getD l.node 0).toNat) % 2 ^ 32
  fieldOf l.n 4 ++ fieldOf l.adm 4 ++ fieldOf ((l.exit.map (·.1)).getD 0) 4 ++ fieldOf l.entry.tag.iter.toNat 2 ++ fieldOf (fld lit 14 0 + 1) 2
  ++ fieldOf (fld lit 29 15 + 1) 2 ++ fieldOf l.entry.seq.toNat 4 ++ fieldOf l.off 4 ++ fieldOf (boolNat l.exit.isSome) 1
  ++ images (l.entry :: (l.exit.map (·.2)).toList)

/-- First node of a span (0 where it has none). -/
def firstNode (s : Span) : Nat := match s.nodes with | e :: _ => e.1 | [] => 0

def inputBytes (e : RInput × Option (BitVec 16)) : List Byte :=
  let last := ((e.2.map BitVec.toNat).getD 0)
  match e.1 with
  | .span k => bytesOf 0 1 ++ bytesOf (k % 64) 1 ++ bytesOf (k / 64 % 80) 1 ++ bytesOf last 2
  | .island => bytesOf 1 1 ++ bytesOf 0 2 ++ bytesOf last 2
  | .loader => bytesOf 2 1 ++ bytesOf 0 2 ++ bytesOf last 2

/-- The body of a round-state record. -/
def roundBody (r : RoundSt) : List Byte :=
  fieldOf r.round.toNat 2 ++ fieldOf r.inputs.length 2 ++ pad16 (r.inputs.flatMap inputBytes) ++ images (r.recorded.map (·.2))

/-- The tokens of a staged firing, its L first. -/
def Staged.toks (g : Staged) : List Token := g.l :: (g.r.toList ++ g.c.toList ++ g.p.toList)

/-- The body of an ordered sink's record: X, and every token of its reorder entries. -/
def sinkBody (k : SinkSt) : List Byte := fieldOf k.x.toNat 4 ++ images (k.stage.flatMap Staged.toks)

/-- The node-state records of one span anchored at FE `fe`. -/
def nsSpan (fe : Nat) (s : Span) : List Byte :=
  s.loops.flatMap (fun l => nsRecord 1 fe l.node l.frame.toNat (nsLoop s l))
  ++ s.eosws.flatMap (fun e => nsRecord 2 fe e.node e.frame.toNat (fieldOf e.count 4 ++ images e.held))
  ++ s.cntrs.flatMap (fun e => nsRecord 3 fe e.node e.frame.toNat (fieldOf e.count 4))
  ++ ((s.timers.map (·.node)).dedup).flatMap (fun n =>
      let ts := s.timers.filter (·.node == n)
      nsRecord 4 fe n 0 (fieldOf ts.length 4 ++ ts.flatMap fun t => fieldOf t.left.toNat 4 ++ pad16 t.tok.image))
  ++ s.seqs.flatMap (fun e => nsRecord 5 fe e.1 0 (fieldOf e.2.toNat 4))
  ++ s.sinks.flatMap (fun k => nsRecord 6 fe k.node 0 (sinkBody k))
  ++ nsRecord 7 fe (firstNode s) 0 (pad16 (s.counts.toList.flatMap fun v => bytesOf v 4))
  ++ nsRecord 8 fe (firstNode s) 0 (roundBody s.rnd)

/-! ### Page sections (R419) -/

/-- Saved spans of a page: those at its place. -/
def Save.spansAt (s : Save) (at_ : Nat) : List (Nat × Span) := (s.spans.filter fun e => e.1 / 64 == at_).map fun e => (e.1 % 64, e.2)

/-- Node-state bytes of a page. -/
def nsPage (s : Save) (at_ : Nat) : List Byte := (s.spansAt at_).flatMap fun e => nsSpan e.1 e.2

/-- A matching store, entry by entry. One that holds node state has V clear: it is saved as a record. -/
def matchPieces (p : Page) (fe : Nat) (s : Span) : List Piece :=
  let size := 32 + 4 * lanesOf s.wid
  ((indexed (p.toks.filter fun e => e.place == .store && e.tok.dest.fe == fe)).filter fun x => x.2.role != .state).map fun (k, e) => (0x4C0000 + 4096 * fe + k * size, entryImage e)

def stallPieces (fe : Nat) (s : Span) : List Piece :=
  s.stalls.map fun e => (0x540000 + 4 * (1024 * fe + e.1), stallBytes e.2)

/-- Held accesses and held stores: the 64-byte head (fields of 8 bytes in the order of R419), then 512 bytes of lanes. -/
def heldRecord (a : Access) : List Byte :=
  let e := a.els.head?
  bytesOf (a.fault.getD 0) 8 ++ bytesOf a.port 8 ++ bytesOf a.stream 8 ++ bytesOf ((e.map (·.size)).getD 0) 8 ++ bytesOf ((e.map (·.va)).getD 0) 8
  ++ bytesOf (a.tok.header / 2 ^ 64) 8 ++ bytesOf a.tok.seq.toNat 8 ++ bytesOf 0 8
  ++ (List.range 128).flatMap fun j =>
      let v := (a.els.find? fun x => decide (x.lane ≤ j) && decide (j < x.lane + x.size / 4)).map fun x => x.val / 2 ^ (32 * (j - x.lane))
      bytesOf ((v.getD 0) % 2 ^ 32) 4

/-- Tokens held for MSFULL or waiting in VC1, node state that waits there apart: it is saved as records (R419). -/
def waitsHeld (e : Entry) : Bool := ((heldPlace e).isSome || e.place == .vc1) && e.role != .state
/-- Those held come first, as they are inserted first (R416). -/
def heldArrivals (p : Page) : List Token :=
  (p.toks.filter fun e => (heldPlace e).isSome && e.role != .state).map (·.tok) ++ (p.toks.filter fun e => e.place == .vc1 && e.role != .state).map (·.tok)

/-- Bytes of an entry of a page's spill table: WIDMAX is the largest WID among the page's spans (R27). -/
def Save.tableEntry (s : Save) (at_ : Nat) : Nat :=
  32 + 32 * 2 ^ ((s.spansAt at_).foldl (fun m e => if e.2.anchor then max m e.2.wid else m) 0)

/-- What has been in use since the placement holds no stated value: free bytes; of an entry of the spill table that its token has left, header bits [26:0] are zero
(R377). -/
def stalePieces (fr : Nat) (s : Save) (at_ : Nat) (p : Page) : List Piece :=
  let n := s.tableEntry at_
  p.stale.flatMap fun r =>
    (r.1, bytesOf (Config.freeBits (8 * r.2) (fr + r.1)).toNat r.2)
    :: ((List.range (2 ^ p.spillLog)).filter fun i => decide (r.1 ≤ p.spillBase + i * n) && decide (p.spillBase + i * n + 4 ≤ r.1 + r.2)).map fun i =>
        (p.spillBase + i * n, bytesOf ((Config.freeBits 32 (fr + p.spillBase + i * n)).toNat / 2 ^ 27 * 2 ^ 27) 4)

/-- The retirement bitmaps of a page's loops, in its loop area (R169, R358). -/
def loopPieces (sp : List (Nat × Span)) : List Piece :=
  sp.flatMap fun e => e.2.loops.map fun l => (0x3E0000 + l.off, bitmapBytes (loopWindow e.2 l) l)

/-- The page store, whole: its bytes, then what is left of former use, the bitmaps of loops, and the entries of the spill table as images with V and PARKED (R27, R108,
R358, R377). -/
def storePieces (fr : Nat) (s : Save) (at_ : Nat) (p : Page) : List Piece :=
  p.store.map (fun e => (e.1, [e.2])) ++ stalePieces fr s at_ p ++ loopPieces (s.spansAt at_)
  ++ p.toks.filterMap fun e => match e.place with | .table i => some (p.spillBase + i * s.tableEntry at_, entryImage e) | _ => none

/-- One page section, its offset relative to the section; `nsoff` is where its node-state records begin, `fr` the moment of its free values. -/
def pageSection (fr : Nat) (s : Save) (at_ nsoff : Nat) (p : Page) : List Piece :=
  let sp := s.spansAt at_
  let accs := sortBy (fun a b : Access => decide (a.port < b.port) || (a.port == b.port && decide (a.acc.getD 0 < b.acc.getD 0))) p.accs
  storePieces fr s at_ p
  ++ sp.flatMap (fun e => e.2.nodes.map fun n => (0x400000 + 12 * (1024 * e.1 + n.1), bytesOf n.2.toNat 12))
  ++ sp.flatMap (fun e => matchPieces p e.1 e.2)
  ++ sp.flatMap (fun e => if e.2.farQ.isEmpty then [] else
      [(0x500000 + 4096 * e.1, bytesOf e.2.farQ.length 8 ++ e.2.farQ.flatMap (·.image))])
  ++ sp.flatMap (fun e => stallPieces e.1 e.2)
  ++ [(0x580000, bytesOf p.cycles.toNat 8 ++ bytesOf (stallcnt p) 8 ++ bytesOf p.spillBase 8 ++ bytesOf p.spillLog 8 ++ bytesOf nsoff 8
        ++ bytesOf (nsPage s at_).length 8)]
  ++ [(0x580800, bytesOf accs.length 8 ++ accs.flatMap heldRecord)]
  ++ [(0x5B0000, bytesOf (heldArrivals p).length 8 ++ (heldArrivals p).flatMap (·.image))]

/-! ### The whole area (R417, R418) -/

def mib : Nat := 2 ^ 20
def up64k (n : Nat) : Nat := (n + 65535) / 65536 * 65536

/-- Tiles, Racks and Sifters that a load binds. -/
def Load.bound (l : Load) (k : IsleKind) : Nat := ((l.gws.filter (·.kind == k)).map fun g => g.isles.length).sum

def fixedSize (l : Load) : Nat :=
  0x10000 + l.w * l.h * 7 * mib + l.bound .hearth * 17 * mib + l.bound .rack * 32 * mib + l.bound .sifter * 0x40000

def nsLength (s : Save) : Nat := (s.pages.map fun e => (nsPage s e.1).length).sum

/-- The needed size (R417). -/
def neededSize (s : Save) : Nat := fixedSize s.load + up64k (nsLength s)

def headerPieces (d : Dev) (cid : Nat) (s : Save) : List Piece :=
  let g := d.graph cid
  [(0x000, bytesOf 0x45564153 4 ++ bytesOf s.kind 1 ++ bytesOf cid 1), (0x008, bytesOf s.load.ix 4 ++ bytesOf s.load.w 1 ++ bytesOf s.load.h 1),
   (0x010, bytesOf g.lrec.imgva 8 ++ bytesOf (s.load.bound .hearth) 4 ++ bytesOf (s.load.bound .rack) 1 ++ bytesOf (s.load.bound .sifter) 1),
   (0x020, bytesOf (neededSize s) 8 ++ bytesOf g.nextFid 4), (0x030, bytesOf g.pool.length 2)]
  ++ (indexed s.load.gws).map (fun (k, w) =>
      (0x040 + 8 * k, bytesOf (kindCode w.kind) 1 ++ bytesOf w.count 1 ++ bytesOf ((w.isles.head?.map (·.die)).getD 0) 1 ++ bytesOf ((w.isles.head?.map (·.ix)).getD 0) 1))
  ++ [(0x8000, g.pool.flatMap fun f => bytesOf f.toNat 2)]

/-- Offsets of each page's node-state records from the start of the area. -/
def nsOffsets (s : Save) : Nat → List (Nat × Page) → List Nat
  | _, [] => []
  | o, e :: r => o :: nsOffsets s (o + (nsPage s e.1).length) r

/-- Sections of the islands: tiles, then Racks, then Sifters, each in gateway order and then index order. -/
def tileBase (s : Save) (k : Nat) : Nat := 0x10000 + s.load.w * s.load.h * 7 * mib + k * 17 * mib
def rackBase (s : Save) (k : Nat) : Nat := tileBase s (s.load.bound .hearth) + k * 32 * mib
def sifterBase (s : Save) (k : Nat) : Nat := rackBase s (s.load.bound .rack) + k * 0x40000
def pageBase (k : Nat) : Nat := 0x10000 + k * 7 * mib

/-- The chain that a saved tile has begun, by gateway and index. -/
def Save.chainAt (s : Save) (g i : Nat) : Option Task := (s.isles.chains.find? fun x => x.1 == g && x.2.1 == i).map (·.2.2)

/-- A tile section: its weight store, then what `tilePieces` gives and its chain's position. -/
def tileSection (s : Save) (t : Nat × Nat × Nat × Tile) : List Piece :=
  t.2.2.2.ws.map (fun e => (e.1, [e.2])) ++ shiftPieces (16 * mib) (tilePieces t.2.2.2 ++ chainPieces (s.chainAt t.1 t.2.1))

/-- Every piece of a save area (R417 to R421, R443). A Sifter's dispatch buffer and a Rack's output buffer are empty at a save. -/
def savePieces (d : Dev) (cid : Nat) (s : Save) : List Piece :=
  let offs := nsOffsets s (fixedSize s.load) s.pages
  let pages := (indexed (List.zip offs s.pages)).flatMap fun (k, o, e) =>
    (pageSection d.tick s e.1 o e.2).map fun x => (pageBase k + x.1, x.2)
  let tiles := (indexed s.isles.tiles).flatMap fun (k, t) => shiftPieces (tileBase s k) (tileSection s t)
  let racks := (indexed s.isles.racks).flatMap fun (k, t) => shiftPieces (rackBase s k) (rackPieces t.2.2 [])
  let sifters := (indexed s.isles.sifters).flatMap fun (k, t) => shiftPieces (sifterBase s k) (sifterPieces t.2.2 [])
  headerPieces d cid s ++ pages ++ tiles ++ racks ++ sifters ++ (List.zip offs s.pages).map fun (o, e) => (o, nsPage s e.1)

/-- The area is cleared and written, by the loader, at its local PA. -/
def writeSave (d : Dev) (cid : Nat) (s : Save) : Dev :=
  let base := (d.graph cid).lrec.savepa
  let d := writeRun d .loader base (List.replicate (fixedSize s.load) 0)
  (savePieces d cid s).foldl (fun d x => writeRun d .loader (base + x.1) x.2) d

/-- The save would not be given room: no save area, too small, or outside the tiers (R413, R417). -/
def saveFits (d : Dev) (cid : Nat) (s : Save) : Bool :=
  let r := (d.graph cid).lrec
  r.savepa != 0 && decide (neededSize s ≤ r.savesize)


end Sys2Proof.Machine
end

