-- ==== Sys2Proof/Machine/AreaRead.lean ====
section
/-! DEFINITION. What a save area in memory says of the state it keeps (R421): where a graph has written it, the state takes the written
values. Page stores, node memory, stall records and weight stores are the area's bytes; tokens, node-state records and island state
are taken from their images where these differ from what was saved. -/

namespace Sys2Proof.Machine

/-! ### Bytes as the loader reads them -/

def areaBytes (d : Dev) (a n : Nat) : List Byte := (readEl d.mem .loader a n).1
def areaNat (d : Dev) (a n : Nat) : Nat := natOfBytes (areaBytes d a n)

/-- Offsets within a range that may hold a byte other than zero. -/
def areaOffsets (d : Dev) (a n : Nat) : List Nat :=
  let all := d.mem.cells.map (·.1) ++ d.mem.wlog.flatMap fun w => (List.range w.bytes.length).map (w.addr + ·)
  ((all.filter fun x => decide (a ≤ x) && decide (x < a + n)).map (· - a)).dedup

/-- A range as a sparse table of bytes. -/
def areaTab (d : Dev) (a n : Nat) : Tab Byte :=
  (areaOffsets d a n).foldl (fun t o => setStoreByte t o (BitVec.ofNat 8 (areaNat d (a + o) 1))) []

/-- Indexes of the records of `size` bytes in a range that may hold anything. -/
def areaSlots (d : Dev) (a n size : Nat) : List Nat := ((areaOffsets d a n).map (· / size)).dedup

/-! ### Fixed parts of a page section (R419) -/

def Save.modSpan (s : Save) (key : Nat) (f : Span → Span) : Save := { s with spans := Tab.set s.spans key (f (Tab.getD s.spans key {})) }

/-- Node memory and stall records of the page at a place, whose section begins at `a`. -/
def readNodes (d : Dev) (a at_ : Nat) (s : Save) : Save :=
  let old := (s.spansAt at_).flatMap fun e => e.2.nodes.map fun n => 1024 * e.1 + n.1
  let s := (old ++ areaSlots d (a + 0x400000) 0xC0000 12).dedup.foldl (fun s j =>
    s.modSpan (at_ * 64 + j / 1024) fun sp => { sp with nodes := sp.nodes.set (j % 1024) (BitVec.ofNat 96 (areaNat d (a + 0x400000 + 12 * j) 12)) }) s
  let old := (s.spansAt at_).flatMap fun e => e.2.stalls.map fun n => 1024 * e.1 + n.1
  (old ++ areaSlots d (a + 0x540000) 0x40000 4).dedup.foldl (fun s j =>
    let w := areaNat d (a + 0x540000 + 4 * j) 4
    s.modSpan (at_ * 64 + j / 1024) fun sp => { sp with stalls := sp.stalls.set (j % 1024) (fld w 18 16, fld w 15 0) }) s

/-! ### Tokens -/

/-- The bytes of an image, if they are no longer those of a token. -/
def changed (d : Dev) (a : Nat) (was : List Byte) : Option (List Byte) :=
  let now := areaBytes d a was.length
  if now = was then none else some now

/-- A matching store: entry `k` of `size` bytes; an entry with V clear holds nothing, one set holds the token of its image. -/
def readMatch (d : Dev) (a fe : Nat) (sp : Span) (p : Page) : Page :=
  let size := 32 + 4 * lanesOf sp.wid
  let at_ := a + 0x4C0000 + 4096 * fe
  let mine := fun e : Entry => e.place == .store && e.tok.dest.fe == fe
  let states := p.toks.filter fun e => mine e && e.role == .state
  let old := p.toks.filter mine
  let ks := sortBy (fun x y : Nat => decide (x < y)) (List.range old.length ++ areaSlots d at_ (4096 * 2 ^ sp.wid) size).dedup
  let new := ks.filterMap fun k =>
    let img := areaBytes d (at_ + k * size) size
    match old[k]? with
    | some e => if e.role == .state then none else if img = entryImage e then some e else imageEntry img (some e)
    | none => imageEntry img none
  if new = old.filter (·.role != .state) then p else { p with toks := p.toks.filter (fun e => !mine e) ++ states ++ new }

/-- Tokens of the spill table take the images at their entries. -/
def readTable (d : Dev) (a entry : Nat) (p : Page) : Page :=
  { p with toks := p.toks.map fun e =>
      match e.place with
      | .table i => (match changed d (a + p.spillBase + i * entry) (entryImage e) with
          | some bs => { e with tok := (tokenOfImage? bs).getD e.tok, parked := bitAt (natOfBytes (bs.take 16)) 25 }
          | none => e)
      | _ => e }

/-- Arrivals held for MSFULL or waiting in VC1: their count and images. -/
def readHeld (d : Dev) (a : Nat) (p : Page) : Page :=
  let old := heldArrivals p
  let was := bytesOf old.length 8 ++ old.flatMap (·.image)
  match changed d (a + 0x5B0000) was with
  | none => p
  | some _ =>
    let new := imagesOf (areaNat d (a + 0x5B0000) 8) (areaBytes d (a + 0x5B0008) (0x40000 - 8))
    { p with toks := (p.toks.filter fun e => !waitsHeld e) ++ new.map fun t => ⟨t, .vc1, false, .plain⟩ }

/-- An output queue: its count and images. -/
def readQueue (d : Dev) (a fe : Nat) (sp : Span) : Span :=
  let was := bytesOf sp.farQ.length 8 ++ sp.farQ.flatMap (·.image)
  match changed d (a + 0x500000 + 4096 * fe) was with
  | none => sp
  | some _ => { sp with farQ := imagesOf (min 16 (areaNat d (a + 0x500000 + 4096 * fe) 8)) (areaBytes d (a + 0x500008 + 4096 * fe) (16 * 544)) }

/-! ### Node-state records (R420) -/

/-- Field `k` of a body whose fields are padded to 16 bytes. -/
def bodyField (bs : List Byte) (k n : Nat) : Nat := natOfBytes ((bs.drop (16 * k)).take n)

/-- The token whose image begins at field `k` of a body. -/
def bodyTok (bs : List Byte) (k : Nat) (t : Token) : Token := (tokenOfImage? (bs.drop (16 * k))).getD t

/-- Read one record: its body, where it differs, becomes a value; then the offset of the next record. -/
def readRecord {α : Type} (d : Dev) (body : α → List Byte) (f : List Byte → α → α) (acc : List α × Nat) (x : α) : List α × Nat :=
  let bs := body x
  (acc.1 ++ [match changed d (acc.2 + 16) bs with | some n => f n x | none => x], acc.2 + 16 + bs.length)

def loopOf (bs : List Byte) (l : LoopSt) : LoopSt :=
  let e := bodyTok bs 9 l.entry
  let x := bodyTok bs (9 + e.image.length / 16) ((l.exit.map (·.2)).getD e)
  { l with
    n := bodyField bs 0 4, adm := bodyField bs 1 4, off := bodyField bs 7 4
    entry := { e with tag := { e.tag with iter := BitVec.ofNat 16 (bodyField bs 3 2) }, seq := BitVec.ofNat 26 (bodyField bs 6 4) }
    exit := if bitAt (bodyField bs 8 1) 0 then some (bodyField bs 2 4, x) else none }

def eoswBody (e : EoswSt) : List Byte := fieldOf e.count 4 ++ images e.held
def eoswOf (bs : List Byte) (e : EoswSt) : EoswSt := { e with count := bodyField bs 0 4, held := imagesOf e.held.length (bs.drop 16) }

def timerBody (ts : List TimerSt) : List Byte := fieldOf ts.length 4 ++ ts.flatMap fun t => fieldOf t.left.toNat 4 ++ pad16 t.tok.image
def timersOf : List Byte → List TimerSt → List TimerSt
  | _, [] => []
  | bs, t :: r => { t with left := bodyField bs 0 4, tok := bodyTok bs 1 t.tok } :: timersOf (bs.drop (16 + (pad16 t.tok.image).length)) r

/-- Staged firings with the tokens that images give, one after another. -/
def stagedOf : List Staged → List Token → List Staged
  | [], _ => []
  | g :: r, ts =>
    let o := fun (k : Nat) (t : Option Token) => t.map fun t => (ts[k]?).getD t
    let nr := boolNat g.r.isSome
    let nc := boolNat g.c.isSome
    { g with l := (ts[0]?).getD g.l, r := o 1 g.r, c := o (1 + nr) g.c, p := o (1 + nr + nc) g.p } :: stagedOf r (ts.drop g.toks.length)

def sinkBack (bs : List Byte) (k : SinkSt) : SinkSt :=
  { k with x := BitVec.ofNat 26 (bodyField bs 0 4), stage := stagedOf k.stage (imagesOf (k.stage.flatMap Staged.toks).length (bs.drop 16)) }

def countsOf (bs : List Byte) : Counts :=
  let v := fun k : Nat => natOfBytes ((bs.drop (4 * k)).take 4)
  ⟨v 0, v 1, v 2, v 3, v 4⟩

def roundOf (bs : List Byte) (r : RoundSt) : RoundSt :=
  let skip := 32 + (pad16 (r.inputs.flatMap inputBytes)).length
  { round := BitVec.ofNat 16 (bodyField bs 0 2)
    inputs := (indexed r.inputs).map fun (j, e) => (e.1, e.2.map fun _ => BitVec.ofNat 16 (natOfBytes ((bs.drop (32 + 5 * j + 3)).take 2)))
    recorded := List.zip (r.recorded.map (·.1)) (imagesOf r.recorded.length (bs.drop skip)) }

/-- The records of one span from an address on, in the order in which they were written; and the address after them. -/
def readNs (d : Dev) (a : Nat) (s : Span) : Span × Nat :=
  let (loops, a) := s.loops.foldl (readRecord d (nsLoop s) loopOf) ([], a)
  let (eosws, a) := s.eosws.foldl (readRecord d eoswBody eoswOf) ([], a)
  let (cntrs, a) := s.cntrs.foldl (readRecord d (fun e => fieldOf e.count 4) fun bs e => { e with count := bodyField bs 0 4 }) ([], a)
  let groups := ((s.timers.map (·.node)).dedup).map fun n => s.timers.filter (·.node == n)
  let (timers, a) := groups.foldl (readRecord d timerBody fun bs ts => timersOf (bs.drop 16) ts) ([], a)
  let (seqs, a) := s.seqs.foldl (readRecord d (fun e => fieldOf e.2.toNat 4) fun bs e => (e.1, BitVec.ofNat 26 (bodyField bs 0 4))) ([], a)
  let (sinks, a) := s.sinks.foldl (readRecord d sinkBody sinkBack) ([], a)
  let (counts, a) := readRecord d (fun c : Counts => pad16 (c.toList.flatMap fun v => bytesOf v 4)) (fun bs _ => countsOf bs) ([], a) s.counts
  let (rnds, a) := readRecord d roundBody roundOf ([], a) s.rnd
  ({ s with loops, eosws, cntrs, timers := timers.flatten, seqs, sinks, counts := counts.headD s.counts, rnd := rnds.headD s.rnd }, a)

/-- The records of the spans of a page, one span after another. -/
def readNsPage (d : Dev) (at_ a : Nat) (s : Save) : Save :=
  ((s.spansAt at_).foldl (fun (x : Save × Nat) e =>
    let (sp, a) := readNs d x.2 e.2
    (x.1.modSpan (at_ * 64 + e.1) fun _ => sp, a)) (s, a)).1

/-! ### The whole area -/

def readSection (d : Dev) (a entry : Nat) (spans : List (Nat × Span)) (p : Page) : Page :=
  let p := readHeld d a (readTable d a entry p)
  let p := spans.foldl (fun p e => if e.2.anchor then readMatch d a e.1 e.2 p else p) p
  -- the spill table's bytes are its tokens' images; what former use has left, and the loop area, is not the store's
  let tabled := fun e : Nat × Byte => (decide (p.spillBase ≤ e.1) && decide (e.1 < p.spillBase + 2 ^ p.spillLog * entry)) || decide (0x3E0000 ≤ e.1)
  let rest := (areaTab d a 0x400000).filter fun e => !tabled e
  { p with store := (p.store.filter tabled).foldl (fun t e => setStoreByte t e.1 e.2) rest }

/-- The loops of a span with the iterations that their bitmaps leave live. -/
def readLoops (d : Dev) (a : Nat) (sp : Span) : Span :=
  { sp with loops := sp.loops.map fun l =>
      let w := loopWindow sp l
      match changed d (a + 0x3E0000 + l.off) (bitmapBytes w l) with | some bs => { l with live := bitmapLive w l bs } | none => l }

/-- The bytes of a range of memory. -/
def areaSrc (d : Dev) (a n : Nat) : ImgSrc := ⟨fun o => areaNat d (a + o) 1, areaOffsets d a n⟩

/-- A tile as its section has it, and its chain. -/
def readTileSection (d : Dev) (a : Nat) (t : Tile) : Tile :=
  readTile (areaSrc d (a + 16 * mib) mib) { t with ws := areaTab d a (16 * mib) }

/-- A saved load as its area in memory now has it. -/
def areaSave (d : Dev) (cid : Nat) (s : Save) : Save :=
  let base := (d.graph cid).lrec.savepa
  let offs := nsOffsets s (fixedSize s.load) s.pages
  let places := indexed (List.zip offs s.pages)
  let pages := places.map fun (k, _, e) => (e.1, readSection d (base + pageBase k) (s.tableEntry e.1) (s.spansAt e.1) e.2)
  let s := places.foldl (fun s (k, _, e) => (s.spansAt e.1).foldl (fun s x => s.modSpan (e.1 * 64 + x.1) (readLoops d (base + pageBase k))) s) s
  let s := places.foldl (fun s (_, o, e) => readNsPage d e.1 (base + o) s) s
  let s := places.foldl (fun s (k, _, e) =>
    (s.spansAt e.1).foldl (fun s x => s.modSpan (e.1 * 64 + x.1) (readQueue d (base + pageBase k) x.1)) s) s
  let s := places.foldl (fun s (k, _, e) => readNodes d (base + pageBase k) e.1 s) s
  let chains := s.isles.chains.map fun (g, i, t) => match firstIdx (fun x : Nat × Nat × Nat × Tile => x.1 == g && x.2.1 == i) s.isles.tiles with
    | some k => (g, i, readChain (areaSrc d (base + tileBase s k + 16 * mib) mib) t)
    | none => (g, i, t)
  let tiles := (indexed s.isles.tiles).map fun (k, g, i, n, t) => (g, i, n, readTileSection d (base + tileBase s k) t)
  let racks := (indexed s.isles.racks).map fun (k, g, i, r) => (g, i, readRack (areaSrc d (base + rackBase s k) (32 * mib)) r)
  let sifters := (indexed s.isles.sifters).map fun (k, g, i, f) => (g, i, readSifter (areaSrc d (base + sifterBase s k) 0x40000) f)
  { s with pages, isles := { tiles, racks, sifters, chains } }

/-- A saved load is acted on in its save area (R198): what the area says, changed, and written back. -/
def modSave (d : Dev) (cid : Nat) (f : Save → Save) : Dev :=
  match (d.graph cid).save with
  | none => d
  | some s =>
    let base := (d.graph cid).lrec.savepa
    let old := areaSave d cid s
    let new := f old
    let was := savePieces d cid old
    let now := savePieces d cid new
    let d := (was.filter fun x => !now.contains x).foldl (fun d x => writeRun d .loader (base + x.1) (List.replicate x.2.length 0)) d
    let d := (now.filter fun x => !was.contains x).foldl (fun d x => writeRun d .loader (base + x.1) x.2) d
    d.modGraph cid fun g => { g with save := some new }

end Sys2Proof.Machine
end

