-- ==== Sys2Proof/Machine/Spill.lean ====
section
/-! DEFINITION. Spill tables at a new base and size, and MSFULL as a loader event (R200, R358, R377, R410, R411, R422). -/

namespace Sys2Proof.Machine

/-- New places of tabled entries at a size of the table: by old index, in ascending order (R410); one that finds no place waits in VC1. -/
def newPlaces (logn : Nat) (p : Page) : List (Nat × Place) :=
  let tabled := sortBy (fun a b : Nat × Token => decide (a.1 < b.1)) (p.toks.filterMap fun e => (tableIx e).map fun i => (i, e.tok))
  (tabled.foldl (fun (acc : List (Nat × Place) × List Nat) e =>
    match probe acc.2 (2 ^ logn) (spillIndex e.2 logn) with
    | some i => (acc.1 ++ [(e.1, .table i)], acc.2 ++ [i])
    | none => (acc.1 ++ [(e.1, .vc1)], acc.2)) ([], [])).1

/-- A page's table at a new base and size. -/
def rebuildPage (base logn : Nat) (p : Page) : Page :=
  let at_ := newPlaces logn p
  { p with
    toks := p.toks.map fun e => match (tableIx e).bind fun i => at_.find? (·.1 == i) with | some x => { e with place := x.2 } | none => e
    spillBase := base, spillLog := logn }

/-- A table of a size fits every page of the resident load. -/
def tablesFit (d : Dev) (c base logn : Nat) : Bool :=
  match (d.graph c).load with
  | none => false
  | some l => l.pages.all fun pg =>
      decide (base + tableSpan d pg logn ≤ 0x3E0000) && (d.page pg).banks.all fun b => apart base (tableSpan d pg logn) b.off b.size

/-- Bytes of a page store that a table covers, or has covered, hold no stated value (R410). -/
def scrubTable (d : Dev) (pg base logn : Nat) : Dev :=
  let n := tableSpan d pg logn
  let (v, d) := freeNat (8 * n) d
  (markStale d pg base n).modPage pg fun p => p.write base (bytesOf v n) false

/-- The span and node that TRAPNODE names in the resident load (R408). -/
def trapDest (d : Dev) (c : Nat) : Option Dest :=
  let v := (d.ctx c).trapnode.toNat
  if !bitAt v 0 then none
  else match (d.graph c).load.bind fun l => l.feAt (fld v 26 23 * 8 + fld v 19 17) (fld v 22 20 * 8 + fld v 16 14) with
    | some k => if (d.span k).anchor then some (destAt k (fld v 13 4) (portOf (fld v 3 2))) else none
    | none => none

/-- TRAP_TOKEN_DELIVERY (R408). -/
def deliverTrap (c : Nat) (d : Dev) (r : FaultRec) : Dev :=
  match trapDest d c with
  | none => d
  | some t =>
    let n := lanesOf (d.span t.key).wid
    send d .loader
      { tag := ⟨BitVec.ofNat 6 c, 0, BitVec.ofNat 16 r.fid⟩, seq := BitVec.ofNat 26 r.fid, ma := .once, poi := false, cls := .fault, lvl := 0, dest := t
        payload := lanesThen n ((List.range 8).map fun j => fld r.ident (32 * j + 31) (32 * j)) }

/-- What the loader held while the context was PARKED is injected (R408, R410). -/
def deliverParked (d : Dev) (c : Nat) : Dev :=
  let h := d.hold c
  h.traps.foldl (deliverTrap c) (h.inbound.foldl (deliverInbound c) (d.modHold c fun h => { h with inbound := [], traps := [] }))

/-- The arrivals held on the pages of a load, in the order in which they arrived: each with its page and its place there. -/
def heldOrder (d : Dev) (l : Load) : List (Nat × Nat) :=
  (sortBy (fun a b : Nat × Nat × Nat => decide (a.1 < b.1))
    (l.pages.flatMap fun pg => (indexed (d.page pg).toks).filterMap fun e => (heldPlace e.2).map fun k => (k, pg, e.1))).map (·.2)

/-- Held arrivals enter the new tables in that order; one that finds its table full again raises MSFULL anew, and the rest stay held. Otherwise the context is
RESIDENT again (R410). -/
def insertHeld (cid : Nat) : List (Nat × Nat) → Dev → Dev
  | [], d => deliverParked (d.modGraph cid fun g => { g with st := .resident }) cid
  | (pg, k) :: r, d =>
    let p := d.page pg
    match p.toks[k]? with
    | none => insertHeld cid r d
    | some e =>
      match probe (p.toks.filterMap tableIx) (2 ^ p.spillLog) (spillIndex e.tok p.spillLog) with
      | some i => insertHeld cid r (setPlace pg k (.table i) (markStale d pg (p.spillBase + i * tableEntry d pg) (tableEntry d pg)))
      | none => raiseMsfull d cid e.tok

/-- Rebuild every table of the resident load, insert the held arrivals, and go on. -/
def enlarge (d : Dev) (c base logn : Nat) : Dev :=
  match (d.graph c).load with
  | none => d
  | some l =>
    let d := l.pages.foldl (fun d p => scrubTable (scrubTable d p (d.page p).spillBase (d.page p).spillLog) p base logn) d
    let d := l.pages.foldl (fun d p => d.modPage p (rebuildPage base logn)) d
    insertHeld c (heldOrder d l) d

/-- The loader acts on a MSFULL (R410): the tables are enlarged and the context goes on, or it stays PARKED; the record says which. The fault is
outstanding from then on, and no RESUME action is listed for it (R404). -/
def handleMsfull (d : Dev) (c : Nat) : Dev :=
  match (d.graph c).msfull with
  | none => d
  | some r =>
    let logn := fld (d.ctx c).spillsize.toNat 4 0 + 1
    let base := fld (d.ctx c).spillbase.toNat 21 12 * 2 ^ 12
    let fits := decide (logn ≤ 14) && tablesFit d c base logn
    let r := { r with sub := if fits then 0 else 1 }
    let d := d.modGraph c fun g => { g with msfull := none, posts := g.posts ++ [r], faults := g.faults ++ [r] }
    if fits then enlarge (d.modCtx c fun x => { x with spillsize := BitVec.ofNat 64 logn }) c base logn else d

end Sys2Proof.Machine
end

