-- ==== Sys2Proof/Machine/Contexts.lean ====
section
/-! DEFINITION. Contexts in the loader: run queues and deficits (R393 to R396, R400), launches (R388 to R390, R191, R333), shoot-downs (R334),
ends and completions (R190, R193, R199, R392), and frames of a fault released or killed (R198, R405). -/

namespace Sys2Proof.Machine

/-! ### Run queues -/

def leaveQueue (d : Dev) (c : Nat) : Dev := { d with loader := { d.loader with runq := d.loader.runq.map fun q => q.filter (· != c) } }

/-- To the tail of its class's queue; a joining is an occasion for a decision (R395). -/
def joinTail (d : Dev) (c : Nat) : Dev :=
  let d := leaveQueue d c
  { d with loader := { d.loader with runq := modNth (fun q => q ++ [c]) (d.ctx c).cls d.loader.runq, decide := true } }

def joinHead (d : Dev) (c : Nat) : Dev :=
  let d := leaveQueue d c
  { d with loader := { d.loader with runq := modNth (fun q => c :: q) (d.ctx c).cls d.loader.runq, decide := true } }

/-- DEFICIT saturates at −2^63 (R394). -/
def deficitOf (v : Int) : Word64 := BitVec.ofInt 64 (max (-(2 ^ 63)) (min (2 ^ 63 - 1) v))

def Ctx.exhausted (c : Ctx) : Bool := decide (i64 c.deficit ≤ 0)

/-- The quantum is added until DEFICIT is positive (R396). -/
def refill (c : Ctx) : Ctx :=
  let q := max 1 c.quantum
  let v := i64 c.deficit
  if v > 0 then c else { c with deficit := deficitOf (v + q * ((-v) / q + 1)) }

def notFree (d : Dev) : Dev := { d with loader := { d.loader with decide := true } }

/-! ### Shoot-downs (R333, R334) -/

def TlbEntry.hit (e : TlbEntry) (cid va : Nat) (size : Option Nat) : Bool :=
  e.cid == cid && (match size with | none => true | some n => decide (e.va < va + n) && decide (va < e.va + e.size))

def hitsRange (va : Nat) (size : Option Nat) (e : Elem) : Bool :=
  match size with | none => true | some n => decide (e.va < va + n) && decide (va < e.va + e.size)

/-- Page number under which a shoot-down names a write rather than an access. -/
def writeMark : Nat := 2 ^ 20

/-- A shoot-down begins: every TLB of the package drops what overlaps, and the accesses and writes that were accepted before are noted. -/
def startShoot (d : Dev) (cid va : Nat) (size : Option Nat) (cmd : Bool) (migr : Option Nat) : Dev :=
  let keep := fun t : List TlbEntry => t.filter fun e => !e.hit cid va size
  let accs := d.pages.flatMap fun e =>
    (e.2.accs.filter fun a => a.acc.isSome && a.fault.isNone && a.cid == cid && !a.phys && a.els.any (hitsRange va size)
      && !a.perfAt d .mod).map fun a => (e.1, a.id)
  let ws := ((d.mem.wlog.filter fun w => !w.at .mod).map (·.id) ++ d.mem.pend.map (·.el.id)).map fun w => (writeMark, w)
  let (i, d) := freshId d
  { d with
    pages := d.pages.map fun e => (e.1, { e.2 with tlb := keep e.2.tlb })
    mem := { d.mem with tlb2 := d.mem.tlb2.map keep, tlbIo := keep d.mem.tlbIo }
    leaven := { d.leaven with shoots := d.leaven.shoots ++ [⟨i, cid, va, size, cmd, accs ++ ws, migr⟩] } }

/-- What a shoot-down waits for is performed at MOD. -/
def shootDone (d : Dev) (s : Shoot) : Bool :=
  s.waits.all fun w =>
    if w.1 = writeMark then (match d.mem.wlog.find? (·.id == w.2) with | some e => e.at .mod | none => !waitsPlace d.mem w.2)
    else accDone d w.1 .mod w.2

/-! ### Launch (R191, R389, R390) -/

/-- The fields of a launch record, read as a 512-bit number, and whether a reserved bit is set. -/
def recOf (v : Nat) : LaunchRec :=
  let savepa := fld v 127 64
  let savesize := fld v 191 128
  let nva := fld v 255 192
  let flags := fld v 271 264
  ⟨fld v 63 0, savepa, savesize, nva, bitAt flags 0, fld v 287 272,
   fld v 2 0 != 0 || fld savepa 15 0 != 0 || fld savepa 63 52 != 0 || fld savesize 15 0 != 0 || fld nva 4 0 != 0
   || fld v 263 262 != 0 || fld flags 7 1 != 0 || fld v 511 288 != 0⟩

/-- The result of checking a launch against the target's state (R191). Where two refusals apply, which status stands is not said: here 1 and 2 before 3 (DESIGN
CHOICE, log 83). -/
def launchStatus (d : Dev) (tgt : Nat) (by_ : Option Nat) : Nat :=
  match (d.graph tgt).st with
  | .free => 1
  | .idle =>
    match by_ with
    | some c => if !(d.ctx c).priv && (d.ctx c).jobid ≠ (d.ctx tgt).jobid then 3 else 0
    | none => 0
  | _ => 2

/-- The pool after launch (R178). -/
def launchPool : List (BitVec 14) := (List.range 16383).map fun k => BitVec.ofNat 14 (k + 1)

/-- A launch that is accepted: the context enters QUEUED, joins its run queue with a whole quantum, and its translations are shot down. -/
def launchNow (d : Dev) (tgt : Nat) (r : LaunchRec) : Dev :=
  let d := d.modGraph tgt fun g =>
    { st := .queued, gen := g.gen, status := g.status, cause := g.cause, lrec := r, pool := launchPool, queuedAt := d.now.toNat, posts := g.posts }
  let d := d.modHold tgt fun h => { dirBase := h.dirBase, dirCount := h.dirCount, mail := h.mail }
  let d := d.modCtx tgt fun c => { c with deficit := deficitOf (max 1 c.quantum) }
  startShoot (joinTail d tgt) tgt 0 none false none

/-- g of a launch: G + 1 where it is queued, G otherwise. -/
def launchGen (d : Dev) (tgt status : Nat) : Word := if status = 0 then (d.graph tgt).gen + 1 else (d.graph tgt).gen

/-! ### Ends and completions -/

/-- An end of the context's graph or load is noted, unless one has already come; it cancels a pending pre-emption. A MSFULL that the loader received
before is acted on first (R200). -/
def endGraph (d : Dev) (c : Nat) (kind : EndKind) (status : Word) : Dev :=
  let d := handleMsfull d c
  let d := d.modGraph c fun g => if g.ending.isSome then g else { g with ending := some ⟨kind, status, false⟩, preempt := none, victim := false, draining := false, forced := false }
  { d with loader := { d.loader with asks := d.loader.asks.filter (· != c) } }

/-- HALT: the context enters STOPPED with CODE kept, once a MSFULL received before has been acted on (R199, R200). -/
def haltGraph (d : Dev) (c : Nat) (code : Word) : Dev :=
  let d := handleMsfull d c
  let d := d.modGraph c fun g => { g with st := .stopped, halt := some code, preempt := none, victim := false, draining := false, forced := false, reloc := false }
  let d := leaveQueue d c
  { d with loader := { d.loader with asks := d.loader.asks.filter (· != c), decide := true } }

/-- A packet, task or result of a context in a channel. -/
def Task.cid? (t : Task) : Option Nat := t.pk.map (·.cid)

/-- A handler chain that has begun stands between two of its tasks, or before the rest of a task's drain (R265, R434). -/
def Task.inChain (t : Task) : Bool :=
  t.phase == 0 && (t.num.length == 2 || t.num.length == 3) && (match t.kind, t.pk with
    | .fire _ _ _ _, _ => true
    | .packet, some p => (match p.instr with | .mtaskRun _ | .mtaskGo _ => true | _ => false)
    | _, _ => false)

/-- Engine work of a context that is not completed: packets and tasks, and fires of the tiles its load binds; with `chains`, handler chains between
two tasks do not count. -/
def engineWork (chains : Bool) (d : Dev) (c : Nat) : Bool :=
  let tiles := match (d.graph c).load with | some l => l.isles.map Isle.key | none => []
  d.chans.any fun e => e.2.packets.any (·.cid == c) || e.2.tasks.any (fun t => t.cid? == some c && !(chains && t.inChain))
    || (tiles.contains e.1 && e.2.tasks.any fun t => t.pk.isNone && !(chains && t.inChain))

def engineBusy (d : Dev) (c : Nat) : Bool := engineWork false d c

/-- Accesses that a fault holds, those held behind them (R234), and those of a parked frame that no port has accepted (R208). -/
def heldBack (d : Dev) (p : Page) (a : Access) : Bool :=
  a.fault.isSome || (earlier p a).any (holdsPort d) || (a.acc.isNone && d.parkedFrame a.cid a.tok.tag.frame)

/-- Sweep of an ended load: accesses that no port has accepted, and held ones, are dropped; dirty bank lines are written back (R193). -/
def sweepLoad (d : Dev) (c : Nat) : Dev :=
  match (d.graph c).load with
  | none => d
  | some l =>
    l.pages.foldl (fun d pg =>
      let d := d.modPage pg fun p => { p with accs := p.accs.filter fun a => a.acc.isSome && a.fault.isNone, barriers := [] }
      (linesIn (d.page pg) none).foldl (fun d x => (writeBack d pg x.1 x.2 c (pg * 64)).2) d) d
where
  linesIn (p : Page) (_ : Option (Nat × Nat)) : List (Nat × Nat) :=
    (indexed p.banks).flatMap fun (k, b) => b.lines.map fun l => (k, l.ix)

/-- Every accepted access of a context's load is performed at SYS, every write it made and every write that its engine tasks returned too, and no engine
work is left. -/
def drainedSys (d : Dev) (c : Nat) : Bool :=
  (match (d.graph c).load with
   | none => true
   | some l => l.pages.all fun pg => (d.page pg).accs.all fun a => a.perfAt d .sys)
  && d.mem.wlog.all (fun w => w.at .sys || (match w.owner with | .span k => d.cidOf (pageOfFe k) != some c | _ => false))
  && d.mem.pend.all (·.cid != c) && (d.hold c).saw.all (wDone d.mem .host .sys) && !engineBusy d c

/-- Results of a context are discarded (R193). -/
def dropResults (d : Dev) (c : Nat) : Dev :=
  { d with chans := d.chans.map fun e => (e.1, { e.2 with results := e.2.results.filter (·.cid != c) }) }

/-- Everything of an ended load that is discarded with it (R193 step 3). -/
def dropLoad (d : Dev) (c : Nat) (isles : Bool) : Dev :=
  let d := dropResults (dropNet (releaseLoad d c false isles) c) c
  d.modHold c fun h => { h with toks := [], traps := [], waits := [], pins := [], retries := [] }

/-- The completion notice (R392). -/
def noticeBytes (c : Nat) (g : Graph) : List Byte :=
  bytesOf g.status.toNat 4 ++ bytesOf (g.cause.toNat + 256 * c) 4 ++ bytesOf g.gen.toNat 4 ++ bytesOf 0 4 ++ bytesOf g.spent 8 ++ bytesOf 0 8

/-- An MSI-X vector is sent, or kept pending where the table masks it. -/
def sendMsix (d : Dev) (v : Nat) : Dev :=
  let masked := bitAt (d.host.msixTab.getD (16 * v + 12) 0).toNat 0
  if masked then { d with host := { d.host with msixPend := insNat d.host.msixPend v } }
  else { d with host := { d.host with msix := d.host.msix ++ [v] } }

def eachWindow (d : Dev) (c : Nat) (f : Window → Window) : Dev :=
  (List.range 4).foldl (fun d k =>
    { d with host := { d.host with wins := d.host.wins.set (4 * c + k) (f (d.host.wins.getD (4 * c + k) {})) } }) d

/-- A COMPLETION (R190, R230, R392): G advances, status and cause are recorded, the windows, the notice and the MSI-X message follow. A context whose EN has
been cleared is FREE then (R51). -/
def complete (d : Dev) (c : Nat) (cause : BitVec 3) (status : Word) : Dev :=
  let d := dropLoad d c true
  let d := leaveQueue d c
  let old := d.graph c
  let d := d.modGraph c fun g =>
    { st := if (d.ctx c).en then .idle else .free, gen := g.gen + 1, status := status, cause := cause, posts := g.posts, spent := g.spent }
  let d := d.modHold c fun h => { dirBase := h.dirBase, dirCount := h.dirCount }
  let g := d.graph c
  let d := eachWindow d c fun w => { w with cstatus := g.status, ccause := g.cause, cgen := g.gen }
  let d := if old.lrec.nva = 0 then d
    else match loaderPut d c old.lrec.nva (noticeBytes c g) with
      | .ok d => tock d
      | .error e => raiseEvent (logRefused d 5 c e.2 .wr) 4 ⟨6, 10, 0, 0, 0⟩
  let d := if old.lrec.irq then sendMsix d old.lrec.vec else d
  { d with loader := { d.loader with reserve := d.loader.reserve.filter (·.cid != c), asks := d.loader.asks.filter (· != c), decide := true
                                     compact := if (d.loader.compact.map (·.cid)) == some c then none else d.loader.compact } }

/-- Carry an end as far as it can go: first the sweep; once everything is performed and every record posted, the lines that accepted stores have made
dirty since are written back too (R193, R226, R320); then `fin`. -/
def carryEnd (d : Dev) (c : Nat) (fin : Ending → Dev → Dev) : Dev :=
  match (d.graph c).ending with
  | none => d
  | some e =>
    if !e.swept then sweepLoad (d.modGraph c fun g => { g with ending := some { e with swept := true } }) c
    else if drainedSys d c && (d.graph c).posts.isEmpty then
      let d' := sweepLoad d c
      if d'.mem.nextId = d.mem.nextId then fin e d else d'
    else d

/-! ### Frames of outstanding faults (R198, R405) -/

/-- A function applied to every page of a context's load, resident or saved. -/
def modAnyPages (d : Dev) (c : Nat) (f : Page → Page) : Dev :=
  match (d.graph c).load, (d.graph c).save with
  | some l, _ => l.pages.foldl (fun d p => d.modPage p f) d
  | none, some _ => modSave d c fun s => { s with pages := s.pages.map fun e => (e.1, f e.2) }
  | none, none => d

def modAnySpans (d : Dev) (c : Nat) (f : Span → Span) : Dev :=
  match (d.graph c).load, (d.graph c).save with
  | some l, _ => { d with spans := d.spans.map fun e => if l.holds (pageOfFe e.1) then (e.1, f e.2) else e }
  | none, some _ => modSave d c fun s => { s with spans := s.spans.map fun e => (e.1, f e.2) }
  | none, none => d

/-- The parked tokens of a frame become live. In a saved load they are marked live, and take their places at the restore. -/
def reviveFrame (d : Dev) (c : Nat) (frame : BitVec 14) : Dev :=
  if (d.graph c).load.isSome then unparkFrame d c frame
  else modAnyPages d c fun p =>
    let mine := sortBy (fun a b : Entry => bySeq a.tok b.tok) (p.toks.filter fun e => ofFrame frame e.tok && e.parked)
    { p with toks := p.toks.filter (fun e => !(ofFrame frame e.tok && e.parked)) ++ mine.map fun e => { e with parked := false } }

/-- Bitmaps of loops that are no longer active are freed (R360). -/
def freeRuns (d : Dev) (c : Nat) : Dev :=
  let offs := fun (ss : Tab Span) (pg : Nat) => (ss.filter fun e => e.1 / 64 == pg).flatMap fun e => e.2.loops.map (·.off)
  match (d.graph c).load, (d.graph c).save with
  | some l, _ => l.pages.foldl (fun d p => d.modPage p fun x => { x with runs := x.runs.filter fun r => (offs d.spans p).contains r.1 }) d
  | none, some _ => modSave d c fun s => { s with pages := s.pages.map fun e =>
      (e.1, { e.2 with runs := e.2.runs.filter fun r => (offs s.spans e.1).contains r.1 }) }
  | none, none => d

/-- The spilled entries of node state that is gone are freed (R169). -/
def trimStates (d : Dev) (c : Nat) : Dev :=
  match (d.graph c).load, (d.graph c).save with
  | some l, _ => l.pages.foldl (fun d p => d.modPage p (trimState fun fe => d.span (p * 64 + fe))) d
  | none, some _ => modSave d c fun s => { s with pages := s.pages.map fun e => (e.1, trimState (fun fe => s.spans.getD (e.1 * 64 + fe) {}) e.2) }
  | none, none => d

/-- Every token of a frame is discarded, in whatever it is held (R18, R198). -/
def killTokens (d : Dev) (c : Nat) (frame : BitVec 14) : Dev :=
  let d := modAnyPages d c fun p =>
    { p with toks := p.toks.filter fun e => !ofFrame frame e.tok || e.role == .state
             barriers := p.barriers.filter fun b => !b.toks.any (ofFrame frame)
             accs := (queueHeld d p).accs.filter fun a => !(ofFrame frame a.tok && (a.acc.isNone || a.fault.isSome || (earlier p a).any (holdsPort d))) }
  let d := modAnySpans d c fun s =>
    { s with loops := s.loops.filter (·.frame != frame), eosws := clearEosws frame s.eosws
             timers := s.timers.filter fun t => !ofFrame frame t.tok
             sinks := s.sinks.map fun k => { k with stage := k.stage.filter fun x => x.tag.frame != frame }
             farQ := s.farQ.filter fun t => !ofFrame frame t }
  let d := trimStates d c
  let mine := fun t : Token => ofFrame frame t && t.cls != .marker
  let d := freeRuns d c
  let combs := d.combs.map fun x : CombEntry => { x with held := x.held.filter (fun h => !(h.tok.tag.cid.toNat == c && mine h.tok)) }
  let chans := d.chans.map fun e : Nat × Chan => (e.1, { e.2 with results := e.2.results.filter (fun r => !(r.cid == c && mine r.tok)) })
  let d := { d with net := d.net.filter (fun f => !(f.cid == c && mine f.tok)), combs := combs, chans := chans }
  d.modHold c fun h => { h with toks := h.toks.filter fun t => !mine t, away := h.away.filter fun t => !mine t, waits := h.waits.filter fun w => !w.toks.any mine }

/-- The results of a context that no load of it is there to take wait in the loader, and their slots are free (R374, R416). -/
def parkResults (d : Dev) (c : Nat) : Dev :=
  let mine := d.chans.flatMap fun e => (e.2.results.filter (·.cid == c)).map (·.tok)
  (dropResults d c).modHold c fun h => { h with toks := h.toks ++ mine }

end Sys2Proof.Machine
end

