-- ==== Sys2Proof/Machine/Image.lean ====
section
/-! DEFINITION. The Umsel image and its check by the loader (R48, R101, R111, R117 to R121, R352, R358). Where an image has several defects, the
first in the order of these definitions is reported (log 40). -/

namespace Sys2Proof.Machine

/-- A rejection: the cause of R121, LOC, and the table entry index. -/
structure Rej where
  cause : Nat
  loc : Nat := 0
  aux : Nat := 0
  deriving DecidableEq, Repr

def ensure (b : Bool) (r : Rej) : Except Rej Unit := if b then .ok () else .error r

/-- All of a list pass a test. -/
def ensureAll {α : Type} (l : List α) (f : α → Except Rej Unit) : Except Rej Unit :=
  match mapE f l with | .error e => .error e | .ok _ => .ok ()

/-- An image: the byte at each offset. -/
abbrev Img := Nat → Nat

def Img.num (b : Img) (off : Nat) : Nat → Nat
  | 0 => 0
  | n + 1 => b off + 256 * Img.num b (off + 1) n

/-- A range of the image. -/
abbrev Extent := Nat × Nat

def inImage (size : Nat) (x : Extent) : Bool := decide (x.1 + x.2 ≤ size)
def extApart (a b : Extent) : Bool := a.2 == 0 || b.2 == 0 || decide (a.1 + a.2 ≤ b.1) || decide (b.1 + b.2 ≤ a.1)

/-- The first entry that clashes with one before it, as its place in the list. -/
def firstClash {α : Type} (clash : α → α → Bool) : List α → List α → Nat → Option Nat
  | _, [], _ => none
  | before, a :: l, k => if before.any fun b => clash b a then some k else firstClash clash (before ++ [a]) l (k + 1)

/-- The table entry that a rejection names, where one is at fault (R121). -/
def ensureNone (k : Option Nat) (cause : Nat) : Except Rej Unit := match k with | none => .ok () | some k => .error ⟨cause, 0, k⟩

/-- The first place `k` at which the first `k + 1` entries of a list fail a test of lists. -/
def firstFails {α : Type} (t : List α → Bool) (l : List α) : Option Nat :=
  (List.range l.length).find? fun k => !t (l.take (k + 1))

/-- LOC of a rejection: FX, FY in load coordinates and NODE (R407). -/
def siteLoc (px py fe node : Nat) : Nat := (px * 8 + fe % 8) + (py * 8 + fe / 8) * 2 ^ 8 + node * 2 ^ 16

/-! ### Header and load table -/

/-- An entry of the load table (R118). -/
structure LoadEnt where
  w : Nat
  h : Nat
  ngw : Nat
  pageOff : Nat
  gwOff : Nat
  nstream : Nat
  nbank : Nat
  streamOff : Nat
  bankOff : Nat
  nconst : Nat
  constOff : Nat
  deriving DecidableEq, Repr

/-- An entry of the load table (R117). A table offset in it that is not a multiple of 8 is rejected with cause 1: the cause table names no code of its own for
that (DESIGN CHOICE, log 77). -/
def readLoadEnt (b : Img) (k o : Nat) : Except Rej LoadEnt := do
  let e : LoadEnt := ⟨b o, b (o + 1), b.num (o + 2) 2, b.num (o + 8) 8, b.num (o + 0x10) 8, b.num (o + 0x18) 4, b.num (o + 0x1C) 4,
    b.num (o + 0x20) 8, b.num (o + 0x28) 8, b.num (o + 0x30) 4, b.num (o + 0x38) 8⟩
  ensure (decide (1 ≤ e.w) && decide (e.w ≤ 10) && decide (1 ≤ e.h) && decide (e.h ≤ 8) && decide (e.ngw ≤ 32) && b.num (o + 4) 4 == e.w * e.h) ⟨1, 0, k⟩
  ensure ([e.pageOff, e.gwOff, e.streamOff, e.bankOff, e.constOff].all (· % 8 == 0)) ⟨1, 0, k⟩
  ensure (b.num (o + 0x34) 4 == 0) ⟨4, 0, k⟩
  return e

/-! ### Page records (R119) -/

/-- A page record as read: its spans, its records, and where it ends. -/
structure ImgPage where
  px : Nat
  py : Nat
  spans : List ImgSpan
  nodes : List ImgNode
  ext : Extent
  deriving DecidableEq, Repr

/-- FEs covered by an anchor of `n` FEs at `f`, where the shape allows it (R356). -/
def spanCells (f n : Nat) : Option (List Nat) :=
  if n ≤ 8 then (if f % 8 % n = 0 then some ((List.range n).map (f + ·)) else none)
  else if f % 8 = 0 ∧ f / 8 % 2 = 0 then some ((List.range 16).map (f + ·)) else none

/-- A span map's anchors with their WID, or the FE where it is invalid. -/
def readSpanMap (m : Nat) : Except Nat (List (Nat × Nat)) :=
  let code := fun f => fld m (3 * f + 2) (3 * f)
  let anchors := (List.range 64).filter fun f => code f != 7
  let cells := anchors.map fun f => (f, if code f ≤ 4 then spanCells f (2 ^ code f) else none)
  match cells.find? (·.2.isNone) with
  | some x => .error x.1
  | none =>
    let covered := cells.flatMap fun x => (x.2.getD []).drop 1
    match (List.range 64).find? fun f => decide ((covered.filter (· == f)).length ≠ (if code f = 7 then 1 else 0)) with
    | some f => .error f
    | none => .ok (anchors.map fun f => (f, code f))

/-- Why a record of 96 bits is not one (R121). -/
def decodeCause (e : DecodeError) : Nat :=
  match e with
  | .illegalOpcode | .unassignedOpcode => 2
  | .reservedTga => 3
  | .reservedMode => 4

/-- One record entry of a page. -/
def readNode (b : Img) (spans : List (Nat × Nat)) (px py o : Nat) : Except Rej ImgNode := do
  let fe := b o
  let node := b.num (o + 2) 2
  let loc := siteLoc px py (fe % 64) (node % 1024)
  ensure (decide (fe < 64) && decide (node ≤ 1022) && b (o + 1) == 0) ⟨4, loc, 0⟩
  let r : Record := BitVec.ofNat 96 (b.num (o + 4) 12)
  match spans.find? (·.1 == fe) with
  | none => .error ⟨8, loc, 0⟩
  | some s =>
    match decodeRec r with
    | .error e => .error ⟨decodeCause e, loc, 0⟩
    | .ok i => match partsOf i with
      | none => .error ⟨2, loc, 0⟩
      | some (_, _, n) => match nodeCause i n (lanesOf s.2) with
        | some c => .error ⟨c, loc, 0⟩
        | none => return ⟨px, py, fe, node, r⟩

/-- Entries rise by FE and then NODE. -/
def sortedNodes : List ImgNode → Bool
  | a :: b :: l => (decide (a.fe < b.fe) || (a.fe == b.fe && decide (a.node < b.node))) && sortedNodes (b :: l)
  | _ => true

def readPage (b : Img) (size w k o : Nat) : Except Rej ImgPage := do
  ensure (inImage size (o, 48)) ⟨1, 0, k⟩
  let px := b o
  let py := b (o + 1)
  let nrec := b.num (o + 4) 4
  ensure (px == k % w && py == k / w && decide (nrec ≤ 65472)) ⟨1, 0, k⟩
  ensure (inImage size (o, 48 + 16 * nrec)) ⟨1, 0, k⟩
  ensure (b.num (o + 2) 2 == 0 && b.num (o + 0x20) 16 == 0) ⟨4, siteLoc px py 0 0, 0⟩
  match readSpanMap (b.num (o + 8) 24) with
  | .error f => .error ⟨8, siteLoc px py f 0, 0⟩
  | .ok spans =>
    let keys := (List.range nrec).map fun j => (⟨px, py, b (o + 48 + 16 * j), b.num (o + 48 + 16 * j + 2) 2, 0⟩ : ImgNode)
    ensure (sortedNodes keys) ⟨1, 0, k⟩
    let nodes ← mapE (fun j => readNode b spans px py (o + 48 + 16 * j)) (List.range nrec)
    return ⟨px, py, spans.map fun s => ⟨px, py, s.1, s.2⟩, nodes, (o, 48 + 16 * nrec)⟩

/-- Page records follow one another. -/
def readPages (b : Img) (size w : Nat) : Nat → Nat → Nat → Except Rej (List ImgPage)
  | _, _, 0 => .ok []
  | k, o, n + 1 => do
    let p ← readPage b size w k o
    let r ← readPages b size w (k + 1) (p.ext.1 + p.ext.2) n
    return p :: r

/-! ### Destinations (R101, R121) -/

def ImgLoad.spanAt (l : ImgLoad) (px py fe : Nat) : Option ImgSpan := l.spans.find? fun s => s.px == px && s.py == py && s.fe == fe
def ImgLoad.nodeAt (l : ImgLoad) (px py fe node : Nat) : Option ImgNode := l.nodes.find? fun n => n.px == px && n.py == py && n.fe == fe && n.node == node

/-- A record of a slot takes tokens on a port. -/
def portUsed (r : Record) (q : Port) : Bool :=
  match instrOf? r with
  | some i => match i with
    | .far _ => q == .l
    | _ => (match partsOf i with | some (_, _, n) => (portsOf i n).contains q | none => false)
  | none => false

/-- A place in load coordinates names an anchor of the load, a slot that holds a record, and a port it uses. -/
def ensurePlace (l : ImgLoad) (loc : Nat) (x y : Int) (node : Nat) (q : Port) : Except Rej Unit := do
  ensure (decide (0 ≤ x) && decide (x < 8 * l.w) && decide (0 ≤ y) && decide (y < 8 * l.h)) ⟨6, loc, 0⟩
  let x := x.toNat
  let y := y.toNat
  let fe := y % 8 * 8 + x % 8
  ensure (l.spanAt (x / 8) (y / 8) fe).isSome ⟨6, loc, 0⟩
  match l.nodeAt (x / 8) (y / 8) fe node with
  | none => .error ⟨7, loc, 0⟩
  | some n => ensure (portUsed n.rcd q) ⟨7, loc, 0⟩

def ensureDst (l : ImgLoad) (n : ImgNode) (t : Dst) : Except Rej Unit :=
  let loc := siteLoc n.px n.py n.fe n.node
  match t with
  | .none => .ok ()
  | .to dx dy node q =>
    if (dstCause t).isSome then .error ⟨6, loc, 0⟩
    else ensurePlace l loc (n.px * 8 + n.fe % 8 + dx.toInt) (n.py * 8 + n.fe / 8 + dy.toInt) node.toNat q

/-- A destination is the C port of a LOOPB (R177). -/
def loopExitAt (l : ImgLoad) (n : ImgNode) (t : Dst) : Bool :=
  match t with
  | .none => false
  | .to dx dy node q =>
    let x := (n.px * 8 + n.fe % 8 + dx.toInt).toNat
    let y := (n.py * 8 + n.fe / 8 + dy.toInt).toNat
    q == .c && ((l.nodeAt (x / 8) (y / 8) (y % 8 * 8 + x % 8) node.toNat).bind fun m => instrOf? m.rcd).any fun i =>
      match i with | .loopb _ => true | _ => false

/-- Destinations of one record: DSTA, DSTB, FAN's third, FAR's target and COMMIT's sink. -/
def ensureNode (l : ImgLoad) (n : ImgNode) : Except Rej Unit :=
  let loc := siteLoc n.px n.py n.fe n.node
  match instrOf? n.rcd with
  | none => .ok ()
  | some i => match partsOf i with
    | none => .ok ()
    | some (_, _, r) => do
      ensureDst l n r.dsta
      ensureDst l n r.dstb
      ensure (r.dsta == .none || r.dsta != r.dstb) ⟨7, loc, 0⟩
      let lit := r.lit.toNat
      match i with
      | .fan _ => (match dstOfCode? (fld lit 21 0) with
        | none => .error ⟨6, loc, 0⟩
        | some t => do
          ensureDst l n t
          ensure (t == .none || (t != r.dsta && t != r.dstb)) ⟨7, loc, 0⟩)
      | .lexit _ => ensure (loopExitAt l n r.dsta) ⟨7, loc, 0⟩
      | .far _ => ensurePlace l loc (fld lit 24 18) (fld lit 17 12) (fld lit 11 2) (portOf (fld lit 1 0))
      | .commitGet _ | .commitSet _ =>
        let sink := (l.nodeAt n.px n.py n.fe (fld lit 9 0)).bind fun m => instrOf? m.rcd
        ensure (match sink with | some (.sink m) => m.seq | _ => false) ⟨7, loc, 0⟩
      | _ => .ok ()

/-! ### The other tables (R120) -/

def kindOf? (c : Nat) : Option IsleKind :=
  match c with
  | 0 => some .hearth | 1 => some .peel | 2 => some .sifter | 3 => some .rack | 4 => some .braid | 5 => some .leaven | 6 => some .coll | _ => none

/-- Islands of a kind on a die (R120). -/
def kindCount (k : IsleKind) : Nat := match k with | .hearth => 48 | .peel => 6 | .sifter => 2 | .rack => 2 | _ => 1

def readGateway (b : Img) (o k : Nat) : Except Rej (IsleKind × Nat) := do
  let e := o + 8 * k
  ensure (b e == k) ⟨1, 0, k⟩
  ensure (b.num (e + 3) 5 == 0) ⟨4, 0, k⟩
  match kindOf? (b (e + 1)) with
  | none => .error ⟨0x0C, 0, k⟩
  | some kd =>
    ensure (decide (1 ≤ b (e + 2)) && decide (b (e + 2) ≤ kindCount kd)) ⟨0x0C, 0, k⟩
    return (kd, b (e + 2))

def readStream (b : Img) (o w h k : Nat) : Except Rej (Nat × Nat × StreamDef) := do
  let e := o + 8 * k
  let s : StreamDef := ⟨b (e + 2), b (e + 3), b.num (e + 4) 2, b.num (e + 6) 2⟩
  ensure (decide (s.port < 4)) ⟨4, siteLoc (b e) (b (e + 1)) 0 0, k⟩
  ensure (decide (b e < w) && decide (b (e + 1) < h) && (s.num == 0 || decide (s.num ≤ s.den))) ⟨0x0A, 0, k⟩
  return (b e, b (e + 1), s)

/-- Size, VA and offset of a bank keep the limits of R115, clear of the fixed regions (R358). -/
def bankFits (va size off : Nat) : Bool :=
  size != 0 && size % 0x10000 == 0 && va % size == 0 && off % 0x10000 == 0 && decide (off + size ≤ 0x3E0000) && decide (va + size ≤ 2 ^ 57)

def readBank (b : Img) (o w h k : Nat) : Except Rej (Nat × Nat × Bank) := do
  let e := o + 24 * k
  let va := b.num (e + 8) 8
  let size := b.num (e + 16) 4
  let off := b.num (e + 20) 4
  ensure (b.num (e + 2) 6 == 0) ⟨4, siteLoc (b e) (b (e + 1)) 0 0, k⟩
  ensure (decide (b e < w) && decide (b (e + 1) < h) && bankFits va size off) ⟨9, 0, k⟩
  return (b e, b (e + 1), ⟨va, size, off, []⟩)

/-- Initial tokens follow one another; each is 24 + 32·2^WID bytes. -/
def readConsts (b : Img) (size : Nat) (l : ImgLoad) (k : Nat) : Nat → Nat → Except Rej (List ImgTok × Nat)
  | o, 0 => .ok ([], o)
  | o, n + 1 => do
    -- `k` is the number of tokens of the table
    let j := k - (n + 1)
    ensure (inImage size (o, 24)) ⟨1, 0, j⟩
    let px := b o
    let py := b (o + 1)
    let fe := b (o + 2)
    let q := portOf (fld (b (o + 3)) 1 0)
    let node := b.num (o + 4) 2
    let wid := b (o + 6)
    let loc := siteLoc px py (fe % 64) (node % 1024)
    ensure (fld (b (o + 3)) 7 4 == 0 && decide (fld (b (o + 3)) 3 2 ≤ 1) && b (o + 7) == 0) ⟨4, loc, 0⟩
    ensure (decide (px < l.w) && decide (py < l.h) && decide (fe < 64)) ⟨6, loc, 0⟩
    match l.spanAt px py fe with
    | none => .error ⟨6, loc, 0⟩
    | some s =>
      ensure (wid == s.wid) ⟨7, loc, 0⟩
      ensure (inImage size (o, 24 + 32 * 2 ^ wid)) ⟨1, 0, j⟩
      match l.nodeAt px py fe node with
      | none => .error ⟨7, loc, 0⟩
      | some r =>
        ensure (portUsed r.rcd q) ⟨7, loc, 0⟩
        let mask := b.num (o + 8) 16
        let lanes := (List.range (lanesOf wid)).map fun j => (⟨BitVec.ofNat 32 (b.num (o + 24 + 4 * j) 4), bitAt mask j⟩ : Lane)
        let (r, e) ← readConsts b size l k (o + 24 + 32 * 2 ^ wid) n
        return (⟨px, py, fe, node, q, if fld (b (o + 3)) 3 2 = 1 then .sticky else .once, wid, lanes⟩ :: r, e)

/-! ### One load -/

/-- Widest span of a page of an image (R27). -/
def ImgLoad.widMax (l : ImgLoad) (px py : Nat) : Nat := ((l.spans.filter fun s => s.px == px && s.py == py).map (·.wid)).foldl max 0

/-- Spill table of a page (R358): its base, and its size rounded up to 4 KiB. -/
def tableBytes (logn wid : Nat) : Nat := (2 ^ logn * (32 + 32 * 2 ^ wid) + 4095) / 4096 * 4096

/-- A spill table fits every page of a load: it ends below the fixed regions and keeps clear of the banks (R48, R358). -/
def tableFits (base logn : Nat) (wids : List Nat) (banks : List (Nat × Nat)) : Bool :=
  wids.all fun w => decide (base + tableBytes logn w ≤ 0x3E0000) && banks.all fun k => extApart (base, tableBytes logn w) k

/-- FEs of an image page whose nodes name a stream. -/
def ImgLoad.users (l : ImgLoad) (px py id : Nat) : List Nat :=
  ((l.nodes.filter fun n => n.px == px && n.py == py && (match instrOf? n.rcd with
    | some i => (match partsOf i with | some (_, _, r) => streamOf i r == some id | none => false)
    | none => false)).map (·.fe)).dedup

/-- Places of a load's pages. -/
def pagePlaces (w h : Nat) : List (Nat × Nat) := (List.range h).flatMap fun y => (List.range w).map fun x => (x, y)

/-- Islands of a kind that a die can supply: tiles taken offline are not (R481). -/
def supply (d : Dev) (die : Nat) (k : IsleKind) : Nat :=
  match k with
  | .hearth => 48 - (d.offTiles.filter fun t => t / 48 == die).length
  | _ => kindCount k

def gwNeed (gws : List (IsleKind × Nat)) (k : IsleKind) : Nat := ((gws.filter (·.1 == k)).map (·.2)).sum

/-- A die can supply every gateway of a load. -/
def dieSupplies (d : Dev) (die : Nat) (gws : List (IsleKind × Nat)) : Bool :=
  [IsleKind.hearth, .peel, .sifter, .rack, .braid].all fun k => decide (gwNeed gws k ≤ supply d die k)

def ensureGateway (l : ImgLoad) (n : ImgNode) : Except Rej Unit :=
  match instrOf? n.rcd with
  | none => .ok ()
  | some i => match partsOf i with
    | none => .ok ()
    | some (_, _, r) => ensure (gatewayOk l.gws i r.lit.toNat) ⟨0x0C, 0, fld r.lit.toNat 4 0⟩

/-- Two bank bindings overlap: in VA, or in the store of one page (R121). -/
def banksClash (a b : Nat × Nat × Bank) : Bool :=
  !extApart (a.2.2.va, a.2.2.size) (b.2.2.va, b.2.2.size)
  || (a.1 == b.1 && a.2.1 == b.2.1 && !extApart (a.2.2.off, a.2.2.size) (b.2.2.off, b.2.2.size))

/-- A node names a declared stream of its page (R207). No table entry is at fault where none declares it; the stream named stands there (log 77). -/
def ensureStream (l : ImgLoad) (n : ImgNode) : Except Rej Unit :=
  match (instrOf? n.rcd).bind fun i => (partsOf i).bind fun x => streamOf i x.2.2 with
  | none => .ok ()
  | some id => ensure (l.streams.any fun s => s.1 == n.px && s.2.1 == n.py && s.2.2.id == id) ⟨0x0A, 0, id⟩

/-- One load of an image, with the extents that its tables and records take. -/
def readLoad (d : Dev) (b : Img) (size k : Nat) (e : LoadEnt) : Except Rej (ImgLoad × List Extent) := do
  let pages ← readPages b size e.w 0 e.pageOff (e.w * e.h)
  ensure ([(e.gwOff, 8 * e.ngw), (e.streamOff, 8 * e.nstream), (e.bankOff, 24 * e.nbank)].all (inImage size)) ⟨1, 0, k⟩
  let gws ← mapE (readGateway b e.gwOff) (List.range e.ngw)
  let streams ← mapE (readStream b e.streamOff e.w e.h) (List.range e.nstream)
  let banks ← mapE (readBank b e.bankOff e.w e.h) (List.range e.nbank)
  let l : ImgLoad := { w := e.w, h := e.h, spans := pages.flatMap (·.spans), nodes := pages.flatMap (·.nodes), gws, streams, banks, toks := [] }
  ensureAll l.nodes (ensureNode l)
  ensureAll l.nodes (ensureGateway l)
  ensureNone (firstClash banksClash [] banks 0) 9
  ensureNone (firstClash (fun s t => s.1 == t.1 && s.2.1 == t.2.1 && s.2.2.id == t.2.2.id) [] streams 0) 0x0A
  ensureAll l.nodes (ensureStream l)
  ensureNone (firstFails (fun ss => (pagePlaces e.w e.h).all fun p =>
    ratesFit ((ss.filter fun s => s.1 == p.1 && s.2.1 == p.2).map (·.2.2)) (l.users p.1 p.2)) streams) 0x0A
  ensureNone (firstFails (fun g => (List.range 4).any fun die => dieSupplies d die g) gws) 0x0C
  let (toks, fin) ← readConsts b size l e.nconst e.constOff e.nconst
  return ({ l with toks }, pages.map (·.ext) ++ [(e.gwOff, 8 * e.ngw), (e.streamOff, 8 * e.nstream), (e.bankOff, 24 * e.nbank), (e.constOff, fin - e.constOff)])

/-- A data segment (R120): VA, size, image offset. -/
structure DataSeg where
  va : Nat
  size : Nat
  off : Nat
  deriving DecidableEq, Repr

def readImage (d : Dev) (b : Img) (readable : Nat) : Except Rej (List ImgLoad × List DataSeg) := do
  let size := b.num 0x20 8
  ensure (b.num 0 4 == 0x4C534D55 && b.num 4 2 == 1 && decide (64 ≤ size) && decide (size ≤ readable)) ⟨1, 0, 0⟩
  ensure (b.num 6 2 == 0 && b.num 0x28 24 == 0) ⟨4, 0, 0⟩
  let nload := b.num 8 4
  let ndata := b.num 0xC 4
  let loadOff := b.num 0x10 8
  let dataOff := b.num 0x18 8
  ensure (decide (1 ≤ nload) && decide (nload ≤ 4096) && decide (ndata ≤ 4096) && loadOff % 8 == 0 && dataOff % 8 == 0) ⟨1, 0, 0⟩
  ensure (inImage size (loadOff, 64 * nload) && inImage size (dataOff, 24 * ndata)) ⟨1, 0, 0⟩
  let ents ← mapE (fun k => readLoadEnt b k (loadOff + 64 * k)) (List.range nload)
  let loads ← mapE (fun e : Nat × LoadEnt => readLoad d b size e.1 e.2) (indexed ents)
  let segs := (List.range ndata).map fun k => (⟨b.num (dataOff + 24 * k) 8, b.num (dataOff + 24 * k + 8) 8, b.num (dataOff + 24 * k + 16) 8⟩ : DataSeg)
  ensureAll (indexed segs) fun s => ensure (inImage size (s.2.off, s.2.size)) ⟨1, 0, s.1⟩
  -- an overlap names the entry of the load table whose tables or records it meets
  let exts := [(0, (0, 64)), (0, (loadOff, 64 * nload)), (0, (dataOff, 24 * ndata))] ++ (indexed loads).flatMap fun x => x.2.2.map fun e => (x.1, e)
  match firstClash (fun a b : Nat × Extent => !extApart a.2 b.2) [] exts 0 with
  | some j => .error ⟨1, 0, ((exts[j]?).map (·.1)).getD 0⟩
  | none => .ok ()
  return (loads.map (·.1), segs)

/-! ### The loader's check (R48, R121, R352, R390) -/

/-- A rectangle of pages that are not offline, with the islands of a load, exists on a die (R48). -/
def dieHolds (d : Dev) (die : Nat) (l : ImgLoad) : Bool :=
  dieSupplies d die l.gws && (pagePlaces (11 - l.w) (9 - l.h)).any fun p =>
    (pagePlaces l.w l.h).all fun q => !(d.page (die * 80 + (p.2 + q.2) * 10 + p.1 + q.1)).offline

/-- Registers of a launch or placement (R48). -/
def regsOk (d : Dev) (cid : Nat) (loads : List ImgLoad) : Bool :=
  let c := d.ctx cid
  let logn := fld c.spillsize.toNat 4 0
  let fq := fld c.faultq.toNat 3 0
  decide (6 ≤ logn) && decide (logn ≤ 14) && decide (4 ≤ fq)
  && loads.all (fun l => (pagePlaces l.w l.h).all fun p =>
      tableFits (fld c.spillbase.toNat 21 12 * 2 ^ 12) logn [l.widMax p.1 p.2]
        ((l.banks.filter fun x => x.1 == p.1 && x.2.1 == p.2).map fun x => (x.2.2.off, x.2.2.size)))
  && (!c.contain || (List.range 4).any fun die => loads.all (dieHolds d die))

/-- The undo-log region of a context under rollback containment lies in the local tiers (R352). -/
def undoOk (d : Dev) (cid : Nat) : Bool :=
  let b := d.leaven.regs.rbt.toNat
  let e := fld b 51 10 * 2 ^ 10 + 16 * cid
  let base := natOfBytes (homeBytes d.mem e 8)
  let logn := fld (natOfBytes (homeBytes d.mem (e + 8) 1)) 4 0
  !(d.ctx cid).contain ||
    (bitAt b 0 && decide (16 ≤ logn) && base % 65536 == 0 && decide (base < 2 ^ 52)
     && (regionOf d base).isTier && (regionOf d (base + 2 ^ logn - 1)).isTier && regionOf d base == regionOf d (base + 2 ^ logn - 1))

/-- The first address of a run in each 64 KiB block that it touches. -/
def blockStarts (va size : Nat) : List Nat :=
  va :: ((List.range ((va + size + 65535) / 65536 - va / 65536)).map fun k => (va / 65536 + k) * 65536).filter fun x => decide (va < x) && decide (x < va + size)

/-- Bytes of an image from its start that the loader can read through the translation: whole, or not even the header. Leaves are aligned to
64 KiB, so one byte of each such block decides. -/
def readableTo (d : Dev) (cid va size : Nat) : Nat :=
  if decide (va + size ≤ 2 ^ 57) && (blockStarts va size).all (fun x => match vaKey d 5 cid x .rd with | .ok _ => true | .error _ => false) then size else 0

/-- The image byte at an offset, as the loader reads it. -/
def imageByte (d : Dev) (cid va : Nat) : Img := fun o =>
  match vaKey d 5 cid (va + o) .rd with
  | .ok (some k) => (keyByte d .loader k).1.toNat
  | _ => 0

/-- The address of the first read of an image that its target refused is logged (R328). -/
def logImage (d : Dev) (cid va size : Nat) (w : Want) : Dev :=
  match (blockStarts va size).find? fun x => match vaKey d 5 cid x w with | .ok _ => false | .error _ => true with
  | some x => logRefused d 5 cid x w
  | none => d

/-- The image of a queued graph as it can be read. -/
def imageOf (d : Dev) (cid : Nat) : Except Rej (List ImgLoad × List DataSeg) :=
  let b := imageByte d cid (d.graph cid).lrec.imgva
  readImage d b (readableTo d cid (d.graph cid).lrec.imgva (b.num 0x20 8))

/-- A data segment that a rejection of cause 0x0B names, at an address whose write is refused, is logged too. -/
def logSegment (d : Dev) (cid : Nat) (r : Rej) : Dev :=
  if r.cause ≠ 0x0B then d
  else match imageOf d cid with
    | .ok x => (match x.2[r.aux]? with | some s => logImage d cid s.va s.size .wr | none => d)
    | .error _ => d

/-- The whole check of a queued graph. -/
def checkImage (d : Dev) (cid : Nat) : Except Rej (List ImgLoad × List DataSeg) := do
  let g := d.graph cid
  ensure (!g.lrec.resv) ⟨4, 0, 0⟩
  ensure (readableTo d cid g.lrec.imgva 64 == 64) ⟨1, 0, 0⟩
  let r ← imageOf d cid
  ensure (regsOk d cid r.1) ⟨0x0D, 0, 0⟩
  ensure (undoOk d cid) ⟨0x0D, 0, 0⟩
  ensureAll (indexed r.2) fun s =>
    ensure (match vaKeys d 5 cid s.2.va s.2.size .wr with | .ok _ => true | .error _ => false) ⟨0x0B, 0, s.1⟩
  return r

end Sys2Proof.Machine
end

