-- ==== Sys2Proof/Machine/Engine.lean ====
section
/-! DEFINITION. What every island shares: operand packets (R243, R272, R374), tasks with their faults and results (R263, R264, R272 to
R275), and memory as an engine task reaches it. -/

namespace Sys2Proof.Machine

/-! ### Packets (R242, R243, R271, R272) -/

/-- The island that GW and IX of a record name in the resident load of a context. -/
def islandOf (d : Dev) (cid : Nat) (i : Instr) (lit : Nat) : Option Isle :=
  match gatewayKind i, (d.graph cid).load with
  | some k, some l => match l.gws[fld lit 4 0]? with
    | some g => if g.kind == k && decide (fld lit 10 5 < g.count) then g.isles[fld lit 10 5]? else none
    | none => none
  | _, _ => none

/-- Nodes whose firings emit tokens beside those to DSTA and DSTB: they take a SEQ in any case (R95, R256). -/
def emitsRows : Instr → Bool
  | .mtaskRun _ | .mtaskGo _ | .mdrainTok _ | .mtrayPush _ => true
  | _ => false

/-- Lanes that an instruction requires valid. -/
def lanesOk (p : Payload) (js : List Nat) : Bool := js.all fun j => (laneOf p j).ok

/-- A firing sends its operand packet: ILLOP for a record that names no island or a required lane that is invalid, POISONC for a poisoned
operand; it waits while the channel's 16 packet slots are taken. What a ROUTE sends of its row has the tag and SEQ of L itself, sticky or not (R278). -/
def sendPacket (i : Instr) (n : NodeRec) (ok : Fire → Bool) (poi : Fire → Bool) : Dev → Dev :=
  let cause := fun (x : Fire) (d : Dev) =>
    if (islandOf d x.cid i x.lit).isNone || !ok x then some FCode.illop else if poi x then some .poisonc else none
  fire i n
    { ports := portsOf i n
      waits := fun x d => (cause x d).isNone && (match islandOf d x.cid i x.lit with
        | some isl => decide (16 ≤ (d.chan isl).packets.length)
        | none => false)
      check := cause
      act := fun x d =>
        match islandOf d x.cid i x.lit with
        | none => d
        | some isl =>
          let (sq, d) := if x.dests.isEmpty && !emitsRows i then (x.o.seq, d) else takeSeq x d
          let (id, d) := freshId d
          let row := match i with | .route _ => x.o.l | _ => none
          let p : Packet :=
            { id, cid := x.cid, span := x.key, node := x.f.node, instr := i, tag := (row.map (·.tag)).getD x.f.tag, seq := (row.map (·.seq)).getD x.o.seq, outTag := emitTag x.n x.f.tag, outSeq := sq
              l := x.lPay, r := x.rPay, c := x.cPay, poi := (x.o.l.map (·.poi)).getD false, a := x.a, b := x.b, lanes := x.lanes
              ftz := (d.page x.pg).ftz, round := (d.span x.key).rnd.round, hdr := x.hdr, loc := locOf d x.key x.f.node none
              gw := fld x.lit 4 0, ix := fld x.lit 10 5 }
          d.modChan isl fun c => { c with packets := c.packets ++ [p] } }

/-- A poisoned L token. -/
def lPoi (x : Fire) : Bool := (x.o.l.map (·.poi)).getD false

/-- An engine instruction whose packet needs lanes `js` of L. -/
def engineFire (i : Instr) (n : NodeRec) (js : List Nat) (s : State) : Out :=
  lift (sendPacket i n (fun x => lanesOk x.lPay js) lPoi) s

/-! ### A packet's fields -/

def Packet.lit (p : Packet) : Nat := match rowOfInstr p.instr with | some n => n.lit.toNat | none => 0
where
  /-- The record of an engine instruction. -/
  rowOfInstr : Instr → Option NodeRec
    | .mtaskRun n | .mtaskDef n | .mtaskGo n | .mzero n | .mdrainTok n | .mdrainMem n | .mdrainRoute n | .mwload n | .mtrayCfg n
    | .mtrayPush n | .mtrayFlush n | .mwait n | .mscale n | .mconv n | .mstat n | .route n | .exdirBase n | .exdirWrite n
    | .exdirInval n | .combCfg n | .combSync n | .combStat n | .pcopy n | .pgath n | .pscat n | .pfill n | .pdec n | .coll n
    | .rlinv n | .migr n | .mpin n | .mpinOff n | .mrdupMod n | .mrdupSys n | .mhint n | .bgate n | .bswap n | .bdiag n
    | .bprobNorm n | .bprobMarg n | .bprobSamp n => some n
    | _ => none

/-- Lane `j` of a packet's L, and the n64 in lanes `j` and `j + 1`; zero bits where invalid. -/
def Packet.lane (p : Packet) (j : Nat) : Nat := (lane32? p.l j).getD 0
def Packet.pair (p : Packet) (j : Nat) : Nat := p.lane j + p.lane (j + 1) * 2 ^ 32

/-! ### Tasks -/

def newTask (p : Packet) : Task := { freshTask p.id .packet with pk := some p }

/-- The head packet of a channel becomes an operation of the island (R374). -/
def takePacket (d : Dev) (isl : Isle) (p : Packet) (f : Task → Task) : Dev :=
  d.modChan isl fun c => { c with packets := c.packets.drop 1, tasks := c.tasks ++ [f (newTask p)] }

def putTask (d : Dev) (isl : Isle) (t : Task) : Dev :=
  d.modChan isl fun c => { c with tasks := c.tasks.map fun u => if u.id == t.id then t else u }

def getTask (d : Dev) (isl : Isle) (id : Nat) : Option Task := (d.chan isl).tasks.find? (·.id == id)

/-- Operations accepted before another. -/
def tasksBefore (d : Dev) (isl : Isle) (id : Nat) : List Task := (d.chan isl).tasks.takeWhile (·.id != id)

/-- The page-store ranges of a task leave the scoreboard (R284). -/
def clearScore (d : Dev) (p : Option Packet) (id : Nat) : Dev :=
  match p with
  | some p => d.modPage (pageOfFe p.span) fun g => { g with score := g.score.filter (·.task != id) }
  | none => d

/-- The Braid interlock without a task, and the units that assisted it freed (R446, R448). -/
def leaveBraid (b : Braid) (id : Nat) : Braid :=
  { lock := (b.lock.map fun e => (e.1, e.2.1, e.2.2.filter (· != id))).filter fun e => !e.2.2.isEmpty, assist := b.assist.filter (·.1 != id) }

/-- An operation leaves the island. -/
def dropTask (d : Dev) (isl : Isle) (t : Task) : Dev :=
  clearScore { d.modChan isl fun c => { c with tasks := c.tasks.filter (·.id != t.id) } with braid := leaveBraid d.braid t.id } t.pk t.id

/-- Tokens handed to the result slots of a channel. Those of a context whose load is not resident wait in the loader (R374, R416). -/
def giveResults (d : Dev) (isl : Isle) (rs : List Result) : Dev :=
  let away := fun r : Result => (d.graph r.cid).load.isNone
  (rs.filter away).foldl (fun d r => d.modHold r.cid fun h => { h with toks := h.toks ++ [r.tok] })
    (d.modChan isl fun c => { c with results := c.results ++ rs.filter fun r => !away r })

/-- An operation completes: its tokens go to the result slots. -/
def finishTask (d : Dev) (isl : Isle) (t : Task) : Dev := giveResults (dropTask d isl t) isl t.out

/-- A task whose work is done waits for its writes at a scope (R273). -/
def afterWork (d : Dev) (isl : Isle) (t : Task) (ws : List Nat) (sc : Scope) (out : List Result) : Dev :=
  putTask d isl { t with phase := 2, writes := ws, scope := sc, out, since := some d.now.toNat }

/-! ### Tokens of a task -/

/-- A token of a packet's firing, but for its destination (R203). -/
def packetTok (p : Packet) (cls : Cls) (pay : Payload) : Token :=
  { tag := p.outTag, seq := p.outSeq, ma := .once, poi := false, cls, lvl := 0, payload := pay, dest := ⟨0, 0, 0, 0, .l⟩ }

def Packet.result (p : Packet) (last : Bool) (t : Token) (dst : Option Dest) : List Result :=
  dst.toList.map fun x => ⟨p.id, p.cid, { t with dest := x }, last, false⟩

/-- A completion token. -/
def Packet.compTok (p : Packet) : Token := packetTok p .data (List.replicate p.lanes Lane.none)

/-- Completion tokens to both destinations, or data to DSTA and a completion token to DSTB. -/
def Packet.done (p : Packet) : List Result := p.result true p.compTok p.a ++ p.result true p.compTok p.b
def Packet.dataDone (p : Packet) (cls : Cls) (vs : List Nat) : List Result :=
  p.result false (packetTok p cls (lanesThen p.lanes vs)) p.a ++ p.result true p.compTok p.b

/-! ### Faults of a task (R264, R274, R407) -/

/-- Whom a fault of an engine task names. -/
structure Blame where
  cid : Nat
  frame : BitVec 14
  hdr : Nat
  loc : Nat
  src : Nat
  deriving DecidableEq, Repr

def Packet.blame (p : Packet) : Blame := ⟨p.cid, p.tag.frame, p.hdr, p.loc, p.gw * 2 ^ 10 + p.ix * 2 ^ 15⟩

/-- An engine fault: it parks the frame's tokens, in a saved load too. -/
def engineFault (d : Dev) (b : Blame) (code : FCode) (sub addr : Nat) : Dev :=
  let d := takeFault d b.cid (some b.frame) code { eng := true, sub, hdr := b.hdr, loc := b.loc, addr, src := b.src }
  if (d.graph b.cid).load.isSome then d
  else modAnyPages d b.cid fun p => { p with toks := p.toks.map fun e => if ofFrame b.frame e.tok && !e.parked then parkEntry e else e }

/-- A fault of an engine task: code, sub-code or slot, and address. -/
structure Fail where
  code : FCode
  sub : Nat
  addr : Nat
  deriving DecidableEq, Repr

def islandFail (sub : Nat) : Fail := ⟨.islandf, sub, 0⟩
def failAt (e : FCode × Nat) : Fail := ⟨e.1, 0, e.2⟩

/-- The address of a task's access that its target refused is logged (R328). -/
def logFailed (d : Dev) (isl : Isle) (cid va : Nat) : Dev :=
  match translateAt d isl.die cid va with
  | .ok l => if l.state != 4 && (outsideCause d cid (l.pa va) true == some .permf || outsideCause d cid (l.pa va) false == some .permf) then refusedEvent d (l.pa va) else d
  | .error _ => d

/-- A task is abandoned: no token leaves (R264, R274). One that met an error of its context under rollback containment makes the context roll
back (R353). -/
def abandonFor (d : Dev) (isl : Isle) (t : Task) (b : Blame) (f : Fail) : Dev :=
  if f.code = .poisonc then meetError (dropTask d isl t) b.cid
  else engineFault (dropTask (if f.code = .permf then logFailed d isl b.cid f.addr else d) isl t) b f.code f.sub f.addr

/-- An access that finds no port to another package up, or gets no answer, ends its task once 2^20 cycles or the response deadline have passed since it was
made; every other fault does at once (R459, R462, R470). -/
def failDue (d : Dev) (isl : Isle) (t : Task) (cid : Nat) (f : Fail) : Bool :=
  match f.code with
  | .linkf | .timeout => (match translateAt d isl.die cid f.addr with
    | .error _ => true
    | .ok l =>
      let pa := l.pa f.addr
      if f.code == .linkf then isLocal d pa || !routed d (pkgOf pa) || t.since.any fun x => routeDead d (pkgOf pa) x
      else regionPa d pa == some .hostWin || (match respDeadline d with | some n => t.since.any fun x => decide (x + n ≤ d.now.toNat) | none => true))
  | _ => true

/-- A task's fault: it is abandoned, or it is held. -/
def failFor (d : Dev) (isl : Isle) (t : Task) (b : Blame) (f : Fail) : Dev :=
  if failDue d isl t b.cid f then abandonFor d isl t b f else putTask d isl { t with held := true }

/-- A task is held in a channel of a state. -/
def heldIn (d : Dev) (isle id : Nat) : Bool := d.chans.any fun e => e.1 == isle && e.2.tasks.any fun u => u.id == id && u.held

/-- A step of the engines: where it would end a task before the deadline of its access, nothing happens but that the task knows since when it waits. -/
def awaitWay (f : Dev → Dev) (d : Dev) : Dev :=
  let d' := f d
  if d'.chans.any fun e => e.2.tasks.any fun u => u.held && !heldIn d e.1 u.id then
    { d with chans := d.chans.map fun e =>
        (e.1, { e.2 with tasks := e.2.tasks.map fun u => if heldIn d' e.1 u.id && u.since.isNone then { u with since := some d.now.toNat } else u }) }
  else d'

def failTask (d : Dev) (isl : Isle) (t : Task) (f : Fail) : Dev :=
  match t.pk with
  | some p => failFor d isl t p.blame f
  | none => dropTask d isl t

/-- A deadline of a task has passed. -/
def abandonTask (d : Dev) (isl : Isle) (t : Task) (f : Fail) : Dev :=
  match t.pk with
  | some p => abandonFor d isl t p.blame f
  | none => dropTask d isl t

/-! ### Memory of a task (R263, R273) -/

/-- Each task is a party of its own (R319): the one that the step is about. -/
def Dev.taskParty (d : Dev) (isl : Isle) : Party := .isle isl (match d.occ with | .task _ id => id | _ => 0)

/-- The state in which another task acts, where a step is about several: a collective's members (R291). -/
def Dev.asTask (d : Dev) (isl : Isle) (id : Nat) : Dev := { d with occ := .task isl id }

/-- A run of memory as an island reads it, byte by byte. A poisoned byte that a context under rollback containment meets is POISONC here: the
task then ends with the rollback (R353). -/
def memBytes (d : Dev) (isl : Isle) (cid va n : Nat) : List (Except Fail (Byte × Bool)) :=
  (List.range n).map fun k => match vaKey d isl.die cid (va + k) .rd with
    | .error e => .error ⟨e, 0, va + k⟩
    | .ok none => .ok (0, true)
    | .ok (some key) =>
      let b := keyByte d (d.taskParty isl) key
      if b.2 && rollsBack d cid then .error ⟨.poisonc, 0, va + k⟩ else .ok b

/-- A run of bytes as a task of an island reads it. -/
def taskRead (d : Dev) (isl : Isle) (cid va n : Nat) : Except Fail (List (Byte × Bool)) :=
  match vaRead d (d.taskParty isl) isl.die cid va n with
  | .error e => .error (failAt e)
  | .ok bs => if bs.any (·.2) && rollsBack d cid then .error ⟨.poisonc, 0, va⟩ else .ok bs

/-- The writes that an engine task of a context has returned are noted until they are performed at SYS (R305, R308). -/
def noteSaw (d : Dev) (cid : Nat) (ws : List Nat) : Dev :=
  d.modHold cid fun h => { h with saw := ((h.saw ++ ws).dedup).filter fun w => !wDone d.mem .host .sys w }

/-- What a read of a run in elements of `g` bytes leaves: its translations in the TLB (R333), its accesses counted (R342), and the writes that it
returned, for which the task's completion waits (R305, R308). -/
def taskSaw (d : Dev) (isl : Isle) (cid g va n : Nat) : List Nat × Dev :=
  let q := d.taskParty isl
  let d := fillTlb d isl.die cid va n
  match vaKeys d isl.die cid va n .rd with
  | .error _ => ([], d)
  | .ok ks =>
    let r := (chunksOf g 0 ks).foldl (fun (acc : List Nat × Dev) c =>
      if c.2.1 ≥ 2 ^ 52 then (acc.1, sendRequest acc.2 c.2.1) else
        let early := (aheadOf acc.2 q).filter (·.meets c.2.1 c.2.2)
        ((acc.1 ++ early.flatMap (·.saw) ++ (readEl acc.2.mem q c.2.1 c.2.2).2.2).dedup, countHot acc.2 c.2.1)) ([], d)
    (r.1, if r.1.isEmpty then r.2 else noteSaw r.2 cid r.1)

/-- The same for several runs: VA and length of each. -/
def taskSawAll (d : Dev) (isl : Isle) (cid g : Nat) (runs : List (Nat × Nat)) : List Nat × Dev :=
  runs.foldl (fun (acc : List Nat × Dev) r => let x := taskSaw acc.2 isl cid g r.1 r.2; ((acc.1 ++ x.1).dedup, x.2)) ([], d)

/-- A run put before the first that starts above it. -/
def insRun {α : Type} (x : Nat × List α) : List (Nat × List α) → List (Nat × List α)
  | [] => [x]
  | y :: r => if x.1 ≤ y.1 then x :: y :: r else y :: insRun x r

/-- A run joined to the one that follows it without a gap. -/
def joinRun {α : Type} (x : Nat × List α) : List (Nat × List α) → List (Nat × List α)
  | [] => [x]
  | y :: r => if x.1 + x.2.length = y.1 then (x.1, x.2 ++ y.2) :: r else x :: y :: r

/-- Runs that share no byte, in ascending order, each joined to the next where no gap lies between them: one access of a task in elements as large as the
table of R312 gives. -/
def mergeRuns {α : Type} (runs : List (Nat × List α)) : List (Nat × List α) := (runs.foldr insRun []).foldr joinRun []

/-- The same for runs known by place and length. -/
def mergeSpans (runs : List (Nat × Nat)) : List (Nat × Nat) :=
  (mergeRuns (runs.map fun r => (r.1, List.replicate r.2 ()))).map fun r => (r.1, r.2.length)

/-- Choose between the old and the new value of each granule of an abandoned write (R264, R274): a free choice for each. -/
def freeGranules (g : Nat) (d : Dev) (ks : List (Nat × Byte × Bool)) : List (Nat × Byte × Bool) × Dev :=
  (ks.filter fun k => (Config.freeBits 1 (d.tick + k.1 / g)) == 1#1, { d with tick := d.tick + 2 ^ 57 / g })

/-- Write bytes at chosen VAs through a context's translation, granule by granule of `g` bytes (R312). Bytes that do not translate are left out. -/
def writeSome (d : Dev) (isl : Isle) (cid g : Nat) (ks : List (Nat × Byte × Bool)) : Dev :=
  (putRun d cid (d.taskParty isl) g (ks.map fun k => match vaKey d isl.die cid k.1 .wr with | .ok x => x | .error _ => none) (ks.map (·.2))).2

/-- A run written by a task: all of it, or, on a fault, some of its granules of size `g`. -/
def taskWrite (d : Dev) (isl : Isle) (cid g va : Nat) (bs : List (Byte × Bool)) : Except (Fail × Dev) (List Nat × Dev) :=
  let d := fillTlb d isl.die cid va bs.length
  match vaWrite d (d.taskParty isl) isl.die cid g va bs with
  | .ok r => .ok r
  | .error e =>
    let (ks, d') := freeGranules g d ((indexed bs).map fun (k, b) => (va + k, b))
    .error (failAt e, writeSome d' isl cid g ks)

/-- Runs written one after another; on a fault every run keeps some of its granules. -/
def taskWrites (d : Dev) (isl : Isle) (cid g : Nat) (runs : List (Nat × List (Byte × Bool))) : Except (Fail × Dev) (List Nat × Dev) :=
  let d := runs.foldl (fun d r => fillTlb d isl.die cid r.1 r.2.length) d
  match runs.findSome? fun r => match vaKeys d isl.die cid r.1 r.2.length .wr with | .error e => some e | .ok _ => none with
  | some e =>
    let (ks, d') := freeGranules g d (runs.flatMap fun r => (indexed r.2).map fun (k, b) => (r.1 + k, b))
    .error (failAt e, writeSome d' isl cid g ks)
  | none => .ok (runs.foldl (fun (acc : List Nat × Dev) r => match vaWrite acc.2 (acc.2.taskParty isl) isl.die cid g r.1 r.2 with
      | .ok (ws, d) => (acc.1 ++ ws, d)
      | .error _ => acc) ([], d))

/-- Bytes without poison. -/
def clean (bs : List Byte) : List (Byte × Bool) := bs.map fun b => (b, false)

end Sys2Proof.Machine
end

