-- ==== Sys2Proof/Machine/Messages.lean ====
section
/-! DEFINITION. Expert messages (R426 to R429): headers, sending, the order of a path, and what a receiver discards (R427). -/

namespace Sys2Proof.Machine

/-! ### Headers (R426) -/

/-- A field of a message header. -/
def EMsg.f (m : EMsg) (hi lo : Nat) : Nat := fld m.hdr.toNat hi lo

def EMsg.mk_ (m : EMsg) : Nat := m.f 255 252
def EMsg.expid (m : EMsg) : Nat := m.f 251 236
def EMsg.tag (m : EMsg) : Tag := ⟨BitVec.ofNat 6 (m.f 235 230), BitVec.ofNat 14 (m.f 229 216), BitVec.ofNat 16 (m.f 215 200)⟩
def EMsg.seq (m : EMsg) : BitVec 26 := BitVec.ofNat 26 (m.f 199 174)
def EMsg.rpkg (m : EMsg) : Nat := m.f 173 164
def EMsg.rdie (m : EMsg) : Nat := m.f 163 162
def EMsg.rix (m : EMsg) : Nat := m.f 161 161
def EMsg.kidx (m : EMsg) : Nat := m.f 160 158
def EMsg.sl (m : EMsg) : Nat := m.f 157 154
def EMsg.g (m : EMsg) : Nat := 2 ^ m.f 153 151
def EMsg.try_ (m : EMsg) : Nat := m.f 150 149
def EMsg.poi (m : EMsg) : Bool := bitAt m.hdr.toNat 148
def EMsg.wgt (m : EMsg) : Nat := m.f 142 111
def EMsg.tpkg (m : EMsg) : Nat := m.f 110 101
def EMsg.tdie (m : EMsg) : Nat := m.f 100 99
def EMsg.tile (m : EMsg) : Nat := m.f 98 93
def EMsg.tray (m : EMsg) : Nat := m.f 92 91
def EMsg.qd (m : EMsg) : Bool := bitAt m.hdr.toNat 90
def EMsg.kk (m : EMsg) : Nat := m.f 89 86
def EMsg.jobid (m : EMsg) : Nat := m.f 85 70
def EMsg.spkg (m : EMsg) : Nat := m.f 69 60
def EMsg.sdie (m : EMsg) : Nat := m.f 59 58
def EMsg.six (m : EMsg) : Nat := m.f 57 57
def EMsg.crn (m : EMsg) : Nat := m.f 56 48
def EMsg.cf (m : EMsg) : Bool := bitAt m.hdr.toNat 47

/-- A header from its fields: high bit, low bit, value. -/
def hdrOf (fs : List (Nat × Nat × Nat)) : BitVec 256 :=
  BitVec.ofNat 256 ((fs.map fun f => f.2.2 % 2 ^ (f.1 + 1 - f.2.1) * 2 ^ f.2.1).sum)

/-- A header with one field changed. -/
def hdrSet (h : BitVec 256) (hi lo v : Nat) : BitVec 256 := BitVec.ofNat 256 (setFld h.toNat hi lo v)

/-- Fields that name a row. -/
def hdrRow (t : Tag) (s : BitVec 26) : List (Nat × Nat × Nat) :=
  [(235, 230, t.cid.toNat), (229, 216, t.frame.toNat), (215, 200, t.iter.toNat), (199, 174, s.toNat)]

/-- Path of a tray in a Sifter's credit cache: (TPKG, TDIE, TILE, TRAY) as one number (R430). -/
def trayPath (pkg die tile tray : Nat) : Nat := ((pkg * 4 + die) * 64 + tile) * 4 + tray
def EMsg.path (m : EMsg) : Nat := trayPath m.tpkg m.tdie m.tile m.tray

/-! ### Where messages go (R427) -/

def tileIsle (t : Nat) : Isle := ⟨.hearth, t / 48, t % 48⟩

def endOf (d : Dev) (pkg : Nat) (i : Isle) : MEnd := if pkg = d.pkg then .isle i else .ext pkg
def EMsg.tileEnd (d : Dev) (m : EMsg) : MEnd := endOf d m.tpkg ⟨.hearth, m.tdie, m.tile⟩
def EMsg.rackEnd (d : Dev) (m : EMsg) : MEnd := endOf d m.rpkg ⟨.rack, m.rdie, m.rix⟩
def EMsg.sifterEnd (d : Dev) (m : EMsg) : MEnd := endOf d m.spkg ⟨.sifter, m.sdie, m.six⟩

/-- A message leaves; one for another package in the channel EXP (R457). -/
def sendE (d : Dev) (src : Isle) (dst : MEnd) (m : EMsg) : Dev :=
  let d := { d with emsgs := d.emsgs ++ [⟨.isle src, dst, m⟩] }
  match dst with
  | .ext p => if p < 1024 then sendFlit d vcExp p else d
  | .isle _ => d

/-- A message without payload (R427): WID 0. -/
def bare (h : BitVec 256) : EMsg := ⟨h, List.replicate 8 Lane.none⟩

/-- CREDIT for a message's Sifter and tray (R430): `n` credits. -/
def creditFor (m : EMsg) (n : Nat) : EMsg :=
  bare (hdrOf [(255, 252, 4), (110, 101, m.tpkg), (100, 99, m.tdie), (98, 93, m.tile), (92, 91, m.tray), (69, 60, m.spkg), (59, 58, m.sdie),
    (57, 57, m.six), (56, 48, n)])

/-- NULL for a message's KIDX (R427, R432). -/
def nullFor (m : EMsg) : EMsg := bare (hdrSet (hdrSet (hdrSet m.hdr 255 252 2) 145 143 0) 56 48 0)

/-- The loader's hold for a context's Rack contributions stands as an end of paths beyond every package. -/
def loaderEnd (cid : Nat) : MEnd := .ext (1024 + cid)

/-- A message waits in the loader for a saved load. -/
def EFlight.held (f : EFlight) : Bool := match f.dst with | .ext p => decide (1024 ≤ p) | .isle _ => false

/-- The receiver that a message in transit is sent to. -/
def EFlight.goal (f : EFlight) : MEnd := if f.held then .isle ⟨.rack, f.msg.rdie, f.msg.rix⟩ else f.dst

/-- The first message in transit on its path (R429). One that waits in the loader keeps its place before the messages of its context alone. -/
def firstOnPath (d : Dev) (k : Nat) (f : EFlight) : Bool :=
  !(d.emsgs.take k).any fun g => g.src == f.src && g.goal == f.goal && ((!g.held && !f.held) || g.msg.tag.cid == f.msg.tag.cid)

/-- A kind that does not exist, or a reserved bit set (R427). -/
def EMsg.bad (m : EMsg) : Bool := decide (5 ≤ m.mk_) || m.f 46 0 != 0

/-- A discarded message is an event of its die; the spec names no source for it (R427, R477). -/
def discardE (d : Dev) (die : Nat) : Dev :=
  let (v, d) := freeNat 6 d
  raiseEvent d die ⟨7, v, 0, 0, 0⟩

/-- The message of an arrival step: one in transit to an island of the package, or one that another package sends, which first joins
those in transit. -/
def withEmsg (d : Dev) (kind : Nat) (f : Dev → Nat → Isle → EMsg → Dev) : Dev :=
  match d.occ with
  | .emsgIn p m =>
    if m.mk_ != kind && !(m.bad && kind == 0) then d else
    let dst := match m.mk_ with
      | 0 => m.tileEnd d
      | 4 => m.sifterEnd d
      | _ => m.rackEnd d
    match dst with
    | .isle i => if p = d.pkg then d else { d with emsgs := d.emsgs ++ [⟨.ext p, .isle i, m⟩] }
    | .ext _ => d
  | .emsg k =>
    match d.emsgs[k]? with
    | some e => match e.dst with
      | .isle i =>
        if !firstOnPath d k e then d
        else if e.msg.bad then (if kind = 0 then discardE { d with emsgs := dropNth k d.emsgs } i.die else d)
        else if e.msg.mk_ = kind then f d k i e.msg
        else d
      | .ext _ => d
    | none => d
  | _ => d

end Sys2Proof.Machine
end

