-- ==== Sys2Proof/Machine/Matrix.lean ====
section
/-! DEFINITION. The arithmetic and the state of a Hearth tile: operand formats and rows (R244, R246), cells (R247, R248), conversion of
drained rows (R256), the weight store (R237), and the count set. -/

namespace Sys2Proof.Machine

/-! ### Operand formats (R244) -/

/-- Classes of operand formats. -/
inductive HCls where
  | s | w | h | q | i | b
  deriving DecidableEq, Repr

def hCls (c : Nat) : HCls :=
  match c with
  | 0 => .s | 1 => .w | 2 | 3 => .h | 4 | 5 => .q | 6 => .i | _ => .b

def hFp (c : Nat) : FpFmt := match c with | 0 => fp32 | 1 => fp64 | 2 => fbf16 | 3 => ffp16 | 4 => fe4m3 | _ => fe5m2

def hBlk (c : Nat) : BlkFmt :=
  match c with
  | 7 => .mxe4m3 | 8 => .mxe5m2 | 9 => .mxe2m3 | 10 => .mxe3m2 | 11 => .mxfp4 | 12 => .mxint8 | 13 => .dx4 | 14 => .dx6 | _ => .dx9

def hIsMx (c : Nat) : Bool := decide (7 ≤ c) && decide (c ≤ 12)
def hIsDx (c : Nat) : Bool := decide (13 ≤ c)

/-- Element width and group size. -/
def hW (c : Nat) : Nat := match c with | 0 => 32 | 1 => 64 | 2 | 3 => 16 | 4 | 5 | 6 => 8 | _ => (hBlk c).w
def hG (c : Nat) : Nat := match c with | 0 | 1 => 1 | 2 | 3 => 2 | 4 | 5 | 6 => 4 | _ => (hBlk c).size

/-- Accumulator of a class, and its format. -/
def accOf (c : HCls) : AccFmt := match c with | .w => .f64 | .i => .i32 | _ => .f32
def accFp (a : AccFmt) : FpFmt := match a with | .f64 => fp64 | _ => fp32

/-- Bytes of a row of `k` elements, and its scale bytes (R246; log 41 where an MX row ends within a block). -/
def rowLen (c k : Nat) : Nat := if hIsDx c then k / 16 * (hBlk c).image else (k * hW c + 7) / 8
def scaleLen (c k : Nat) : Nat := if hIsMx c then (k + 31) / 32 else 0

/-! ### Operand rows (R246, R247) -/

/-- A byte of an operand row, or the fault that its read met. -/
abbrev RByte := Except Fail (Byte × Bool)

/-- A row or column as the array takes it: each element's scaled value, none where it could not be read; the counts it makes once; its
poison. -/
structure HRow where
  els : List (Option XR)
  counts : Counts
  poi : Bool
  deriving DecidableEq, Repr

def byteVal (b : RByte) : Byte := match b with | .ok x => x.1 | .error _ => 0
def byteOk (b : RByte) : Bool := match b with | .ok _ => true | .error _ => false
def bytePoi (b : RByte) : Bool := match b with | .ok x => x.2 | .error _ => false
def runOk (bs : List RByte) (lo hi : Nat) : Bool := ((bs.drop lo).take (hi + 1 - lo)).all byteOk

/-- Element `k` of a row: its scaled value and counts; none where a byte of it or of its scale was not read. -/
def rowEl (ftz : Bool) (c : Nat) (bs sc : List RByte) (k : Nat) : Option (XR × Counts) :=
  let bits := natOfBytes (bs.map byteVal)
  let w := hW c
  if hIsDx c then
    let b := hBlk c
    let at_ := k / 16 * b.image
    let j := k % 16
    if runOk bs at_ (at_ + 1) && runOk bs (at_ + 2 + w * j / 8) (at_ + 2 + (w * j + w - 1) / 8) then
      let img := bits >>> (8 * at_)
      some (blockValue ftz b (fld img (16 + w * j + w - 1) (16 + w * j)) (fld img 7 0) (fld img 15 8) j fp32)
    else none
  else if !runOk bs (w * k / 8) ((w * k + w - 1) / 8) then none
  else
    let code := fld bits (w * k + w - 1) (w * k)
    if c = 6 then some (XR.ofInt (valOf code 8 true), .zero)
    else if hIsMx c then
      match sc[k / 32]? with
      | some (.ok s) => some (blockValue ftz (hBlk c) code s.1.toNat 0 (k % 32) fp32)
      | _ => none
    else some (scaledIn ftz (decodeFp (hFp c) code) 0 (if c = 1 then fp64 else fp32))

def hRow (ftz : Bool) (c k : Nat) (bs sc : List RByte) (poi : Bool) : HRow :=
  let r := (List.range k).map (rowEl ftz c bs sc)
  ⟨r.map (Option.map (·.1)), Counts.sum (r.filterMap (Option.map (·.2))), poi || bs.any bytePoi || sc.any bytePoi⟩

/-- The first fault among the bytes of rows. -/
def firstFail (bs : List RByte) : Option Fail := bs.findSome? fun b => match b with | .ok _ => none | .error e => some e

/-! ### Cells (R237, R247, R248) -/

def cellIx (i j : Nat) : Nat := 128 * i + j

/-- Zero bits everywhere, with no poison (R260). -/
def zeroBank : HBank := { m := 128, n := 128 }

/-- The groups of a cell's operands that were read: pairs of element groups, up to the first that was not. -/
def groupsOf (g k : Nat) (a b : List (Option XR)) : List (List XR × List XR) :=
  ((List.zip (chunks g (k / g) a) (chunks g (k / g) b)).takeWhile fun p => p.1.all Option.isSome && p.2.all Option.isSome).map
    fun p => (p.1.filterMap id, p.2.filterMap id)

/-- A cell's accumulator, as its code, after its groups (R247). -/
def cellRun (ftz : Bool) (af : AccFmt) (acc : Nat) (gs : List (List XR × List XR)) : Nat × Counts :=
  match af with
  | .i32 =>
    let r := gs.foldl (fun (x : Int × Counts) p => let y := cellGroupInt x.1 (p.1.map XR.toInt) (p.2.map XR.toInt); (y.1, x.2.add y.2))
      (valOf (acc % 2 ^ 32) 32 true, .zero)
    (patOf r.1 32, r.2)
  | _ => gs.foldl (fun (x : Nat × Counts) p => let y := cellGroup ftz x.1 p.1 p.2 (accFp af); (y.1, x.2.add y.2)) (acc, .zero)

/-- What an accumulator starts from where ACC is 0: −0.0, or 0 for i32. -/
def accStart (af : AccFmt) : Nat := match af with | .i32 => 0 | _ => (accFp af).signBit true

/-- A bank taken into 64-bit cells or out of them: what its cells hold is then unspecified, but for zeroed banks (R237, R248). -/
def rewide (w : Bool) (other : HBank) (b : HBank) (d : Dev) : HBank × Dev :=
  let was := b.fmt == .f64
  let zero := b.cells.isEmpty && b.base.isNone && (!w || (other.cells.isEmpty && other.base.isNone))
  if w == was || zero then (b, d) else ({ b with cells := [], base := some d.tick }, { d with tick := d.tick + 16384 })

/-- The cells of a task: `stop` limits the groups of each cell where the task was abandoned (R264). -/
def runCells (ftz : Bool) (g k : Nat) (af : AccFmt) (accumulate : Bool) (as bs : List HRow) (stop : Nat → Nat → Nat) (b : HBank) : HBank × Counts :=
  (indexed as).foldl (fun (x : HBank × Counts) ra =>
    (indexed bs).foldl (fun (x : HBank × Counts) rb =>
      let ix := cellIx ra.1 rb.1
      let gs := groupsOf g k ra.2.els rb.2.els
      let y := cellRun ftz af (if accumulate then b.cell ix else accStart af) (gs.take (stop ix gs.length))
      (x.1.put ix y.1 (ra.2.poi || rb.2.poi || (accumulate && b.poison.contains ix)), x.2.add y.2)) x) (b, .zero)

/-! ### The weight store (R237) -/

/-- Weight-store bytes with the poison of their 64-byte lines. -/
def Tile.wsRead (t : Tile) (off n : Nat) : List RByte :=
  (List.range n).map fun k => .ok (t.ws.getD (off + k) 0, t.wsPoison.contains ((off + k) / 64 * 64))

/-- Weight-store bytes written; a poisoned byte poisons its line, and a line written whole without poison loses its own. -/
def Tile.wsWrite (t : Tile) (off : Nat) (bs : List (Byte × Bool)) : Tile :=
  let t := { t with ws := (indexed bs).foldl (fun (w : Tab Byte) (b : Nat × Byte × Bool) => setStoreByte w (off + b.1) b.2.1) t.ws }
  let lines := (List.range ((off + bs.length + 63) / 64 - off / 64)).map fun k => (off / 64 + k) * 64
  { t with wsPoison := lines.foldl (fun ps l =>
      let part := (bs.drop (l - off)).take (64 - (off - l))
      if part.any (·.2) then insNat ps l
      else if off ≤ l && l + 64 ≤ off + bs.length then delNat ps l else ps) t.wsPoison }

/-! ### Counters -/

def tileCount (t : Tile) (c : Counts) : Tile :=
  { t with counts := (indexed t.counts).map fun (k, v) => sat32 (v + ((c.toList[k]?).getD 0)) }

/-- One more in counter `k`: 5 tasks completed, 6 fires by threshold, 7 fires by timer or flush. -/
def tileTick (t : Tile) (k : Nat) : Tile := { t with counts := modNth (fun v => sat32 (v + 1)) k t.counts }

/-! ### Drained rows (R256) -/

def Tile.bank (t : Tile) (k : Nat) : HBank := if k = 0 then t.b0 else t.b1
def Tile.setBank (t : Tile) (k : Nat) (b : HBank) : Tile := if k = 0 then { t with b0 := b } else { t with b1 := b }

/-- A bank as a drain takes it: one of format none is an FP32 bank of 128 × 128 cells of +0.0 without poison (R257). -/
def drained (b : HBank) : HBank := match b.fmt with | .none => { m := 128, n := 128, fmt := .f32 } | _ => b

/-- Elements of a token of `lanes` lanes, and the width of an element in bits. -/
def drainW (af : AccFmt) (df : Nat) : Nat := if df ≠ 0 then 16 else match af with | .f64 => 64 | _ => 32
def drainFits (af : AccFmt) (df n lanes : Nat) : Bool := decide (n * drainW af df ≤ 32 * lanes)

/-- An element converted by DF. -/
def drainEl (ftz : Bool) (df v : Nat) : Nat × Counts :=
  match df with
  | 0 => (v, .zero)
  | 1 => roundTo ftz (decodeFp fp32 v) fbf16 .rne
  | _ => roundTo ftz (decodeFp fp32 v) ffp16 .rne

/-- Row `i` of a bank as a payload of `lanes` lanes, its poison, and counts. -/
def drainRow (ftz : Bool) (b : HBank) (df lanes i : Nat) : Payload × Bool × Counts :=
  let w := drainW b.fmt df
  let r := (List.range b.n).map fun j => drainEl ftz df (b.cell (cellIx i j) % 2 ^ (if b.fmt == .f64 then 64 else 32))
  let bits := ((indexed r).map fun (j, e) => e.1 * 2 ^ (w * j)).sum
  let used := if w = 64 then 2 * b.n else (b.n * w + 31) / 32
  ((List.range lanes).map fun j => ⟨BitVec.ofNat 32 (fld bits (32 * j + 31) (32 * j)), decide (j < used)⟩,
   (List.range b.n).any fun j => b.poison.contains (cellIx i j), Counts.sum (r.map (·.2)))

end Sys2Proof.Machine
end

