-- ==== Sys2Proof/Machine/HearthOps.lean ====
section
/-! DEFINITION. What a Hearth tile carries out: route entries (R255, R281), drains (R256, R433, R434), handler chains (R245 to R250, R264),
and tray sides (R252 to R254, R430, R435). -/

namespace Sys2Proof.Machine

/-! ### Route entries (R255) -/

def rteKind (v : Nat) : Nat := fld v 31 30

/-- The width that a route entry records, or none where it is refused with status 1. -/
def routeEntry (d : Dev) (cid v : Nat) : Option Nat :=
  if rteKind v = 3 ∨ fld v 29 26 ≠ 0 ∨ bitAt v 7 then none
  else match (d.graph cid).load with
    | none => none
    | some l =>
      if rteKind v = 0 then some 0
      else if rteKind v = 2 then
        (match l.gws[fld v 4 0]? with | some g => if g.kind == .rack then some 4 else none | none => none)
      else match l.feAt (fld v 6 0) (fld v 13 8) with
        | some k => if (d.span k).anchor && (Tab.find? (d.span k).nodes (fld v 23 14)).isSome then some (d.span k).wid else none
        | none => none

/-- The destination of an entry of KIND 1 in the resident load. -/
def routeDest (d : Dev) (cid v : Nat) : Option Dest :=
  (d.graph cid).load.bind fun l => (l.feAt (fld v 6 0) (fld v 13 8)).map fun k => destAt k (fld v 23 14) (portOf (fld v 25 24))

/-! ### Drains -/

/-- An operation that drains or runs: the tile's island, the task, the context that holds the tile, FTZ, the fired side, and the tag and
SEQ that rows without tags take (R256). -/
structure Chain where
  isl : Isle
  task : Nat
  cid : Nat
  ftz : Bool
  side : Option (Nat × Nat)
  tag : Tag
  seq : BitVec 26
  deriving DecidableEq, Repr

def Chain.tile (c : Chain) (d : Dev) : Tile := d.tile c.isl.tileNo
def Chain.modTile (c : Chain) (d : Dev) (f : Tile → Tile) : Dev := d.modTile c.isl.tileNo f

/-- A drain of a bank record of this shape through an entry is within its rules (R256, R257, R433). -/
def drainOk (e : Option (Nat × Nat)) (af : AccFmt) (n df : Nat) : Bool :=
  match e with
  | none => false
  | some (v, wid) =>
    rteKind v != 0 && (df == 0 || af == .f32) && decide (df ≤ 2) && drainFits af df n (lanesOf wid)
    && (rteKind v != 2 || (af == .f32 && decide (df ≤ 1)))

/-- The header of a row's contribution (R433). -/
def contribHdr (d : Dev) (c : Chain) (v : Nat) (r : Option RowTag) (t : Tag) (s : BitVec 26) (df : Nat) (poi : Bool) : EMsg :=
  match r.bind (·.hdr) with
  | some h => bare (hdrSet (hdrSet (hdrSet (hdrSet h 255 252 1) 145 143 4) 47 47 df) 148 148 (boolNat poi))
  | none =>
    let rk := (((d.graph c.cid).load.bind fun l => l.gws[fld v 4 0]?).bind fun g => g.isles[0]?).getD ⟨.rack, 0, 0⟩
    bare (hdrOf (hdrRow t s ++ [(255, 252, 1), (173, 164, d.pkg), (163, 162, rk.die), (161, 161, rk.ix), (148, 148, boolNat poi), (145, 143, 4),
      (142, 111, 0x3F800000), (47, 47, df)]))

/-- A contribution leaves, or, from a tray fire, stands by until its chain has completed: the rows of a fire that faults send none (R435). -/
def sendContrib (c : Chain) (m : EMsg) (d : Dev) : Dev :=
  match c.side with
  | none => sendE d c.isl (m.rackEnd d) m
  | some _ => d.modChan c.isl fun x => { x with tasks := x.tasks.map fun u => if u.id == c.task then { u with msgs := u.msgs ++ [(m.rackEnd d, m)] } else u }

/-- One row leaves through an entry. -/
def drainOne (c : Chain) (v wid df : Nat) (b : HBank) (d : Dev) (i : Nat) : Dev :=
  let r := b.rows[i]?
  let (t, s) := match r with
    | some r => (r.tag, r.seq)
    | none => ({ c.tag with iter := c.tag.iter + BitVec.ofNat 16 i }, c.seq)
  let (pay, poi, k) := drainRow c.ftz b df (lanesOf wid) i
  let d := c.modTile d fun x => tileCount x k
  if rteKind v = 2 then
    let m := contribHdr d c v r t s df poi
    sendContrib c { m with lanes := pay } d
  else
    let d := match r.bind (·.hdr) with
      | some h => c.modTile d fun x => { x with hdrs := x.hdrs ++ [h] }
      | none => d
    match routeDest d c.cid v with
    | some x => giveResults d c.isl
        [⟨c.task, c.cid, { tag := t, seq := s, ma := .once, poi, cls := .data, lvl := 0, payload := pay, dest := x }, false, false⟩]
    | none => d

/-- The header store has room for what a row keeps there as it leaves through an entry (R434). -/
def rowRoom (t : Tile) (e : Nat × Nat) (r : Option RowTag) : Bool :=
  rteKind e.1 != 1 || (r.bind (·.hdr)).isNone || decide (t.hdrs.length < 1024)

/-- Rows of a bank leave one after another through an entry that drainOk admits. A row for whose header the store has no room waits, and those behind it: its
number (R434). -/
def drainRows (c : Chain) (e : Nat × Nat) (df : Nat) (b : HBank) : List Nat → Dev → Option Nat × Dev
  | [], d => (none, d)
  | i :: is, d => if rowRoom (c.tile d) e (b.rows[i]?) then drainRows c e df b is (drainOne c e.1 e.2 df b d i) else (some i, d)

/-- The drain of a bank from row `r` on. -/
def drainFrom (c : Chain) (e : Nat × Nat) (df : Nat) (b : HBank) (r : Nat) (d : Dev) : Option Nat × Dev :=
  drainRows c e df b ((List.range b.m).drop r) d

/-! ### Descriptors (R245) -/

/-- A descriptor's fields; `next` and `rte` where NX and DRN are 1. -/
structure HDesc where
  k : Nat
  n : Nat
  m : Nat
  next : Option Nat
  rte : Option Nat
  df : Nat
  acc : Bool
  bank : Nat
  bmem : Bool
  amem : Bool
  bf : Nat
  af : Nat
  aloc : Nat
  bloc : Nat
  sa : Nat
  sb : Nat
  deriving DecidableEq, Repr

def hDesc (ws : List Nat) : HDesc :=
  let w := fun j : Nat => (ws[j]?).getD 0
  { k := fld (w 0) 31 16 + 1, n := fld (w 0) 14 8 + 1, m := fld (w 0) 6 0 + 1
    next := if bitAt (w 1) 27 then some (fld (w 1) 31 28) else none
    rte := if fld (w 1) 19 18 = 1 then some (fld (w 1) 23 20) else none
    df := fld (w 1) 17 16, acc := bitAt (w 1) 12, bank := fld (w 1) 11 11, bmem := bitAt (w 1) 10, amem := bitAt (w 1) 8
    bf := fld (w 1) 7 4, af := fld (w 1) 3 0, aloc := w 2 + w 3 * 2 ^ 32, bloc := w 4 + w 5 * 2 ^ 32, sa := w 6, sb := w 7 }

/-- No reserved field of a descriptor is nonzero. -/
def hDescResv (ws : List Nat) : Bool :=
  let w := fun j : Nat => (ws[j]?).getD 0
  !bitAt (w 0) 15 && !bitAt (w 0) 7 && fld (w 1) 26 24 == 0 && decide (fld (w 1) 19 18 ≤ 1) && fld (w 1) 17 16 != 3 && fld (w 1) 15 13 == 0
  && !bitAt (w 1) 9

def HDesc.cls (h : HDesc) : HCls := hCls h.af
def HDesc.g (h : HDesc) : Nat := min (hG h.af) (hG h.bf)
def HDesc.accf (h : HDesc) : AccFmt := accOf h.cls

/-- Rows of A: M, or the row count of the fired side (R254). -/
def rowsOf (t : Tile) (side : Option (Nat × Nat)) : List RowTag :=
  match side with
  | some (k, s) => ((t.trays[k]?).map fun y => if s = 0 then y.s0.rows else y.s1.rows).getD []
  | none => []

def HDesc.rowsA (h : HDesc) (t : Tile) (c : Chain) : Nat := if h.amem then h.m else (rowsOf t c.side).length

def wsSize : Nat := 2 ^ 24

/-- A slot may run (R250). Two points are the model's (DESIGN CHOICE, log 83): a tray whose SCB is less than the scale bytes of the task's MX row is refused as one whose
stride is shorter than its row; the bits of BS above a weight-store offset are ignored, though R251 has lane 3 be 0 there. -/
def slotOk (c : Chain) (t : Tile) (s : Nat) (ws : List Nat) : Bool :=
  let h := hDesc ws
  let la := rowLen h.af h.k
  let lb := rowLen h.bf h.k
  let ext := ((t.slots.find? s).bind (·.ext))
  let tray := (c.side.bind fun x => t.trays[x.1]?).getD {}
  let needA := h.amem && hIsMx h.af
  let needB := hIsMx h.bf
  let bsOff := (ext.map (·.2)).getD 0 % wsSize
  let rec_ := (t.bank h.bank).fmt
  hDescResv ws && hCls h.af == hCls h.bf && h.k % h.g == 0
  && (!h.acc || rec_ == .none || rec_ == h.accf) && !(h.cls == .w && h.bank == 1)
  && h.bloc % 4 == 0 && h.sb % 4 == 0 && decide (lb ≤ h.sb)
  && (h.bmem || (decide (h.bloc + (h.n - 1) * h.sb + lb ≤ wsSize) && (!needB || decide (bsOff + h.n * scaleLen h.bf h.k ≤ wsSize))))
  && (!(needA || needB) || ext.isSome)
  && (if h.amem then h.aloc % 4 == 0 && h.sa % 4 == 0 && decide (la ≤ h.sa)
      else (match c.side with
        | some (k, _) => h.aloc == k && decide (la ≤ tray.rowb) && (!hIsMx h.af || decide (scaleLen h.af h.k ≤ tray.scb))
        | none => false))
  && (match h.rte with | some e => drainOk (t.routes.find? e) h.accf h.n h.df | none => true)

/-! ### Running a slot -/

/-- Bytes of the weight store as a context's task reads them: one under rollback containment meets no poison (R353). -/
def storeBytes (d : Dev) (cid : Nat) (bs : List RByte) : List RByte :=
  if bs.any bytePoi && rollsBack d cid then bs.map fun b => if bytePoi b then .error ⟨.poisonc, 0, 0⟩ else b else bs

/-- Row `i` of A: its bytes, its scale bytes, and the poison of its tag. -/
def rowA' (c : Chain) (d : Dev) (t : Tile) (h : HDesc) (ext : Nat × Nat) (i : Nat) : List RByte × List RByte × Bool :=
  let n := rowLen h.af h.k
  let sn := scaleLen h.af h.k
  if h.amem then (memBytes d c.isl c.cid (h.aloc + i * h.sa) n, memBytes d c.isl c.cid (ext.1 + i * sn) sn, false)
  else
    let (k, s) := c.side.getD (0, 0)
    let y := (t.trays[k]?).getD {}
    let r := 128 * s + i
    (storeBytes d c.cid (t.wsRead (y.tbase + r * y.rowb) n), storeBytes d c.cid (t.wsRead (y.tsc + r * y.scb) sn), (((rowsOf t c.side)[i]?).map (·.poi)).getD false)

/-- Row j of B with its scales; those of the weight store stand at BS modulo the store's size, whatever the bits above are (DESIGN CHOICE, log 83). -/
def rowB' (c : Chain) (d : Dev) (t : Tile) (h : HDesc) (ext : Nat × Nat) (j : Nat) : List RByte × List RByte :=
  let n := rowLen h.bf h.k
  let sn := scaleLen h.bf h.k
  if h.bmem then (memBytes d c.isl c.cid (h.bloc + j * h.sb) n, memBytes d c.isl c.cid (ext.2 + j * sn) sn)
  else (storeBytes d c.cid (t.wsRead (h.bloc + j * h.sb) n), storeBytes d c.cid (t.wsRead (ext.2 % wsSize + j * sn) sn))

/-- Bank 1 after a class W task (R248): unspecified bits, format none. -/
def widened (b : HBank) (d : Dev) : HBank × Dev :=
  ({ b with cells := [], base := some d.tick, m := 128, n := 128, fmt := .none, rows := [] }, { d with tick := d.tick + 16384 })

/-- A bank is written; 64-bit cells that used both banks are then unspecified (R237). -/
def storeBank (c : Chain) (k : Nat) (w : Bool) (b : HBank) (d : Dev) : Dev :=
  let t := c.tile d
  if w then
    let (b1, d) := widened t.b1 d
    c.modTile d fun t => { t with b0 := b, b1 := b1 }
  else if k = 1 ∧ t.b0.fmt = .f64 then
    c.modTile { d with tick := d.tick + 16384 } fun t => { t with b0 := { t.b0 with cells := [], base := some d.tick }, b1 := b }
  else c.modTile d fun t => t.setBank k b

/-- The task of a slot that slotOk admits: its operands, its cells, its record and counts. The fault is the first that a read met; the
cells then hold their accumulators after some groups (R264). -/
def runTask (c : Chain) (s : Nat) (ws : List Nat) (d : Dev) : Dev × Option Fail :=
  let t := c.tile d
  let h := hDesc ws
  let ext := ((t.slots.find? s).bind (·.ext)).getD (0, 0)
  let ra := (List.range (h.rowsA t c)).map (rowA' c d t h ext)
  let rb := (List.range h.n).map (rowB' c d t h ext)
  let bad := match ra.findSome? fun r => firstFail (r.1 ++ r.2.1) with
    | some f => some f
    | none => rb.findSome? fun r => firstFail (r.1 ++ r.2)
  let as := ra.map fun r => hRow c.ftz h.af h.k r.1 r.2.1 r.2.2
  let bs := rb.map fun r => hRow c.ftz h.bf h.k r.1 r.2 false
  let (b0, d) := rewide (h.cls == .w) t.b1 (t.bank h.bank) d
  let stop := fun ix n : Nat => if bad.isSome then (Config.freeBits 17 (d.tick + ix)).toNat % (n + 1) else n
  let d := if bad.isSome then { d with tick := d.tick + 16384 } else d
  let (b, k) := runCells c.ftz h.g h.k h.accf h.acc as bs stop b0
  let b := { b with m := as.length, n := h.n, fmt := h.accf, rows := if h.amem then [] else rowsOf t c.side }
  let d := storeBank c h.bank (h.cls == .w) b d
  let k := (Counts.sum ((as ++ bs).map (·.counts))).add k
  let d := c.modTile d fun t => tileCount t k
  (if bad.isSome then d else c.modTile d (tileTick · 5), bad)

/-- One task of a chain (R249, R250): the slot that runs after it and its drain, or the fault. -/
def runSlot (c : Chain) (s : Nat) (d : Dev) : Dev × Except Fail (Option Nat) :=
  let t := c.tile d
  match (t.slots.find? s).bind (·.words) with
  | none => (d, .error (islandFail s))
  | some ws =>
    if !slotOk c t s ws then (d, .error (islandFail s))
    else match runTask c s ws d with
      | (d, some f) => (d, .error f)
      | (d, none) => (d, .ok (hDesc ws).next)

/-- The drain of a slot's task from row `r` on, where its descriptor asks for one: the row that waits, if one does. -/
def slotDrain (c : Chain) (s r : Nat) (d : Dev) : Option Nat × Dev :=
  match ((c.tile d).slots.find? s).bind (·.words) with
  | none => (none, d)
  | some ws =>
    let h := hDesc ws
    match h.rte.bind ((c.tile d).routes.find? ·) with
    | some e => drainFrom c e h.df ((c.tile d).bank h.bank) r d
    | none => (none, d)

/-- The slot that runs after another. -/
def slotNext (t : Tile) (s : Nat) : Option Nat := ((t.slots.find? s).bind (·.words)).bind fun ws => (hDesc ws).next

/-- Slots that a chain runs through from one on, as many as are left. -/
def chainSlots (t : Tile) : Nat → Nat → List (List Nat)
  | 0, _ => []
  | k + 1, s => match (t.slots.find? s).bind (·.words) with
    | none => []
    | some ws => ws :: (match (hDesc ws).next with | some s => chainSlots t k s | none => [])

/-- A task of the rest of a chain reads the fired side (R254). -/
def readsSide (t : Tile) (k s : Nat) : Bool := (chainSlots t k s).any fun ws => !(hDesc ws).amem

/-- What a slot's task reads of memory: rows and scale bytes of its operands there. -/
def slotReads (c : Chain) (t : Tile) (s : Nat) : List (Nat × Nat) :=
  match (t.slots.find? s).bind (·.words) with
  | none => []
  | some ws =>
    if !slotOk c t s ws then [] else
    let h := hDesc ws
    let ext := ((t.slots.find? s).bind (·.ext)).getD (0, 0)
    (if h.amem then (List.range h.m).flatMap fun i => [(h.aloc + i * h.sa, rowLen h.af h.k), (ext.1 + i * scaleLen h.af h.k, scaleLen h.af h.k)] else [])
    ++ (if h.bmem then (List.range h.n).flatMap fun j => [(h.bloc + j * h.sb, rowLen h.bf h.k), (ext.2 + j * scaleLen h.bf h.k, scaleLen h.bf h.k)] else [])

/-! ### Tray sides (R252 to R254) -/

def Tray.side (y : Tray) (s : Nat) : TraySide := if s = 0 then y.s0 else y.s1
def Tray.setSide (y : Tray) (s : Nat) (x : TraySide) : Tray := if s = 0 then { y with s0 := x } else { y with s1 := x }
def Tray.filling (y : Tray) : TraySide := y.side y.fill
def Tray.other (y : Tray) : TraySide := y.side (1 - y.fill)

def modTray (d : Dev) (tile k : Nat) (f : Tray → Tray) : Dev := d.modTile tile fun t => { t with trays := modNth f k t.trays }

/-- The filling side holds rows and has reached THR, or is due, and the other side is free: it fires before anything else enters the tile (R254). -/
def Tray.ripe (y : Tray) : Bool :=
  y.thr != 0 && !y.other.firing && !y.filling.rows.isEmpty && (decide (y.thr ≤ y.filling.rows.length) || y.filling.due)
/-- A row may enter the filling side. -/
def Tray.hasRoom (y : Tray) : Bool := decide (y.filling.rows.length < y.thr) && !y.ripe

/-- A row joins the filling side: its data and scales into the weight store, its tag into the side; the first starts the timer. -/
def putRow (d : Dev) (tile k : Nat) (tag : RowTag) (data scales : List (Byte × Bool)) : Dev :=
  let y := ((d.tile tile).trays[k]?).getD {}
  let r := 128 * y.fill + y.filling.rows.length
  let d := d.modTile tile fun t => (t.wsWrite (y.tbase + r * y.rowb) data).wsWrite (y.tsc + r * y.scb) scales
  modTray d tile k fun y =>
    let x := y.filling
    y.setSide y.fill { x with rows := x.rows ++ [tag], left := if x.rows.isEmpty && y.timer != 0 then some y.timer else x.left }

/-- The filling side begins to fire: the other becomes the filling side; counter 6 or 7 advances. -/
def startFire (d : Dev) (tile k : Nat) (byThr : Bool) : Dev :=
  let d := modTray d tile k fun y =>
    let x := y.filling
    { y.setSide y.fill { x with left := none, due := false, firing := true } with fill := 1 - y.fill }
  d.modTile tile (tileTick · (if byThr then 6 else 7))

/-- Credits for the rows of a freed side, one message to each Sifter and tray path (R430). -/
def creditsFor : List EMsg → List (EMsg × Nat)
  | [] => []
  | m :: r =>
    let rest := creditsFor r
    let same := fun a : EMsg => a.path == m.path && a.spkg == m.spkg && a.sdie == m.sdie && a.six == m.six
    if rest.any (fun e => same e.1) then rest.map fun e => if same e.1 then (m, e.2 + 1) else e else (m, 1) :: rest

/-- A side is freed: its rows are gone and their credits return (R254, R430). -/
def freeSide (d : Dev) (isl : Isle) (k s : Nat) : Dev :=
  let rows := (((d.tile isl.tileNo).trays[k]?).map fun y => (y.side s).rows).getD []
  let d := modTray d isl.tileNo k fun y => y.setSide s {}
  (creditsFor ((rows.filter (·.own)).filterMap fun r => r.hdr.map bare)).foldl (fun d e => sendE d isl (e.1.sifterEnd d) (creditFor e.1 e.2)) d

/-- A header that stands for a row's tag in a fault record. -/
def tagHdr (t : Tag) (s : BitVec 26) (poi : Bool) : Nat :=
  Token.header { tag := t, seq := s, ma := .once, poi, cls := .data, lvl := 0, payload := List.replicate 8 Lane.none, dest := ⟨0, 0, 0, 0, .l⟩ }

/-- Whom the faults of a tray fire name (R250, R435). -/
def fireBlame (d : Dev) (cid gw ix : Nat) (r : Option RowTag) : Blame :=
  let src := gw * 2 ^ 10 + ix * 2 ^ 15
  match r with
  | none => ⟨cid, 0, 0, 0, src⟩
  | some r =>
    let foreign := match r.hdr with | some h => r.tag.cid.toNat != cid || (bare h).spkg != d.pkg | none => false
    if foreign then ⟨cid, 0, ((r.hdr.map (·.toNat)).getD 0) % 2 ^ 128, 0, src⟩ else ⟨cid, r.tag.frame, tagHdr r.tag r.seq r.poi, 0, src⟩

/-- The FTZ of what no node fires: the drains and tasks of a tray fire, and the sums of a Rack. As the first page of the load holds it at that moment (DESIGN CHOICE, log
42: R85 ties FTZ to the page of a firing, and R46 lets pages differ for a while). -/
def loadFtz (d : Dev) (cid : Nat) : Bool := ((d.graph cid).load.bind fun l => l.pages.head?.map fun p => (d.page p).ftz).getD false

/-- The chain of a task: of a fired side, whose rows without tags take those of its row 0, or of a packet (R249, R254, R256). -/
def taskChain (d : Dev) (isl : Isle) (t : Task) : Chain :=
  match t.kind, t.pk with
  | .fire k s _ r, _ =>
    let cid := (d.tile isl.tileNo).cid.getD 0
    ⟨isl, t.id, cid, loadFtz d cid, some (k, s), (r.map (·.tag)).getD ⟨0, 0, 0⟩, (r.map (·.seq)).getD 0⟩
  | _, some p => ⟨isl, p.id, p.cid, p.ftz, none, p.tag, p.outSeq⟩
  | _, none => ⟨isl, t.id, 0, false, none, ⟨0, 0, 0⟩, 0⟩

/-- Whom its faults name. -/
def chainBlame (d : Dev) (isl : Isle) (t : Task) : Blame :=
  match t.kind, t.pk with
  | .packet, some p => p.blame
  | .fire _ _ _ r, _ => (let y := d.tile isl.tileNo; fireBlame d (y.cid.getD 0) y.gw y.ix r)
  | _, _ => ⟨0, 0, 0, 0, 0⟩

/-- The slot whose task is next, and the tasks left of 16: at first, the packet's or the tray's slot. -/
def chainAt (t : Task) (first : Nat) : Nat × Nat := match t.num with | [s, k] => (s, k) | _ => (first, 16)

/-- The context that a task of a tile works for. -/
def chainCid (d : Dev) (isl : Isle) (t : Task) : Nat := match t.pk with | some p => p.cid | none => (d.tile isl.tileNo).cid.getD 0

/-- The side of a fire is freed. -/
def freeFired (c : Chain) (d : Dev) : Dev := match c.side with | some (y, s) => freeSide d c.isl y s | none => d

/-- A chain completes: the contributions of its rows leave, then its completion token (R249, R435). -/
def endChain (c : Chain) (t : Task) (d : Dev) : Dev :=
  let d := ((getTask d c.isl t.id).map (·.msgs)).getD [] |>.foldl (fun d m => sendE d c.isl m.1 m.2) d
  match t.pk with
  | some p => finishTask d c.isl { t with out := p.done }
  | none => dropTask d c.isl t

/-- The drain of slot `s` goes on from row `r`; once all its rows have left, the chain goes on with the next slot, or completes. -/
def chainDrain (c : Chain) (t : Task) (s k r : Nat) (d : Dev) : Dev :=
  match slotDrain c s r d with
  | (some i, d) => putTask d c.isl { (getTask d c.isl t.id).getD t with num := [s, k, i], ahead := [] }
  | (none, d) => match slotNext (c.tile d) s with
    | some s => putTask d c.isl { (getTask d c.isl t.id).getD t with num := [s, k - 1], ahead := [] }
    | none => endChain c t d

/-- A chain of `first` goes on by one task (R249, R250, R254): its side is freed once no task left reads it, and at a fault; the last task completes
it. It waits while the header store has no room for a row that it drains (R434); and a chain that has begun goes no further than its task in progress once its load is
pre-empted by force (R415). -/
def chainStep (d : Dev) (isl : Isle) (t : Task) (first : Nat) : Dev :=
  let c := taskChain d isl t
  let g := d.graph (chainCid d isl t)
  match t.num with
  | [s, k, r] => chainDrain c t s k r d
  | _ =>
    if !t.num.isEmpty && g.draining && g.forced then d
    else
      let (s, k) := chainAt t first
      let (_, d) := taskSawAll d isl c.cid 4 (slotReads c (c.tile d) s)
      match (if k = 0 then (d, .error (islandFail s)) else runSlot c s d) with
      | (d, .error f) => failFor (freeFired c (tock d)) isl t (chainBlame d isl t) f
      | (d, .ok next) =>
        let later := match next with | some s => readsSide (c.tile d) (k - 1) s | none => false
        chainDrain c t s k 0 (if later then tock d else freeFired c (tock d))

end Sys2Proof.Machine
end

