-- ==== Sys2Proof/Machine/MemOps.lean ====
section
/-! DEFINITION. Meanings of the memory, atomic, translation, barrier, bank, message and node-memory instructions (R201 to R232). -/

namespace Sys2Proof.Machine

/-! ### Issuing an access -/

def granuleOf (f : Fmt) : Nat := if fmtBits f = 64 then 8 else 4

/-- The FCode of an operand that a memory node needs and does not find valid. -/
def ifNone {α : Type} (v : Option α) : Option FCode := if v.isNone then some .illop else none

/-- The first cause of a list. -/
def firstFault (l : List (Option FCode)) : Option FCode := l.findSome? id

/-- An address token with POI set raises POISONC (R233). -/
def poiFault (t : Option Token) : Option FCode := if (t.map (·.poi)).getD false then some .poisonc else none

def orElseTok (t : Option Token) : Token := t.getD ⟨⟨0, 0, 0⟩, 0, .once, false, .data, 0, [], ⟨0, 0, 0, 0, .l⟩⟩

/-- The access of a firing, read from the memory literal (R206). -/
def baseAcc (x : Fire) (d : Dev) (kind : AccKind) (phys : Bool) : Access :=
  let stream := fld x.lit 7 0
  let ord := fld x.lit 12 11
  { id := 0, cid := x.cid, span := x.key, node := x.f.node, tok := orElseTok x.o.l, kind, phys
    port := ((streamDef (d.page x.pg) stream).map (·.port)).getD 0, stream
    acq := ord == 1 || ord == 3, rel := ord == 2 || ord == 3, scope := scopeOf (fld x.lit 10 8), nob := bitAt x.lit 20
    fmt := x.n.fmt, op := 0, opnd := [], ftz := (d.page x.pg).ftz, els := [], round := 0, qpos := none, acc := none, since := 0
    fault := none, retry := false, aux := [], dataTo := [], doneTo := x.dests, dataSent := false, emit := orElseTok x.o.l }

/-- The node hands its access over; its tokens carry the firing's tag and SEQ (R203, R208). -/
def issue (x : Fire) (a : Access) (d : Dev) : Dev :=
  let (sq, d) := if x.dests.isEmpty then (x.o.seq, d) else takeSeq x d
  let (i, d) := freshId d
  let t := { mkTok x sq .data 0 (List.replicate x.lanes Lane.none) with poi := false }
  d.modPage x.pg fun p => { p with accs := p.accs ++ [{ a with id := i, emit := t }] }

/-- An access of the node still waits at its port (R208). -/
def portBusy (x : Fire) (d : Dev) : Bool := (d.page x.pg).accs.any fun a => a.span == x.key && a.node == x.f.node && a.acc.isNone

def addrOf (x : Fire) : Nat := (lane64? x.lPay 0).getD 0

/-- Value of granule `k` of size `g` in a payload; none where it is not present (R125, R205). -/
def granuleVal (p : Payload) (g lane : Nat) : Option Nat := if g = 8 then lane64? p lane else lane32? p lane

def mkEl (va size lane val : Nat) (poi : Bool) : Elem := ⟨va, none, size, lane, val, poi, 0, false, false, .todo⟩

/-- Elements of a contiguous run (R211): every granule of a load, and the present granules of a store. -/
def runEls (g addr lanes : Nat) (store : Option Token) : List Elem :=
  (List.range (lanes * 4 / g)).filterMap fun k =>
    let lane := k * (g / 4)
    match store with
    | none => some (mkEl (addr + k * g) g lane 0 false)
    | some t => (granuleVal t.payload g lane).map fun v => mkEl (addr + k * g) g lane v t.poi

def lenOf (x : Fire) : Nat := let l := fld x.lit 19 13; if l = 0 then x.lanes else l

def alignFault (x : Fire) (g : Nat) : Option FCode := if addrOf x % g ≠ 0 then some .align else none

/-- LD, ST, LDP and STP (R210, R211). -/
def contiguous (i : Instr) (n : NodeRec) (store phys : Bool) : Dev → Dev :=
  fire i n
    { ports := portsOf i n
      waits := portBusy
      check := fun x _ => firstFault [ifNone (lane64? x.lPay 0), poiFault x.o.l, alignFault x (granuleOf n.fmt)]
      addr := fun x _ => addrOf x
      act := fun x d =>
        let els := runEls (granuleOf n.fmt) (addrOf x) (lenOf x) (if store then x.o.r else none)
        let a := baseAcc x d (if store then .store else .load) phys
        -- the whole run of an LDP or STP must be pinned (R222)
        issue x { a with els, aux := if phys then [0, addrOf x, 4 * lenOf x] else [], dataTo := if store then [] else x.a.toList, doneTo := if store then x.dests else x.b.toList } d }

def execLd (n : NodeRec) (s : State) : Out := lift (contiguous (.ld n) n false false) s
def execSt (n : NodeRec) (s : State) : Out := lift (contiguous (.st n) n true false) s
def execLdp (n : NodeRec) (s : State) : Out := lift (contiguous (.ldp n) n false true) s
def execStp (n : NodeRec) (s : State) : Out := lift (contiguous (.stp n) n true true) s

/-- Elements of LDG and STG: pair j of L names element j (R212). -/
def gatherElems (g n : Nat) (l : Payload) (store : Option Token) : List Elem :=
  (List.range (n / 2)).filterMap fun j =>
    (lane64? l (2 * j)).bind fun va =>
      let lane := if g = 8 then 2 * j else j
      match store with
      | none => some (mkEl va g lane 0 false)
      | some t => (granuleVal t.payload g lane).map fun v => mkEl va g lane v t.poi

/-- LDG and STG (R212). Every named address is checked, that of an absent value too. -/
def indexedAcc (i : Instr) (n : NodeRec) (store : Bool) : Dev → Dev :=
  fire i n
    { ports := portsOf i n
      waits := portBusy
      check := fun x _ => firstFault [poiFault x.o.l,
        if (gatherElems (granuleOf n.fmt) x.lanes x.lPay none).any (fun e => e.va % granuleOf n.fmt ≠ 0) then some .align else none]
      addr := fun x _ => (((gatherElems (granuleOf n.fmt) x.lanes x.lPay none).find? fun e => e.va % granuleOf n.fmt ≠ 0).map (·.va)).getD 0
      act := fun x d =>
        let els := gatherElems (granuleOf n.fmt) x.lanes x.lPay (if store then x.o.r else none)
        let a := baseAcc x d (if store then .store else .load) false
        issue x { a with els, aux := [1], dataTo := if store then [] else x.a.toList, doneTo := if store then x.dests else x.b.toList } d }

def execLdg (n : NodeRec) (s : State) : Out := lift (indexedAcc (.ldg n) n false) s
def execStg (n : NodeRec) (s : State) : Out := lift (indexedAcc (.stg n) n true) s

/-! ### Page store (R214, R358) -/

/-- Every byte of a range lies in scratch (R358). -/
def scratch (d : Dev) (pg o n : Nat) : Bool :=
  let p := d.page pg
  n == 0 || (decide (o + n ≤ 0x3E0000) && apart o n p.spillBase (tableSpan d pg p.spillLog) && p.banks.all fun b => apart o n b.off b.size)

/-- LDS and STS (R214). -/
def scratchAcc (i : Instr) (n : NodeRec) (store : Bool) : Dev → Dev :=
  fire i n
    { ports := portsOf i n
      waits := portBusy
      check := fun x d =>
        let o := (lane32? x.lPay 0).getD 0
        firstFault [ifNone (lane32? x.lPay 0), poiFault x.o.l,
          if o % granuleOf n.fmt ≠ 0 ∨ o + 4 * lenOf x > 0x400000 ∨ o ≥ 0x400000 then some .align else none,
          if scratch d x.pg o (4 * lenOf x) then none else some .permf]
      addr := fun x _ => (lane32? x.lPay 0).getD 0
      act := fun x d =>
        let els := runEls (granuleOf n.fmt) ((lane32? x.lPay 0).getD 0) (lenOf x) (if store then x.o.r else none)
        let a := { baseAcc x d (if store then .sts else .lds) false with port := 4, stream := 0, acq := false, rel := false, scope := .elem }
        issue x { a with els, dataTo := if store then [] else x.a.toList, doneTo := if store then x.dests else x.b.toList } d }

def execLds (n : NodeRec) (s : State) : Out := lift (scratchAcc (.lds n) n false) s
def execSts (n : NodeRec) (s : State) : Out := lift (scratchAcc (.sts n) n true) s

/-! ### Atomics (R216 to R219) -/

/-- The operands of an atomic: one, or compare and swap values. -/
def atomOpnds (x : Fire) (cas : Bool) : Option (List Nat) :=
  let g := granuleOf x.n.fmt
  match granuleVal x.rPay g 0 with
  | none => none
  | some v => if cas then (granuleVal x.rPay g 2).map fun y => [v, y] else some [v]

def atomicAcc (i : Instr) (n : NodeRec) (cas old : Bool) : Dev → Dev :=
  fire i n
    { ports := portsOf i n
      waits := portBusy
      check := fun x _ => firstFault [ifNone (lane64? x.lPay 0), ifNone (atomOpnds x cas), poiFault x.o.l, poiFault x.o.r,
        alignFault x (granuleOf n.fmt)]
      addr := fun x _ => addrOf x
      act := fun x d =>
        let g := granuleOf n.fmt
        let a := { baseAcc x d (if cas then .cas else .atom) false with op := fld x.lit 16 13, opnd := (atomOpnds x cas).getD [], nob := true, aux := if old then [] else [1] }
        issue x { a with els := [mkEl (addrOf x) g 0 0 false], dataTo := if old then x.a.toList else [], doneTo := if old then x.b.toList else x.dests } d }

def execAtom (n : NodeRec) (s : State) : Out := lift (atomicAcc (.atom n) n false true) s
def execCas (n : NodeRec) (s : State) : Out := lift (atomicAcc (.cas n) n true true) s
def execAtomf (n : NodeRec) (s : State) : Out := lift (atomicAcc (.atomf n) n false true) s
def execAtoms (n : NodeRec) (s : State) : Out := lift (atomicAcc (.atoms n) n false false) s

/-! ### Translation (R220, R221) -/

/-- Add rights to the pin of a leaf, or pin it; none where the table is full (R221). -/
def pinLeaf (h : Hold) (l : Leaf) (r w a : Bool) : Option Hold :=
  if h.pins.any (fun p => p.va == l.va && p.size == l.size && p.pa == l.frame) then
    some { h with pins := h.pins.map fun p => if p.va == l.va && p.size == l.size && p.pa == l.frame then { p with r := p.r || r, w := p.w || w, a := p.a || a } else p }
  else if h.pins.length ≥ 4096 then none
  else some { h with pins := h.pins ++ [⟨l.va, l.size, l.frame, r, w, a⟩] }

/-- The rights that XLAT asks of a leaf: a fault, or fine. -/
def xlatCheck (d : Dev) (cid : Nat) (l : Leaf) (acc : Nat) : Option FCode :=
  if !pteR l.bits || (acc ≥ 1 && !pteW l.bits) || (acc ≥ 2 && !pteA l.bits) then some .permf
  else if acc ≥ 1 && (l.state == 2 || movingDup d cid l) then some .wpf else none

/-- An XLAT of a moving leaf ends its migration as an abort that no program is told of (R220, R339). -/
def cancelMigr (d : Dev) (cid va : Nat) : Dev :=
  let hit := fun m : Migr => m.cid == cid && decide (m.va ≤ va) && decide (va < m.va + m.size) && (m.phase == .enter || m.phase == .copy)
  { d with leaven := { d.leaven with migrs := d.leaven.migrs.map fun m => if hit m = true then { m with phase := .abort 3 } else m } }

/-- Translate and pin one VA. -/
def xlatOne (pg cid va acc : Nat) (d : Dev) : Except FCode Leaf × Dev :=
  match translate d pg cid va false with
  | (.error e, d) => (.error e, d)
  | (.ok l, d) =>
    match xlatCheck d cid l acc with
    | some e => (.error e, d)
    | none =>
      let d := if l.state == 1 then cancelMigr d cid va else d
      match pinLeaf (d.hold cid) l true (acc ≥ 1) (acc ≥ 2) with
      | none => (.error .xlatf, d)
      | some h => (.ok l, d.modHold cid fun _ => h)

/-- The pairs that XLAT takes: every valid pair, or pair 0 (R220). -/
def xlatPairs (x : Fire) : List (Nat × Nat) :=
  if bitAt x.lit 0 then ((lane64? x.lPay 0).map fun v => (0, v)).toList
  else (List.range (x.lanes / 2)).filterMap fun j => (lane64? x.lPay (2 * j)).map fun v => (j, v)

/-- Translate the pairs in ascending order: the leaves, or the first that fails. -/
def xlatAll (pg cid acc : Nat) : List (Nat × Nat) → Dev → Except (FCode × Nat × Nat) (List (Nat × Nat × Leaf)) × Dev
  | [], d => (.ok [], d)
  | (j, va) :: r, d =>
    match xlatOne pg cid va acc d with
    | (.error e, d) => (.error (e, j, va), d)
    | (.ok l, d) => match xlatAll pg cid acc r d with
      | (.error e, d) => (.error e, d)
      | (.ok ls, d) => (.ok ((j, va, l) :: ls), d)

/-- A leaf in COLL, or one whose ports are held by a switch, makes XLAT wait (R220, R339). -/
def xlatWaits (x : Fire) (d : Dev) : Bool :=
  (xlatPairs x).any fun p => migrHolds d x.cid p.2 1 || (match walk d x.cid p.2 with | .ok l => l.state == 3 | .error _ => false)

/-- XLAT. A failure with DSTB named goes there as a fault token; otherwise the fault holds the L token (R220). -/
def xlatStep (n : NodeRec) (d : Dev) : Dev :=
  fire (.xlat n) n
    { ports := portsOf (.xlat n) n
      waits := xlatWaits
      check := fun x _ => firstFault [if bitAt x.lit 0 then ifNone (lane64? x.lPay 0) else none, poiFault x.o.l]
      act := fun x d' =>
        let acc := fld x.lit 2 1
        match xlatAll x.pg x.cid acc (xlatPairs x) d' with
        | (.ok ls, d') =>
          let p := List.replicate x.lanes Lane.none
          let put := fun (p : Payload) (j v : Nat) => modNth (fun _ => Lane.some (v / 2 ^ 32)) (2 * j + 1) (modNth (fun _ => Lane.some (v % 2 ^ 32)) (2 * j) p)
          let p := ls.foldl (fun p e => put p e.1 (e.2.2.pa e.2.1)) p
          let p := match bitAt x.lit 0, ls with
            | true, e :: _ => modNth (fun _ => Lane.some (e.2.2.bits % 2 ^ 16)) 4 (put p 1 (e.2.2.va + e.2.2.size - e.2.1))
            | _, _ => p
          emitEach { x with o := { x.o with poi := false } } d' [(x.a, .data, 0, .once, p)]
        | (.error (e, j, va), d') =>
          if x.b.isSome then
            emitEach { x with o := { x.o with poi := false } } d'
              [(x.b, .fault, 0, .once, lanesThen x.lanes [fcodeNum e, j, va % 2 ^ 32, va / 2 ^ 32])]
          else
            -- the L token stays held with the fault: the operands of the firing return to their places, parked
            let d' := { d' with pages := d'.pages.set x.pg { d'.page x.pg with toks := (d.page x.pg).toks } }
            takeFault d' x.cid (some x.f.tag.frame) e { port := true, hdr := x.hdr, loc := locOf d' x.key x.f.node none, addr := va } } d

def execXlat (n : NodeRec) (s : State) : Out := lift (xlatStep n) s

/-! ### Barriers (R223 to R225) -/

/-- Streams that an SBAR names; ALL names every declared stream. -/
def sbarStreams (x : Fire) (d : Dev) : List Nat :=
  if x.n.ary = Ary.lr then
    (List.range 256).filter fun s => match lane32? x.rPay (s / 32) with | some v => bitAt v (s % 32) | none => false
  else if bitAt x.lit 11 then (d.page x.pg).streams.map (·.id)
  else [fld x.lit 7 0]

/-- A barrier over accesses accepted before it: it emits at once where they are performed, and waits otherwise. -/
def barrierAct (sbar : Bool) (x : Fire) (d : Dev) : Dev :=
  let sc := scopeOf (fld x.lit 10 8)
  let streams := if sbar then sbarStreams x d else []
  let accs := (d.page x.pg).accs.filter fun a => a.acc.isSome && (!sbar || (decide (a.port < 4) && streams.contains a.stream))
  let open_ := (accs.filter fun a => !a.perfAt d sc).map (·.id)
  let (sq, d) := if x.dests.isEmpty then (x.o.seq, d) else takeSeq x d
  let t := mkTok x sq ((x.o.l.map (·.cls)).getD .data) ((x.o.l.map (·.lvl)).getD 0) x.lPay
  let toks := x.dests.map fun t' => { t with dest := t' }
  if open_.isEmpty then sendAll d (.span x.key) t x.dests
  else d.modPage x.pg fun p => { p with barriers := p.barriers ++ [⟨x.key, sbar, sc, streams, open_, toks⟩] }

def execSbar (n : NodeRec) (s : State) : Out :=
  lift (fire (.sbar n) n { ports := portsOf (.sbar n) n, act := fun x d => barrierAct true x d }) s
def execFence (n : NodeRec) (s : State) : Out :=
  lift (fire (.fence n) n { ports := portsOf (.fence n) n, act := fun x d => barrierAct false x d }) s

/-! ### Cache banks (R226 to R229) -/

/-- The range of FLUSH and INVAL: none for every bank of the page. -/
def bankRange (x : Fire) : Option (Nat × Nat) :=
  if bitAt x.lit 16 then none else some (addrOf x, (lane32? x.lPay 2).getD 0)

def rangeFault (x : Fire) : Option FCode :=
  if bitAt x.lit 16 then none else firstFault [ifNone (lane64? x.lPay 0), ifNone (lane32? x.lPay 2), poiFault x.o.l]

/-- A line at a VA lies, in whole or in part, in a range; an empty range holds none. -/
def lineIn (r : Option (Nat × Nat)) (va : Nat) : Bool :=
  match r with
  | none => true
  | some (a, n) => n != 0 && decide (a < va + 64) && decide (va < a + n)

/-- Lines of a page's banks that lie in a range, taken whole. -/
def linesIn (p : Page) (r : Option (Nat × Nat)) : List (Nat × Nat) :=
  (indexed p.banks).flatMap fun (k, b) => (b.lines.filter fun l => lineIn r (b.va + 64 * l.ix)).map fun l => (k, l.ix)

/-- Earlier write-backs of the lines of a range: a FLUSH answers for them too (R318). -/
def wbacksIn (p : Page) (r : Option (Nat × Nat)) : List Nat := (p.wbacks.filter fun w => lineIn r w.1).map (·.2)

/-- Write back lines and, for INVAL, drop them; the writes made. A line whose data could not be written back is dropped by DISC only (log 9). -/
def cleanLines (x : Fire) (inv disc : Bool) (ls : List (Nat × Nat)) (d : Dev) : List Nat × Dev :=
  ls.foldl (fun (acc : List Nat × Dev) l =>
    let (ws, d) := if disc then ([], acc.2) else writeBack { acc.2 with opRound := (acc.2.span x.key).rnd.round } x.pg l.1 l.2 x.cid x.key
    (acc.1 ++ ws, if inv && (disc || !stillDirty d x.pg l.1 l.2) then modBank d x.pg l.1 (dropLine · l.2) else d)) ([], d)

/-- An acquire accepted earlier still holds what a firing does at once (R209). -/
def behindAcquire (x : Fire) (d : Dev) : Bool := acquireOpen d (d.page x.pg)

/-- An access that is done once its write-backs are performed. -/
def bankAcc (x : Fire) (sc : Scope) (ws : List Nat) (d : Dev) : Dev :=
  let (n, d) := freshId d
  issue x { baseAcc x d .flush false with port := 6, stream := 0, scope := sc, acq := false, rel := false
                                          acc := some n, qpos := some n, since := d.now.toNat
                                          els := [{ mkEl 0 4 0 0 false with st := .wrote ws }] } d

def execFlush (n : NodeRec) (s : State) : Out :=
  lift (fire (.flush n) n
    { ports := portsOf (.flush n) n
      waits := behindAcquire
      check := fun x _ => rangeFault x
      addr := fun x _ => addrOf x
      act := fun x d =>
        let old := wbacksIn (d.page x.pg) (bankRange x)
        let (ws, d) := cleanLines x false false (linesIn (d.page x.pg) (bankRange x)) d
        bankAcc x (scopeOf (fld x.lit 10 8)) (old ++ ws) d }) s

def execInval (n : NodeRec) (s : State) : Out :=
  lift (fire (.inval n) n
    { ports := portsOf (.inval n) n
      waits := behindAcquire
      check := fun x _ => rangeFault x
      addr := fun x _ => addrOf x
      act := fun x d =>
        let old := if bitAt x.lit 17 then [] else wbacksIn (d.page x.pg) (bankRange x)
        let (ws, d) := cleanLines x true (bitAt x.lit 17) (linesIn (d.page x.pg) (bankRange x)) d
        bankAcc x (scopeOf (fld x.lit 10 8)) (old ++ ws) d }) s

/-- The banks of a context's resident load. -/
def loadBanks (d : Dev) (cid : Nat) : List Bank :=
  match (d.graph cid).load with
  | some l => l.pages.flatMap fun p => (d.page p).banks
  | none => []

/-- Size, VA and offset of a bank keep the limits of `.bank` (R115). -/
def bankShape (va size off : Nat) : Bool :=
  size != 0 && size % 0x10000 == 0 && va % size == 0 && off % 0x10000 == 0 && decide (off < 0x400000)

def execBind (n : NodeRec) (s : State) : Out :=
  lift (fire (.bind n) n
    { ports := portsOf (.bind n) n
      check := fun x d =>
        match lane64? x.lPay 0, lane32? x.lPay 2, lane32? x.lPay 3 with
        | some va, some size, some off =>
          if (poiFault x.o.l).isSome then some .poisonc
          else if !bankShape va size off then some .illop
          else if (loadBanks d x.cid).length ≥ 64 || (loadBanks d x.cid).any (fun b => !apart va size b.va b.size)
            || (d.page x.pg).banks.any (fun b => !apart off size b.off b.size)
            || decide (off + size > 0x3E0000) || !apart off size (d.page x.pg).spillBase (tableSpan d x.pg (d.page x.pg).spillLog) then some .permf
          else none
        | _, _, _ => some .illop
      addr := fun x _ => addrOf x
      act := fun x d =>
        match lane64? x.lPay 0, lane32? x.lPay 2, lane32? x.lPay 3 with
        | some va, some size, some off => 
          bankAcc x .elem [] (({ d with tick := d.tick + 0x400000 } : Dev).modPage x.pg fun (p : Page) => { p.lose off size d.tick with banks := p.banks ++ [{ va := va, size := size, off := off, lines := [] }] })
        | _, _, _ => d }) s

def execBindUnbind (n : NodeRec) (s : State) : Out :=
  lift (fire (.bindUnbind n) n
    { ports := portsOf (.bindUnbind n) n
      waits := behindAcquire
      check := fun x d =>
        match lane64? x.lPay 0 with
        | none => some .illop
        | some va => if (poiFault x.o.l).isSome then some .poisonc else if (d.page x.pg).banks.any (·.va == va) then none else some .permf
      addr := fun x _ => addrOf x
      act := fun x d =>
        match firstIdx (fun b : Bank => b.va == addrOf x) (d.page x.pg).banks with
        | none => d
        | some k =>
          let ls := (linesIn (d.page x.pg) none).filter (·.1 == k)
          let old := match (d.page x.pg).banks[k]? with | some b => wbacksIn (d.page x.pg) (some (b.va, b.size)) | none => []
          let (ws, d) := cleanLines x false false ls d
          bankAcc x .sys (old ++ ws) (d.modPage x.pg fun p => { p with banks := dropNth k p.banks }) }) s

/-- PREF (R229): one element for each 64-byte line of the run. -/
def execPref (n : NodeRec) (s : State) : Out :=
  lift (fire (.pref n) n
    { ports := portsOf (.pref n) n
      waits := portBusy
      check := fun x _ => firstFault [ifNone (lane64? x.lPay 0), ifNone (lane32? x.lPay 2), poiFault x.o.l]
      act := fun x d =>
        let va := addrOf x
        let len := (lane32? x.lPay 2).getD 0
        let els := (List.range ((va + len + 63) / 64 - va / 64)).map fun k => mkEl ((va / 64 + k) * 64) 4 0 0 false
        let a := { baseAcc x d .pref false with acq := false, rel := false, scope := .elem }
        issue x { a with els := if len = 0 then [{ mkEl va 4 0 0 false with st := .read [] }] else els } d }) s

/-! ### Messages (R230, R231) -/

/-- The mailbox, the context, and one more than the package where R names one. -/
def sendTo (x : Fire) : List Nat :=
  [fld x.lit 3 0, (lane32? x.rPay 0).getD 0 % 64, match lane32? x.rPay 1 with | some v => v % 1024 + 1 | none => 0]

def sendAcc (x : Fire) (d : Dev) : Access :=
  { baseAcc x d .msend false with port := 5, stream := 0, acq := false, rel := false, scope := .elem, aux := sendTo x, els := [mkEl 0 4 0 0 false] }

def execMsend (n : NodeRec) (s : State) : Out :=
  lift (fire (.msend n) n
    { ports := portsOf (.msend n) n
      waits := fun x d => portBusy x d || (d.page x.pg).accs.any fun a =>
        a.kind == .msend && a.span == x.key && a.node == x.f.node && a.fault.isSome && sameBox d a (sendAcc x d)
      check := fun x _ => ifNone (lane32? x.rPay 0)
      act := fun x d => issue x (sendAcc x d) d }) s

def execMrecv (n : NodeRec) (s : State) : Out :=
  lift (fire (.mrecv n) n
    { ports := portsOf (.mrecv n) n
      waits := fun x d => behindAcquire x d || (!bitAt x.lit 4 && ((d.hold x.cid).mail.getD (fld x.lit 3 0) []).isEmpty)
      act := fun x d =>
        let k := fld x.lit 3 0
        match (d.hold x.cid).mail.getD k [] with
        | m :: rest =>
          let d := d.modHold x.cid fun h => { h with mail := h.mail.set k rest }
          let p := m.lanes ++ List.replicate (x.lanes - m.lanes.length) Lane.none
          emitData { x with o := { x.o with poi := m.poi || x.o.poi } } p d
        | [] => emitData x (List.replicate x.lanes Lane.none) d }) s

/-! ### Node memory (R232) -/

/-- The slot that L names: the FE key, or a status 1 or 2. -/
def nodeSlot (x : Fire) (d : Dev) : Except Nat (Nat × Nat) :=
  let slot := (lane32? x.lPay 0).getD 0 % 1024
  let v := (lane32? x.lPay 1).getD 0
  match (d.loadOf x.key).bind fun l => l.feAt (fld v 6 0) (fld v 13 8) with
  | none => .error 1
  | some k => if !(d.span k).anchor then .error 1 else if slot = 0x3FF then .error 2 else .ok (k, slot)

def slotFault (x : Fire) : Option FCode := firstFault [ifNone (lane32? x.lPay 0), ifNone (lane32? x.lPay 1), poiFault x.o.l]

def execLdnode (n : NodeRec) (s : State) : Out :=
  lift (fire (.ldnode n) n
    { ports := portsOf (.ldnode n) n
      check := fun x _ => slotFault x
      act := fun x d =>
        let (st, p) := match nodeSlot x d with
          | .error e => (e, List.replicate x.lanes Lane.none)
          | .ok (k, slot) =>
            let w := ((d.span k).nodes.getD slot 0).toNat
            (0, lanesThen x.lanes [fld w 31 0, fld w 63 32, fld w 95 64])
        emitEach { x with o := { x.o with poi := false } } d
          [(x.a, .data, 0, .once, p), (x.b, .data, 0, .once, lanesThen x.lanes [st])] }) s

def execWrnode (n : NodeRec) (s : State) : Out :=
  lift (fire (.wrnode n) n
    { ports := portsOf (.wrnode n) n
      check := fun x _ => firstFault [slotFault x, ifNone (lane32? x.rPay 0), ifNone (lane32? x.rPay 1), ifNone (lane32? x.rPay 2)]
      act := fun x d =>
        let (st, d) := match nodeSlot x d with
          | .error e => (e, d)
          | .ok (k, slot) =>
            let v := fun j => (lane32? x.rPay j).getD 0
            let r : Record := BitVec.ofNat 96 (v 0 + v 1 * 2 ^ 32 + v 2 * 2 ^ 64)
            (0, updateInputs x.cid (d.modSpan k fun sp => { sp with nodes := sp.nodes.set slot r }))
        let (q, d) := if x.dests.isEmpty then (x.o.seq, d) else takeSeq x d
        let d := sendAll d (.span x.key) (mkTok x q .data 0 (lanesThen x.lanes [st])) x.a.toList
        sendAll d (.span x.key) { mkTok x q .data 0 (List.replicate x.lanes Lane.none) with poi := false } x.b.toList }) s

end Sys2Proof.Machine
end

