-- ==== Sys2Proof/Machine/Peel.lean ====
section
/-! DEFINITION. Peel copies: PCOPY, PFILL, PGATH and PSCAT (R283 to R285), with the range scoreboard (R284) and what a fault leaves
(R274). -/

namespace Sys2Proof.Machine

/-! ### Descriptors (R283, R285) -/

/-- A field of a descriptor at a byte offset. -/
def dfld (v o n : Nat) : Nat := fld v (8 * (o + n) - 1) (8 * o)
def dInt (v o : Nat) : Int := valOf (dfld v o 8) 64 true

/-- An endpoint address as a 64-bit number. -/
def at64 (x : Int) : Nat := (x % (2 ^ 64 : Int)).toNat

/-- One row to copy: source and destination, or the pattern, and its length. -/
structure CopyRow where
  src : Nat
  dst : Nat
  len : Nat
  deriving DecidableEq, Repr

/-- A copy: its rows in order, whether each endpoint is a page store, the pattern of a fill, and SCOPE. -/
structure Copy where
  rows : List CopyRow
  sps : Bool
  dps : Bool
  pat : Option Nat
  scope : Nat
  deriving DecidableEq, Repr

/-- PCOPY and PFILL (R283). -/
def boxCopy (fill : Bool) (v : Nat) : Option Copy :=
  let flags := dfld v 0x1C 4
  let scope := fld flags 2 0
  let sps := bitAt flags 3
  if scope > 4 ∨ fld flags 31 5 ≠ 0 ∨ (fill ∧ sps) then none
  else
    let rows := (List.range (dfld v 0x18 4)).flatMap fun z => (List.range (dfld v 0x14 4)).map fun y =>
      (⟨at64 (dfld v 0 8 + z * dInt v 0x28 + y * dInt v 0x20), at64 (dfld v 8 8 + z * dInt v 0x38 + y * dInt v 0x30), dfld v 0x10 4⟩ : CopyRow)
    some ⟨if dfld v 0x10 4 = 0 then [] else rows, sps, bitAt flags 4, if fill then some (dfld v 0 8) else none, scope⟩

/-- PGATH and PSCAT over the indices read (R285). -/
def indexCopy (gather : Bool) (v : Nat) (idx : List Int) : Copy :=
  let flags := dfld v 0x1C 4
  let ny := dfld v 0x28 4
  let rows := (indexed idx).flatMap fun (i, x) => (List.range ny).map fun (y : Nat) =>
    let a := at64 (dfld v 0 8 + x * dfld v 0x20 4 + y * dInt v 0x30)
    let b := at64 (dfld v 8 8 + ((i * ny + y : Nat) : Int) * dInt v 0x38)
    if gather then (⟨a, b, dfld v 0x24 4⟩ : CopyRow) else ⟨b, a, dfld v 0x24 4⟩
  let pps := bitAt flags 4
  ⟨if dfld v 0x24 4 = 0 then [] else rows, !gather && pps, gather && pps, none, fld flags 3 1⟩

/-- The index array's place and element size, where the descriptor is a good one. -/
def indexArray (v : Nat) : Option (Nat × Nat) :=
  let flags := dfld v 0x1C 4
  let size := if bitAt flags 0 then 8 else 4
  if fld flags 3 1 > 4 ∨ fld flags 31 5 ≠ 0 ∨ dfld v 0x20 4 = 0 ∨ dfld v 0x20 4 > 2 ^ 31 ∨ dfld v 0x2C 4 ≠ 0 ∨ dfld v 0x10 8 % size ≠ 0 then none
  else some (dfld v 0x10 8, size)

/-- How many indices a copy reads: a copy with a zero count completes with no access (R283, R285). -/
def indexCount (v : Nat) : Nat := if dfld v 0x24 4 = 0 ∨ dfld v 0x28 4 = 0 then 0 else dfld v 0x18 4

/-- The copy that a packet's descriptor asks for. -/
def copyOf (d : Dev) (isl : Isle) (p : Packet) : Except Fail Copy :=
  match taskRead d isl p.cid (p.pair 0) 64 with
  | .error f => .error f
  | .ok bs =>
    let v := numOf bs
    let box := fun fill => match boxCopy fill v with | some c => Except.ok c | none => .error (islandFail 1)
    let ind := fun gather => match indexArray v with
      | none => Except.error (islandFail 1)
      | some (va, size) => match if indexCount v = 0 then Except.ok [] else taskRead d isl p.cid va (size * indexCount v) with
        | .error f => .error f
        | .ok l => .ok (indexCopy gather v ((chunks size (indexCount v) l).map fun c => valOf (numOf c) (8 * size) true))
    match p.instr with
    | .pfill _ => box true
    | .pgath _ => ind true
    | .pscat _ => ind false
    | _ => box false

/-- The hull of the destination in the page store (R284). -/
def Copy.hull (c : Copy) : Option (Nat × Nat) :=
  if !c.dps || c.rows.isEmpty then none
  else
    let lo := (c.rows.map (·.dst)).foldl min (2 ^ 64)
    let hi := (c.rows.map fun r => r.dst + r.len).foldl max 0
    some (lo, hi - lo)

/-! ### Bytes -/

/-- Bytes of a source row with the poison each carries. A poisoned one of the page store that a context under rollback containment meets makes it roll
back (R353). -/
def srcRow (d : Dev) (isl : Isle) (p : Packet) (c : Copy) (r : CopyRow) : List (Except Fail (Byte × Bool)) :=
  match c.pat with
  | some v => (List.range r.len).map fun b => .ok (BitVec.ofNat 8 (fld v (8 * (b % 8) + 7) (8 * (b % 8))), false)
  | none =>
    if c.sps then
      let g := d.page (pageOfFe p.span)
      let back := rollsBack d p.cid
      (List.range r.len).map fun b =>
        let poi := g.poisoned (r.src + b) 1
        if back && poi then .error ⟨.poisonc, 0, r.src + b⟩ else .ok (g.byte (r.src + b), poi)
    else memBytes d isl p.cid r.src r.len

/-- A row that a page-store endpoint does not hold in scratch (R283). -/
def badStore (d : Dev) (p : Packet) (c : Copy) : Option Fail :=
  let pg := pageOfFe p.span
  c.rows.findSome? fun r =>
    if c.sps && !scratch d pg r.src r.len then some ⟨.permf, 0, r.src⟩
    else if c.dps && !scratch d pg r.dst r.len then some ⟨.permf, 0, r.dst⟩ else none

/-- Bytes written to the issuing page's store, poison by granule. -/
def storeRow (d : Dev) (cid pg o : Nat) (bs : List (Byte × Bool)) : Dev :=
  let d := logStore d cid pg o bs.length
  (chunksOf 4 0 ((List.range bs.length).map fun k => some (o + k))).foldl (fun d c =>
    let part := (bs.drop c.1).take c.2.2
    d.modPage pg fun p => p.write c.2.1 (part.map (·.1)) (part.any (·.2))) d

/-- Rows whose every byte was read. -/
def rowOk (bs : List (Except Fail (Byte × Bool))) : List (Byte × Bool) := bs.filterMap fun b => match b with | .ok x => some x | .error _ => none

/-- Granules that an abandoned copy may have written: of the bytes that could be read, some aligned 16-byte granules (R274). -/
def abandonCopy (d : Dev) (isl : Isle) (p : Packet) (c : Copy) (src : List (CopyRow × List (Except Fail (Byte × Bool)))) : Dev :=
  let all := src.flatMap fun (r : CopyRow × List (Except Fail (Byte × Bool))) => (indexed r.2).filterMap fun (k, b) => match b with | .ok x => some (r.1.dst + k, x.1, x.2) | .error _ => none
  let (ks, d) := freeGranules 16 d all
  if c.dps then ks.foldl (fun (d : Dev) (k : Nat × Byte × Bool) => storeRow d p.cid (pageOfFe p.span) k.1 [(k.2.1, k.2.2)]) d
  else writeSome d isl p.cid 16 ks

/-- The copy itself: the writes made, or a fault with what it leaves. -/
def doCopy (d : Dev) (isl : Isle) (p : Packet) (c : Copy) : Except (Fail × Dev) (List Nat × Dev) :=
  match badStore d p c with
  | some f => .error (f, d)
  | none =>
    let src := c.rows.map fun (r : CopyRow) => (r, srcRow d isl p c r)
    let bad := match src.findSome? fun (r : CopyRow × List (Except Fail (Byte × Bool))) => r.2.findSome? fun b => match b with | .error f => some f | .ok _ => none with
      | some f => some f
      | none => if c.dps then none else c.rows.findSome? fun (r : CopyRow) =>
          match vaKeys d isl.die p.cid r.dst r.len .wr with | .error e => some (failAt e) | .ok _ => none
    match bad with
    | some f => .error (f, abandonCopy d isl p c src)
    | none =>
      if c.dps then .ok ([], src.foldl (fun (d : Dev) (r : CopyRow × List (Except Fail (Byte × Bool))) => storeRow d p.cid (pageOfFe p.span) r.1.dst (rowOk r.2)) d)
      else taskWrites d isl p.cid 16 (src.map fun (r : CopyRow × List (Except Fail (Byte × Bool))) => (r.1.dst, rowOk r.2))

/-! ### Meanings -/

def execPcopy (n : NodeRec) (s : State) : Out := engineFire (.pcopy n) n [0, 1] s
def execPgath (n : NodeRec) (s : State) : Out := engineFire (.pgath n) n [0, 1] s
def execPscat (n : NodeRec) (s : State) : Out := engineFire (.pscat n) n [0, 1] s
def execPfill (n : NodeRec) (s : State) : Out := engineFire (.pfill n) n [0, 1] s

/-- Accesses of LDS and STS of the issuing page that were accepted and not performed. -/
def openScratch (d : Dev) (pg : Nat) : List Nat :=
  ((d.page pg).accs.filter fun a => (a.kind == .lds || a.kind == .sts) && a.acc.isSome && a.fault.isNone && !a.perfAt d .elem).map (·.id)

/-- A copy is accepted: its page-store range enters the scoreboard (R284). -/
def copyAccept (d : Dev) (isl : Isle) (p : Packet) : Dev :=
  let pg := pageOfFe p.span
  let d' := takePacket d isl p fun t => { t with num := openScratch d pg }
  match copyOf d isl p with
  | .ok c => (match c.hull with
    | some (o, n) => d'.modPage pg fun g => { g with score := g.score ++ [⟨p.id, o, n⟩] }
    | none => d')
  | .error _ => d'

/-- What a copy reads of global memory: its descriptor, its index array and its source rows. -/
def copyReads (d : Dev) (isl : Isle) (p : Packet) (c : Copy) : List (Nat × Nat) :=
  let v := match taskRead d isl p.cid (p.pair 0) 64 with | .ok bs => numOf bs | .error _ => 0
  let index := match p.instr with
    | .pgath _ | .pscat _ => ((indexArray v).map fun x => (x.1, x.2 * indexCount v)).toList
    | _ => []
  (p.pair 0, 64) :: index ++ (if c.sps || c.pat.isSome then [] else c.rows.map fun r => (r.src, r.len))

/-- The copy is carried out once the LDS and STS accepted before it are performed. -/
def copyWork (d : Dev) (isl : Isle) (t : Task) (p : Packet) : Dev :=
  let pg := pageOfFe p.span
  if tasksHeld d p.cid || t.num.any (openScratch d pg).contains then d
  else match copyOf d isl p with
    | .error f => failTask d isl t f
    | .ok c =>
      let (rs, d) := taskSawAll d isl p.cid 16 (copyReads d isl p c)
      match doCopy d isl p c with
      | .error (f, d) => failTask (tock d) isl t f
      | .ok (ws, d) => afterWork (tock d) isl t (rs ++ ws) (scopeOf c.scope) p.done

end Sys2Proof.Machine
end

