-- ==== Sys2Proof/Machine/Coll.lean ====
section
/-! DEFINITION. The collective logic: rank lists and membership (R290, R292, R293, R463), COLL with its three events (R291, R292), RLINV. What
ranks on other packages do is open (log 8): whether they agree, when they join, what their sources hold. -/

namespace Sys2Proof.Machine

/-! ### Rank lists (R290, R293) -/

/-- The rank list at a VA: the cached one or the one in memory where one is cached, else the one in memory, which is then cached; with the writes that the
reads of memory returned. -/
def rankList (d : Dev) (isl : Isle) (cid va n : Nat) : Except Fail (List Nat × List Nat × Dev) :=
  let mem := fun d : Dev => match taskRead d isl cid va (4 * n) with
    | .error f => Except.error f
    | .ok bs =>
      let l := (chunks 4 n bs).map numOf
      let (seen, d) := taskSaw d isl cid 16 va (4 * n)
      .ok (l, seen, { d with rankCache := d.rankCache.filter (fun e => !(e.1 == cid && e.2.1 == va)) ++ [(cid, va, l)] })
  match d.rankCache.find? fun e => e.1 == cid && e.2.1 == va && e.2.2.length == n with
  | some e =>
    let (k, d) := freeNat 1 d
    if k = 1 then .ok (e.2.2, [], d) else mem d
  | none => mem d

def rankPkg (e : Nat) : Nat := fld e 9 0
def rankCid (e : Nat) : Nat := fld e 15 10

/-- The fault of a rank list for member `me` of a context: a bad list, or a member of another job (R290). The JOBID of a member on another package is
open (log 8). -/
def rankFault (d : Dev) (cid me : Nat) (l : List Nat) : Option Fail :=
  if !(l.all (· < 2 ^ 16) && l.Nodup && l[me]? == some (d.pkg + cid * 2 ^ 10)) then some (islandFail 9)
  else if l.any fun e =>
      if rankPkg e == d.pkg then (d.ctx (rankCid e)).jobid != (d.ctx cid).jobid else Config.outsideJob d.tick (rankPkg e) (rankCid e) then some ⟨.permf, 0, 0⟩
  else none

/-! ### Membership (R292, R463) -/

/-- Tasks of a context that are in a collective: of the collective logic and of the Braid units. -/
def collTasks (d : Dev) (cid : Nat) : List (Isle × Task) :=
  let isles := ⟨.coll, 4, cid⟩ :: (List.range 4).map fun k => (⟨.braid, k, 0⟩ : Isle)
  isles.flatMap fun i => ((d.chan i).tasks.filter fun t => t.coll.isSome && t.cid? == some cid).map fun t => (i, t)

def coidBusy (d : Dev) (cid coid : Nat) : Bool := (collTasks d cid).any fun x => (x.2.coll.map (·.coid)) == some coid

/-- The node a collective is fired by: COLL, BSWAP or BPROB (R292, R297, R298). -/
def CollDesc.node (c : CollDesc) : Nat := if c.op ≤ 4 then 0 else if c.op = 16 then 1 else 2

/-- The task of a local rank in a collective, in a phase; none where it has not come so far, or where its exchange was abandoned (R452). The members of a
COLL are COLL firings, those of a BSWAP BSWAP firings, those of a BPROB BPROB firings. -/
def memberIn (d : Dev) (c : CollDesc) (phase : Nat) (e : Nat) : Option (Isle × Task) :=
  (collTasks d (rankCid e)).find? fun x => x.2.phase == phase && x.2.coll.any fun m => m.coid == c.coid && m.node == c.node && !m.lost

def localRanks (d : Dev) (c : CollDesc) : List Nat := c.ranks.filter fun e => rankPkg e == d.pkg

/-- Every local member has joined. -/
def allJoined (d : Dev) (c : CollDesc) : Bool := (localRanks d c).all fun e => (memberIn d c 1 e).isSome

/-- Two members agree (R292). -/
def agree (a b : CollDesc) : Bool :=
  a.op == b.op && a.ef == b.ef && a.rop == b.rop && a.rm == b.rm && a.cnt == b.cnt && a.nr == b.nr && a.root == b.root && a.ranks == b.ranks

/-- The local members of a collective that all joined, by rank, and whether they agree; members of other packages agree or not (log 8). -/
def membersOf (d : Dev) (c : CollDesc) : List (Nat × Isle × Task) × Bool × Dev :=
  let ms := (indexed c.ranks).filterMap fun (r, e) => if rankPkg e == d.pkg then (memberIn d c 1 e).map fun x => (r, x.1, x.2) else none
  let same := ms.all fun m => (m.2.2.coll.map (agree c)).getD false
  let (k, d) := if ms.length = c.ranks.length then (0, d) else freeNat 1 d
  (ms, same && k == 0, d)

/-- A member joins: its task holds what it read, with the writes that its reads returned, and since when it has joined. -/
def joinColl (d : Dev) (isl : Isle) (t : Task) (c : CollDesc) (saw : List Nat) : Dev :=
  putTask d isl { t with phase := 1, coll := some { c with joined := d.now.toNat }, writes := saw }

/-- The deadline of a member that has joined has passed, and not all its peers have joined, or those that have wait for one another (R448, R463). -/
def joinLate (d : Dev) (c : CollDesc) : Bool :=
  let cj := fld d.sb.ctl.toNat 47 32
  cj != 0 && decide (c.joined + cj * 2 ^ 20 ≤ d.now.toNat)
  && (!allJoined d c || (localRanks d c).length != c.ranks.length
      || (localRanks d c).any fun e => (memberIn d c 1 e).any fun x => !(x.2.coll.any (agree c)))

/-! ### COLL (R290, R291) -/

/-- Bytes of an element by EF; none for a reserved code. -/
def efSize (ef : Nat) : Option Nat :=
  if ef ≤ 1 ∨ ef = 8 then some 4 else if ef = 6 ∨ ef = 7 ∨ ef = 9 then some 8 else if ef = 10 ∨ ef = 11 then some 2 else none

/-- A COLL descriptor within its limits, with the place of its rank list. -/
def collDesc (v : Nat) : Option (CollDesc × Nat) :=
  let c : CollDesc :=
    { op := dfld v 0x28 1, ef := dfld v 0x29 1, rop := dfld v 0x2A 1, rm := dfld v 0x2B 1, nr := dfld v 0x18 4, me := dfld v 0x1C 4, cnt := dfld v 0x20 8
      root := dfld v 0x2C 4, coid := dfld v 0x30 2, sva := dfld v 0 8, dva := dfld v 8 8, scope := dfld v 0x32 1, adest := dfld v 0x34 4, ranks := [], joined := 0 }
  match efSize c.ef with
  | none => none
  | some z =>
    if c.op ≤ 4 ∧ c.rop ≤ 5 ∧ (c.rop < 3 ∨ c.ef < 8) ∧ c.rm ≤ 3 ∧ 1 ≤ c.nr ∧ c.nr ≤ 65536 ∧ c.me < c.nr ∧ c.root < c.nr ∧ (c.scope = 3 ∨ c.scope = 4)
      ∧ c.sva % z = 0 ∧ c.dva % z = 0 ∧ dfld v 0x10 8 % 4 = 0 ∧ dfld v 0x33 1 = 0 ∧ dfld v 0x38 8 = 0 ∧ rteKind c.adest ≤ 1
      ∧ fld c.adest 29 26 = 0 ∧ !bitAt c.adest 7 then some (c, dfld v 0x10 8) else none

def collRead (d : Dev) (isl : Isle) (p : Packet) : Except Fail (CollDesc × Nat) :=
  match taskRead d isl p.cid (p.pair 0) 64 with
  | .error f => .error f
  | .ok bs => match collDesc (numOf bs) with
    | some x => .ok x
    | none => .error (islandFail 1)

/-- COID that an accepted COLL is going to use. -/
def coidOf (d : Dev) (isl : Isle) (t : Task) : Option Nat :=
  match t.pk with
  | some p => (match p.instr with
    | .coll _ => (match collRead d isl p with | .ok x => some x.1.coid | .error _ => none)
    | _ => none)
  | none => none

/-- A COLL joins: it waits while its COID is in use by an unfinished collective of its context, in acceptance order (R292). -/
def collJoin (d : Dev) (isl : Isle) (t : Task) (p : Packet) : Dev :=
  match collRead d isl p with
  | .error f => failTask d isl t f
  | .ok (c, rl) =>
    if coidBusy d p.cid c.coid || ((tasksBefore d isl t.id).filter (·.phase == 0)).any (fun u => coidOf d isl u == some c.coid) then d
    else match rankList d isl p.cid rl c.nr with
      | .error f => failTask d isl t f
      | .ok (l, seen, d) => match rankFault d p.cid c.me l with
        | some f => failTask d isl t f
        | none => if rteKind c.adest = 1 && (routeDest d p.cid c.adest).isNone && (d.graph p.cid).load.isSome then failTask d isl t (islandFail 2)
          else
            let (own, d) := taskSaw d isl p.cid 16 (p.pair 0) 64
            joinColl d isl t { c with ranks := l } (own ++ seen)

/-- Bytes that rank `r` contributes and that a member receives (R291). -/
def srcLen (c : CollDesc) (z r : Nat) : Nat :=
  match c.op with
  | 0 => c.cnt * z
  | 1 => c.nr * c.cnt * z
  | 2 => c.cnt * z
  | 3 => c.nr * c.cnt * z
  | _ => if r = c.root then c.cnt * z else 0

/-- A source and the FTZ of its member's page. -/
structure CollSrc where
  bytes : List (Byte × Bool)
  ftz : Bool
  deriving DecidableEq, Repr

/-- A source on another package (log 8). -/
def outsideSrc (d : Dev) (r n : Nat) : CollSrc :=
  ⟨(List.range n).map fun k => (Config.outsideByte d.tick ((r + 1) * 2 ^ 100 + k), Config.outsidePoison d.tick ((r + 1) * 2 ^ 100 + k / 4)),
   Config.outsidePoison d.tick ((r + 1) * 2 ^ 164)⟩

/-- One element of a reduction: the left fold in rank-list order; operand r under the FTZ of rank r. -/
def collElem (c : CollDesc) (z : Nat) (srcs : List CollSrc) (e : Nat) : List (Byte × Bool) × Counts :=
  let args := fun ftz : Bool => (⟨fmtOfCode c.ef, .lr, c.rm * 16, 8, ftz, [], [], [], ⟨0, 0, 0⟩, 0, .data, 0⟩ : Args)
  let xs := srcs.map fun s => (args s.ftz, numOf ((s.bytes.drop (e * z)).take z))
  let op := foldOpOf c.rop
  let r : El := match xs with
    | [] => (0, .zero)
    | [x] => settleNan x.1 (foldIn x.1 x.2)
    | x :: l => l.foldl (fun (acc : El) (y : Args × Nat) =>
        let v := foldIn y.1 y.2
        let w := foldStep y.1 op acc.1 v.1
        (w.1, (acc.2.add v.2).add w.2)) (foldIn x.1 x.2)
  let poi := srcs.any fun s => ((s.bytes.drop (e * z)).take z).any (·.2)
  ((bytesOf r.1 z).map fun b => (b, poi), r.2)

/-- What a member's destination gets (R291). -/
def collDest (c : CollDesc) (z : Nat) (srcs : List CollSrc) : List (Byte × Bool) × Counts :=
  let red := fun first : Nat =>
    let es := (List.range c.cnt).map fun k => collElem c z srcs (first + k)
    (es.flatMap (·.1), Counts.sum (es.map (·.2)))
  match c.op with
  | 0 => red 0
  | 1 => red (c.me * c.cnt)
  | 2 => (srcs.flatMap (·.bytes), .zero)
  | 3 => (srcs.flatMap fun s => (s.bytes.drop (c.me * c.cnt * z)).take (c.cnt * z), .zero)
  | _ => (((srcs[c.root]?).map (·.bytes)).getD [], .zero)

/-- The sources of every rank, or the members whose own source faults. -/
def collSources (d : Dev) (c : CollDesc) (z : Nat) (ms : List (Nat × Isle × Task)) : List (Nat × Except Fail CollSrc) :=
  (indexed c.ranks).map fun (r, e) =>
    match ms.find? (·.1 == r) with
    | some (_, i, t) => (match t.coll with
      | some m => (match taskRead (d.asTask i t.id) i (rankCid e) m.sva (srcLen c z r) with
        | .ok bs => (r, .ok ⟨bs, (t.pk.map (·.ftz)).getD false⟩)
        | .error f => (r, .error f))
      | none => (r, .ok (outsideSrc d r (srcLen c z r))))
    | none => (r, .ok (outsideSrc d r (srcLen c z r)))

/-- One member's reads of its source: the writes that they returned, for which its SRCFREE and LOCALDONE wait (R305, R308). -/
def collSaw (z : Nat) (acc : List (List Nat) × Dev) (m : Nat × Isle × Task) : List (List Nat) × Dev :=
  match m.2.2.coll, m.2.2.pk with
  | some c, some p =>
    let x := taskSaw (acc.2.asTask m.2.1 m.2.2.id) m.2.1 p.cid 16 c.sva (srcLen c z m.1)
    (acc.1 ++ [x.1], x.2)
  | _, _ => (acc.1 ++ [[]], acc.2)

/-- One member writes its destination. Its SRCFREE token stands in `pend` with the writes that its reads returned. -/
def collWrite (z : Nat) (srcs : List CollSrc) (d : Dev) (m : (Nat × Isle × Task) × List Nat) : Dev :=
  let (_, i, t) := m.1
  match t.coll, t.pk with
  | some c, some p =>
    let (bs, k) := collDest c z srcs
    (match taskWrite (d.asTask i t.id) i p.cid 16 c.dva bs with
     | .error (f, d) => failTask d i t f
     | .ok (ws, d) => putTask (addCounts d p.span k) i
         { t with phase := 3, since := some d.now.toNat, writes := t.writes ++ m.2 ++ ws, scope := scopeOf c.scope, pend := (p.result false p.compTok p.a).map fun r => (m.2, r) })
  | _, _ => d

/-- The other packages of a collective, which its traffic reaches in COLL (R457, R463). -/
def farPkgs (d : Dev) (c : CollDesc) : List Nat := ((c.ranks.map rankPkg).filter (· != d.pkg)).dedup

/-- A package of the collective has no route (R459): its mask is empty, or no port of it has been up for 2^20 cycles since a member joined. -/
def farLost (d : Dev) (c : CollDesc) : Bool := (farPkgs d c).any fun p => !routed d p || routeDead d p c.joined

/-- The collective's traffic is sent where every way is open; where one is closed the members wait, and raise LINKF once it is lost (R459, R463). -/
def overLinks (d : Dev) (c : CollDesc) (f : Dev → Dev) : Dev :=
  if farLost d c then
    (localRanks d c).foldl (fun d e => match memberIn d c 1 e with | some x => abandonTask d x.1 x.2 ⟨.linkf, 0, 0⟩ | none => d) d
  else if (farPkgs d c).all (portUp d) then f ((farPkgs d c).foldl (fun d p => sendFlit d vcColl p) d)
  else d

/-- The collective is carried out for the members on this package: all of them read before any of them writes. Members that disagree raise
ISLANDF 0x08; a member whose source faults raises its fault, and then nothing is written. -/
def collRun (d : Dev) (c : CollDesc) : Dev :=
  let (ms, same, d) := membersOf d c
  if !same then ms.foldl (fun d (m : Nat × Isle × Task) => failTask d m.2.1 m.2.2 (islandFail 8)) d
  else
    let z := (efSize c.ef).getD 4
    let ss := collSources d c z ms
    let bad := ss.filterMap fun s => match s.2 with | .error f => some (s.1, f) | .ok _ => none
    if bad.isEmpty then
      let (saw, d) := ms.foldl (collSaw z) ([], tock d)
      (ms.zip saw).foldl (collWrite z (ss.filterMap fun s => match s.2 with | .ok x => some x | .error _ => none)) d
    else ms.foldl (fun d (m : Nat × Isle × Task) => match bad.find? (·.1 == m.1) with
      | some b => failTask d m.2.1 m.2.2 b.2
      | none => d) d

/-- A COLL joins, or, once all have joined, the collective is carried out. -/
def collWork (d : Dev) (isl : Isle) (t : Task) (p : Packet) : Dev :=
  if tasksHeld d p.cid then d
  else if t.phase = 0 then collJoin d isl t p
  else match t.coll with
    | some c =>
      if t.phase == 1 && allJoined d c && (localRanks d c).all (fun e => !tasksHeld d (rankCid e)) then overLinks d c fun d => collRun d c else d
    | none => d

/-! ### The three events (R292). `num` holds 1, 2, 3 once SRCFREE, LOCALDONE or the last LOCALDONE has come. -/

/-- An event of a member whose destination is written. -/
def collEvent (f : Dev → Isle → Task → CollDesc → Packet → Dev) (d : Dev) : Dev :=
  match d.occ with
  | .task isl id => (match getTask d isl id with
    | some t => (match t.coll, t.pk with
      | some c, some p => if t.phase == 3 then f d isl t c p else d
      | _, _ => d)
    | none => d)
  | _ => d

def execCollSrcfree (s : State) : Out :=
  lift (collEvent fun d isl t _ _ =>
    if t.num.contains 1 || !(t.pend.all fun e => writesDone d (.isle isl t.id) t.scope e.1) then d
    else giveResults (putTask d isl { t with num := t.num ++ [1], pend := [] }) isl (t.pend.map (·.2))) s

def execCollLocaldone (s : State) : Out :=
  lift (collEvent fun d isl t _ p =>
    if t.num.contains 2 || !writesDone d (.isle isl t.id) t.scope t.writes then d
    else giveResults (putTask d isl { t with num := t.num ++ [2] }) isl (p.result false p.compTok p.b)) s

/-- Every local member has reached LOCALDONE (when those of other packages have is open). -/
def allLocal (d : Dev) (c : CollDesc) : Bool :=
  (localRanks d c).all fun e => match memberIn d c 3 e with | some x => x.2.num.contains 2 | none => false

/-- Every local member knows that all have reached LOCALDONE. -/
def tellAll (d : Dev) (c : CollDesc) : Dev :=
  (localRanks d c).foldl (fun d e => match memberIn d c 3 e with | some x => putTask d x.1 { x.2 with num := x.2.num ++ [3] } | none => d) d

/-- ALLDONE goes to ADEST after this member's other two events, with the width of the span it goes to; it waits for the load where that is not
resident. -/
def execCollAlldone (s : State) : Out :=
  lift (collEvent fun d isl t c p =>
    if !(t.num.contains 1 && t.num.contains 2) || !(t.num.contains 3 || allLocal d c) then d
    else
      let d := if t.num.contains 3 then d else tellAll d c
      if rteKind c.adest = 0 then dropTask d isl t
      else match routeDest d p.cid c.adest with
        | none => d
        | some x =>
          let tok := { p.compTok with payload := List.replicate (lanesOf (d.span x.key).wid) Lane.none }
          giveResults (dropTask d isl t) isl (p.result true tok (some x))) s

/-! ### RLINV and the deadline -/

def execColl (n : NodeRec) (s : State) : Out := engineFire (.coll n) n [0, 1] s
def execRlinv (n : NodeRec) (s : State) : Out := engineFire (.rlinv n) n (if bitAt n.lit.toNat 11 then [] else [0, 1]) s

/-- RLINV drops one cached list of the context, or all of them (R293). -/
def rlinvWork (d : Dev) (isl : Isle) (t : Task) (p : Packet) : Dev :=
  finishTask { d with rankCache := d.rankCache.filter fun e => !(e.1 == p.cid && (bitAt p.lit 11 || e.2.1 == p.pair 0)) } isl { t with out := p.done }

/-- COLL_JOIN_TIMEOUT: a member that has joined raises TIMEOUT (R463). -/
def execCollJoinTimeout (s : State) : Out :=
  lift (fun d => match d.occ with
    | .task isl id => (match getTask d isl id with
      | some t => (match t.coll with
        | some c => if t.phase == 1 && joinLate d c then abandonTask d isl t ⟨.timeout, 0, 0⟩ else d
        | none => d)
      | none => d)
    | _ => d) s

end Sys2Proof.Machine
end

