-- ==== Sys2Proof/Machine/Directory.lean ====
section
/-! DEFINITION. Expert directories and residency tables in memory (R276, R277, R349, R350), and the clearing of islands at a placement
(R238, R350, R425). -/

namespace Sys2Proof.Machine

/-! ### Directory entries (R276) -/

/-- A directory entry's fields, of its 128 bits. -/
def dirV (e : Nat) : Bool := bitAt e 0
def dirRes (e : Nat) : Nat := fld e 4 3
def dirG (e : Nat) : Nat := 2 ^ fld e 7 5
def dirPol (e : Nat) : Nat := fld e 9 8
def dirPkg (e : Nat) : Nat := fld e 19 10
def dirDie (e : Nat) : Nat := fld e 21 20
def dirTile0 (e : Nat) : Nat := fld e 27 22
def dirWoff (e : Nat) : Nat := fld e 55 32
def dirTray (e : Nat) : Nat := fld e 73 72
def dirQnum (e : Nat) : Nat := fld e 95 88

/-- A valid entry that holds no reserved value and whose group lies on the die (R279). -/
def dirOk (e : Nat) : Bool :=
  dirV e && fld e 2 1 == 0 && dirRes e != 3 && decide (fld e 7 5 ≤ 4) && dirPol e != 3 && fld e 31 28 == 0 && fld e 71 56 == 0 && fld e 87 74 == 0
  && fld e 127 96 == 0 && decide (dirTile0 e + dirG e ≤ 48)

/-- Home key of an entry. -/
def dirKey (d : Dev) (cid x : Nat) : Nat := homeKey d ((d.hold cid).dirBase.toNat + 16 * x)

/-- An entry as memory holds it at MOD scope. -/
def readDir (d : Dev) (cid x : Nat) : Nat := natOfBytes (bytesBy d.mem (fun w => w.at .mod) (dirKey d cid x) 16)

/-- An entry is written at MOD, and every Sifter that has it cached for the context takes the new one (R277). -/
def writeDir (d : Dev) (cid x v : Nat) : Dev :=
  let (_, d) := applyHome d cid .leaven (dirKey d cid x) (bytesOf v 16) [] false (some .mod)
  { d with sifters := d.sifters.map fun e =>
      if e.2.cid == some cid && (Tab.find? e.2.dir x).isSome then (e.1, { e.2 with dir := e.2.dir.set x (BitVec.ofNat 128 v) }) else e }

/-- Contexts that have a directory. -/
def dirCtxs (d : Dev) : List Nat := (List.range 64).filter fun c => decide (0 < (d.hold c).dirCount)

/-! ### Residency tables (R349) -/

/-- A residency entry: slice 0's VA, slice bytes, NOWS. -/
structure ResEnt where
  wva : Nat
  slb : Nat
  nows : Bool
  deriving DecidableEq, Repr

/-- Base and number of a context's residency entries; none where it has no table. -/
def resTable (d : Dev) (cid : Nat) : Option (Nat × Nat) :=
  let r := d.leaven.regs.xrt.toNat
  if !bitAt r 0 then none
  else
    let e := fld r 51 10 * 2 ^ 10 + 16 * cid
    let base := natOfBytes (homeBytes d.mem e 8)
    let n := natOfBytes (homeBytes d.mem (e + 8) 4)
    if n = 0 ∨ n > 65536 then none else some (base, n)

def resEntry (d : Dev) (cid x : Nat) : Option ResEnt :=
  match resTable d cid with
  | none => none
  | some (base, n) =>
    if x ≥ n then none
    else
      let v := natOfBytes (homeBytes d.mem (homeKey d (base + 16 * x)) 16)
      if !bitAt v 96 then none else some ⟨fld v 63 0, fld v 95 64, bitAt v 97⟩

/-- The leaves of a range, by its first VAs, up to `fuel` of them. -/
def leavesOf (d : Dev) (cid : Nat) : Nat → Nat → Nat → List (Except FCode Leaf)
  | 0, _, _ => []
  | k + 1, va, stop =>
    if va ≥ stop then []
    else match walk d cid va with
      | .error e => [.error e]
      | .ok l => .ok l :: leavesOf d cid k (l.va + l.size) stop

/-- Every slice of an expert lies in a tier. -/
def slicesIn (d : Dev) (cid : Nat) (r : ResEnt) (g tier : Nat) : Bool :=
  (leavesOf d cid (g * r.slb / 65536 + 1) r.wva (r.wva + g * r.slb)).all fun l => match l with | .ok l => pteTier l.bits == tier | .error _ => false

/-- RES of an expert whose weights leave the weight store (R350). -/
def resWithout (d : Dev) (cid x : Nat) (e : Nat) : Nat :=
  match resEntry d cid x with
  | some r => if slicesIn d cid r (dirG e) 0 then 1 else 0
  | none => 0

/-! ### Islands at a placement -/

/-- Every entry with RES 2 that names a tile gets RES 1 or 0 (R350). -/
def resetRes (d : Dev) (t : Nat) : Dev :=
  (dirCtxs d).foldl (fun d c =>
    (List.range (d.hold c).dirCount).foldl (fun d x =>
      let e := readDir d c x
      if dirV e && dirRes e == 2 && dirPkg e == d.pkg && dirDie e == t / 48 && decide (dirTile0 e ≤ t % 48) && decide (t % 48 < dirTile0 e + dirG e) then
        writeDir d c x (setFld e 4 3 (resWithout d c x e))
      else d) d) d

/-- A placed load's islands are cleared and bound; `kept` gateways keep their state (R238, R425). -/
def bindIsles (d : Dev) (cid : Nat) (kept : List Nat) (gws : List Gateway) : Dev :=
  (indexed gws).foldl (fun d (g, w) =>
    (indexed w.isles).foldl (fun d (k, i) =>
      match i.kind with
      | .hearth =>
        if kept.contains g then d.modTile i.tileNo fun t => { t with cid := some cid, gw := g, ix := k, held := none }
        else resetRes (d.modTile i.tileNo fun t => { cid := some cid, gw := g, ix := k, inbound := t.inbound }) i.tileNo
      | .sifter => d.modSifter i.unitNo fun _ => { cid := some cid, qtb := d.rt.sfqtb }
      | .rack => d.modRack i.unitNo fun _ => { cid := some cid, spb := d.rt.rkspb.getD i.unitNo 0 }
      | _ => d) d) d

/-- No tile is held any more by the saved load of a context (R432). -/
def unholdTiles (d : Dev) (cid : Nat) : Dev :=
  { d with tiles := d.tiles.map fun e => if e.2.held == some cid then (e.1, { e.2 with held := none }) else e }

/-- Saved island state put on the islands now bound, by gateway and index (R422). A restored Sifter's directory cache is empty; a restored Rack goes on with the
spill region that it has (R443). -/
def restoreIsles (d : Dev) (cid : Nat) (s : IsleSave) (gws : List Gateway) : Dev :=
  let d := unholdTiles d cid
  (indexed gws).foldl (fun d (g, w) =>
    (indexed w.isles).foldl (fun d (k, i) =>
      match i.kind with
      | .hearth => (match s.tiles.find? fun t => t.1 == g && t.2.1 == k with
        | some t =>
          let d := d.modTile i.tileNo fun now => { t.2.2.2 with cid := some cid, gw := g, ix := k, held := none, inbound := t.2.2.2.inbound ++ now.inbound }
          d.modChan i fun c => { c with tasks := c.tasks ++ (s.chains.filter fun x => x.1 == g && x.2.1 == k).map (·.2.2) }
        | none => d)
      | .sifter => (match s.sifters.find? fun t => t.1 == g && t.2.1 == k with
        | some t => d.modSifter i.unitNo fun _ => { t.2.2 with cid := some cid, dir := [], qtb := d.rt.sfqtb }
        | none => d)
      | .rack => (match s.racks.find? fun t => t.1 == g && t.2.1 == k with
        | some t => d.modRack i.unitNo fun _ => { t.2.2 with cid := some cid }
        | none => d)
      | _ => d) d) d

end Sys2Proof.Machine
end

