-- ==== Sys2Proof/Machine/Loader.lean ====
section
/-! DEFINITION. The fabric loader: image check, decisions, placement and restore, pre-emption, relocation and compaction, faults posted, MSFULL and
completions (R190, R193, R196, R200, R383 to R387, R390, R392 to R423). -/

namespace Sys2Proof.Machine

/-! ### Rejection and image check (R121, R122, R352, R412) -/

/-- A rejection: a LOADER record of the context, and an end with cause 3 and the cause code as status. Causes 0x02 to 0x08 name a node in LOC, the others a
table entry in AUX (R407). -/
def rejectGraph (d : Dev) (c : Nat) (r : Rej) : Dev :=
  let node := decide (2 ≤ r.cause) && decide (r.cause ≤ 8)
  let d := if fld (d.ctx c).faultq.toNat 3 0 < 4 then d
    else takeFault d c none .loader { ctx := true, sub := r.cause, hdr := c * 2 ^ 122, loc := if node then r.loc else 0, aux := if node then 0 else r.aux }
  leaveQueue (endGraph d c .reject (BitVec.ofNat 32 r.cause)) c

def freshUndo : Undo := ⟨[], none, [], 0, false, false, 0⟩

/-- Data segments are written in table order, byte by byte, performed at SYS (R122). -/
def writeSegs (d : Dev) (c : Nat) (b : Img) (segs : List DataSeg) : Dev :=
  segs.foldl (fun d s =>
    match loaderPut d c s.va ((List.range s.size).map fun k => BitVec.ofNat 8 (b (s.off + k))) with
    | .ok d => d
    | .error _ => d) d

/-- What the loader reads of an image counts as its accesses (R342). -/
def countImage (d : Dev) (c : Nat) : Dev :=
  let va := (d.graph c).lrec.imgva
  if readableTo d c va 64 = 64 then countRun d 5 c 8 va (readableTo d c va ((imageByte d c va).num 0x20 8)) else d

/-- LOADER_IMAGE_CHECK of a queued context, once the shoot-down of its launch is complete (R333). -/
def execLoaderImageCheck (s : State) : Out :=
  lift (fun d =>
    match d.occ with
    | .ctx c =>
      let g := d.graph c
      if g.st != .queued || g.checked || g.ending.isSome || d.leaven.shoots.any (fun x => x.cid == c && x.size.isNone) then d
      else match checkImage d c with
        | .error r =>
          let size := if readableTo d c g.lrec.imgva 64 = 64 then (imageByte d c g.lrec.imgva).num 0x20 8 else 64
          tock (rejectGraph (countImage (logSegment (logImage d c g.lrec.imgva (max 64 size) .rd) c r) c) c r)
        | .ok (loads, segs) =>
          let d := writeSegs (countImage d c) c (imageByte d c g.lrec.imgva) segs
          let d := d.modGraph c fun g => { g with checked := true, image := loads, ix := 0 }
          let d := d.modHold c fun h => { h with undo := if (d.ctx c).contain then some freshUndo else none }
          notFree (tock d)
    | _ => d) s

/-! ### Positions (R375, R383) -/

/-- The context whose load holds an island, or keeps it for its next load (R238). -/
def isleHolder (d : Dev) (i : Isle) : Option Nat :=
  (List.range 64).find? fun c =>
    let g := d.graph c
    (match g.load with | some l => l.isles.contains i | none => false) || g.kept.any fun k => k.2.isles.contains i

def freeIsle (d : Dev) (c : Nat) (extra : List Isle) (i : Isle) : Bool :=
  extra.contains i || ((isleHolder d i).isNone && !(i.kind == .hearth && d.offTiles.contains i.tileNo) && !d.braid.assist.any (fun a => a.2 == i)
    && !d.loader.reserve.any fun r => r.cid != c && r.isles.contains i)

def freePage (d : Dev) (c : Nat) (extra : List Nat) (pg : Nat) : Bool :=
  extra.contains pg || ((d.page pg).cid.isNone && !(d.page pg).offline && !d.loader.reserve.any fun r => r.cid != c && r.pages.contains pg)

/-- The islands of a load's gateways on a die, the lowest-numbered free ones; none where one is lacking. -/
def pickIsles (d : Dev) (c die : Nat) (extra : List Isle) : Nat → List (IsleKind × Nat) → List Isle → Option (List Gateway)
  | _, [], _ => some []
  | g, (k, n) :: r, taken =>
    let rest := fun (w : Gateway) => (pickIsles d c die extra (g + 1) r (taken ++ w.isles)).map (w :: ·)
    match (d.graph c).kept.find? (·.1 == g) with
    | some w => rest w.2
    | none => match k with
      | .leaven | .coll => rest ⟨k, n, [⟨k, 4, c⟩]⟩
      | _ =>
        let free := ((List.range (kindCount k)).map fun x => (⟨k, die, x⟩ : Isle)).filter fun i => !taken.contains i && freeIsle d c extra i
        if free.length < n then none else rest ⟨k, n, free.take n⟩

/-- Dies where a load may go: its predecessor's where a gateway is kept, its first one under rollback containment (R383). -/
def diesFor (d : Dev) (c : Nat) : List Nat :=
  let g := d.graph c
  match g.kept with
  | (_, w) :: _ => (w.isles.head?.map (·.die)).toList
  | [] => if (d.ctx c).contain then (match g.firstDie with | some k => [k] | none => List.range 4) else List.range 4

/-- The first free rectangle on a die. -/
def rectOn (d : Dev) (c die : Nat) (w h : Nat) (extra : List Nat) : Option (Nat × Nat) :=
  ((List.range (9 - h)).flatMap fun r => (List.range (11 - w)).map fun k => (r, k)).find? fun p =>
    (pagePlaces w h).all fun q => freePage d c extra (die * 80 + (p.1 + q.2) * 10 + p.2 + q.1)

/-- The place of a load: die, row, column and gateways. -/
def findPlace (d : Dev) (c : Nat) (l : ImgLoad) (dies : List Nat) (pages : List Nat) (isles : List Isle) : Option (Nat × Nat × Nat × List Gateway) :=
  dies.findSome? fun die =>
    match rectOn d c die l.w l.h pages, pickIsles d c die isles 0 l.gws [] with
    | some (r, k), some gws => some (die, r, k, gws)
    | _, _ => none

/-- The pages and islands of a found place are taken; the load is written by PLACEMENT. -/
def allocate (d : Dev) (c : Nat) (l : ImgLoad) (p : Nat × Nat × Nat × List Gateway) : Dev :=
  let g := d.graph c
  let ld : Load := ⟨g.ix, p.1, p.2.1, p.2.2.1, l.w, l.h, p.2.2.2, d.now.toNat⟩
  let d := d.modGraph c fun g => { g with load := some ld, blocked := false, firstDie := some (g.firstDie.getD p.1), order := d.loader.placed }
  let d := ld.pages.foldl (fun d pg => d.modPage pg fun x => { x with cid := some (BitVec.ofNat 6 c) }) d
  { d with loader := { d.loader with placed := d.loader.placed + 1, reserve := d.loader.reserve.filter (·.cid != c)
                                     compact := if (d.loader.compact.map (·.cid)) == some c then none else d.loader.compact } }

/-! ### Victims and compaction (R387, R398, R399) -/

/-- A resident load that may be pre-empted for a load of a class (R399). -/
def eligible (d : Dev) (cls v : Nat) : Bool :=
  let g := d.graph v
  let x := d.ctx v
  (g.st == .resident || g.st == .parked) && g.ending.isNone && g.preempt.isNone && !d.loader.asks.contains v && !g.skip
  && (match g.load with | some l => saveFits d v (captureLoad d v l 1) | none => false)
  && (decide (x.cls > cls) || (x.cls == cls && x.exhausted))

/-- Lowest class first, then lowest DEFICIT, then lowest CID. -/
def victimBefore (d : Dev) (a b : Nat) : Bool :=
  let x := d.ctx a
  let y := d.ctx b
  decide (x.cls > y.cls) || (x.cls == y.cls && (decide (i64 x.deficit < i64 y.deficit) || (x.deficit == y.deficit && decide (a < b))))

/-- Take victims one at a time until the load has a place on the die. -/
def takeVictims (d : Dev) (c die : Nat) (l : ImgLoad) : List Nat → List Nat → Option (List Nat)
  | _, [] => none
  | taken, v :: r =>
    let all := taken ++ [v]
    let loads := all.filterMap fun x => (d.graph x).load
    if (findPlace d c l [die] (loads.flatMap Load.pages) (loads.flatMap Load.isles)).isSome then some all
    else takeVictims d c die l all r

def chooseVictims (d : Dev) (c : Nat) (l : ImgLoad) : Option (List Nat) :=
  (diesFor d c).findSome? fun die =>
    takeVictims d c die l []
      (sortBy (victimBefore d) ((List.range 64).filter fun v => eligible d (d.ctx c).cls v && (((d.graph v).load.map (·.die)) == some die)))

/-- Pre-emption of the victims is asked for, and what they hold is kept for the load (R397). -/
def askVictims (d : Dev) (c : Nat) (vs : List Nat) : Dev :=
  let loads := vs.filterMap fun v => (d.graph v).load
  let d := vs.foldl (fun d v => d.modGraph v fun g => { g with victim := true }) d
  { d with loader := { d.loader with asks := d.loader.asks ++ vs
                                     reserve := d.loader.reserve ++ [⟨c, loads.flatMap Load.pages, loads.flatMap Load.isles⟩] } }

/-- A die whose free pages and islands suffice for a load that finds no rectangle there (R387). -/
def compactDie (d : Dev) (c : Nat) (l : ImgLoad) : Option Nat :=
  (diesFor d c).find? fun die =>
    decide (l.w * l.h ≤ ((List.range 80).filter fun p => freePage d c [] (die * 80 + p)).length)
    && (pickIsles d c die [] 0 l.gws []).isSome && (rectOn d c die l.w l.h []).isNone

/-- Resident loads of a die in the order in which they were placed. -/
def placedOn (d : Dev) (die : Nat) : List Nat :=
  sortBy (fun a b => decide ((d.graph a).order < (d.graph b).order))
    ((List.range 64).filter fun v => ((d.graph v).st == .resident || (d.graph v).st == .parked) && ((d.graph v).load.map (·.die)) == some die)

/-- A blocked load keeps another from being placed: one of a lower class, or one of its own class that is not blocked itself (R398). -/
def heldByBlocked (d : Dev) (c : Nat) : Bool :=
  (List.range 64).any fun b => b != c && (d.graph b).blocked && (d.graph b).st == .queued && (d.graph b).load.isNone
    && (decide ((d.ctx b).cls < (d.ctx c).cls) || ((d.ctx b).cls == (d.ctx c).cls && !(d.graph c).blocked))

/-- One queued load at a decision (R397). -/
def decideOne (st : Dev × Bool) (c : Nat) : Dev × Bool :=
  let d := st.1
  let g := d.graph c
  if st.2 || g.st != .queued || g.load.isSome || !g.checked || g.ending.isSome then st
  else match g.image[g.ix]? with
    | none => st
    | some l =>
      if !regsOk d c [l] then (rejectGraph d c ⟨0x0D, 0, g.ix⟩, false)
      else if heldByBlocked d c then st
      else match findPlace d c l (diesFor d c) [] [] with
        | some p => (allocate d c l p, false)
        | none =>
          if (d.loader.compact.map (·.cid)) == some c then st
          else match (if d.loader.compact.isNone && g.compacted != some d.loader.placed then compactDie d c l else none) with
            | some die =>
              ({ d with loader := { d.loader with compact := some { die := die, cid := c, todo := placedOn d die, asked := d.now.toNat } } }, false)
            | none =>
              if g.blocked then (d, true)
              else match chooseVictims d c l with
                | some vs => (askVictims d c vs, false)
                | none => st

/-- An exhausted context that the victim rule has not chosen is refilled and moves to the tail, one that the host asked to stop among them (R396). -/
def refillOne (d : Dev) (c : Nat) : Dev :=
  let g := d.graph c
  if (g.st == .resident || g.st == .parked) && (d.ctx c).exhausted && !g.victim then
    joinTail (d.modCtx c refill) c
  else d

/-- A decision (R393, R395 to R399). -/
def decide_ (d : Dev) : Dev :=
  let all := d.loader.runq.flatten
  let d := all.foldl (fun d c => if (d.graph c).yielded then (d.modCtx c fun x => { x with deficit := 0 }).modGraph c fun g => { g with yielded := false } else d) d
  let d := all.foldl (fun d c => if (d.graph c).newPrio then joinTail (d.modGraph c fun g => { g with newPrio := false }) c else d) d
  let d := { d with loader := { d.loader with decide := false, last := d.now.toNat } }
  let d := (d.loader.runq.flatten.foldl decideOne (d, false)).1
  let d := (d.loader.runq.flatten).foldl refillOne d
  { d with loader := { d.loader with decide := false } }

/-- `done.next` with a further load: it becomes queued, with gateways kept (R193, R238). -/
def nextLoad (d : Dev) (c : Nat) : Dev :=
  let g := d.graph c
  match g.load with
  | none => d
  | some l =>
    let next := ((g.image[g.ix + 1]?).map (·.gws)).getD []
    let kept := (indexed l.gws).filter fun (k, w) => w.kind == .hearth && next[k]? == some (w.kind, w.count)
    let d := dropResults (dropNet (releaseLoad d c false false) c) c
    let d := (l.isles.filter fun i => !kept.any fun k => k.2.isles.contains i).foldl (unbindIsle c false) d
    let d := d.modGraph c fun g =>
      { g with st := .queued, ix := g.ix + 1, ending := none, pool := launchPool, faults := [], kept, queuedAt := d.now.toNat, islRound := 0, ldrRound := 0
               preempt := none, victim := false, msfull := none, skip := false, compacted := none }
    notFree (d.modHold c fun h => { h with toks := [], away := [], traps := [], waits := [], pins := [], retries := []
                                           undo := h.undo.map fun _ => freshUndo })

/-- LOADER_DECISION: a decision, on its events and every 2^16 cycles; or the carrying out of a `done.next` (R193, R320). -/
def execLoaderDecision (s : State) : Out :=
  lift (fun d =>
    match d.occ with
    | .ctx c =>
      if ((d.graph c).ending.map (·.kind)) == some .next then
        -- an EN that was cleared meanwhile is acted on after the end (R200)
        carryEnd d c fun e d =>
          if (d.graph c).ix + 1 < (d.graph c).image.length then (let d := nextLoad d c; if (d.ctx c).en then d else endGraph d c .kill 0)
          else complete d c 0 e.status
      else d
    | .none => if d.loader.decide || decide (d.loader.last + 2 ^ 16 ≤ d.now.toNat) then decide_ d else d
    | _ => d) s

/-- DEFICIT_EXHAUSTED: an occasion for a decision (R395). -/
def execDeficitExhausted (s : State) : Out :=
  lift (fun d => match d.occ with
    | .ctx c => if ((d.graph c).st == .resident || (d.graph c).st == .parked) && (d.ctx c).exhausted then notFree d else d
    | _ => d) s

/-- LOAD_BLOCKED (R398). -/
def execLoadBlocked (s : State) : Out :=
  lift (fun d => match d.occ with
    | .ctx c =>
      let g := d.graph c
      if g.st == .queued && g.load.isNone && g.checked && decide (g.queuedAt + 2 ^ 24 ≤ d.now.toNat) then d.modGraph c fun g => { g with blocked := true } else d
    | _ => d) s

/-! ### Placement and restore (R383, R384, R422) -/

/-- Inputs of every span of a load as it is placed (R379). -/
def setInputs (d : Dev) (l : Load) : Dev :=
  let us := unitsOfLoad d l
  us.foldl (fun d' k => d'.modSpan k fun sp => { sp with rnd := { inputs := inputsNow d {} us k {} } }) d

/-- What waits in the loader for a load is delivered. -/
def deliverHeld (d : Dev) (c : Nat) : Dev :=
  let h := d.hold c
  let d := deliverAway c (d.modHold c fun h => { h with toks := [], inbound := [], traps := [] })
  let d := h.toks.foldl (fun d t => send d .loader t) d
  h.traps.foldl (deliverTrap c) (h.inbound.foldl (deliverInbound c) d)

/-- A held access is re-issued with a fresh translation (R235). It keeps its place among the accepted accesses; a send whose mailbox is full is not
accepted any more (R230). -/
def reissue (d : Dev) (pg : Nat) (a : Access) : Dev :=
  let a := { a with fault := none, retry := false, els := a.els.map fun e => { e with st := .todo, pa := none } }
  let d := setAcc d pg a
  match a.kind with
  | .msend =>
    match sendCause d a with
    | some c => portFault d pg a c 0
    | none => if boxFull d a then setAcc d pg { a with acc := none } else sendMsg d pg a
  | _ =>
    match transAll pg a true d with
    | (.error (c, va), d) => portFault d pg { a with els := heldEls d pg a c } c va
    | (.ok es, d) => setAcc d pg { a with els := es }

/-- The accesses that a RESUME released while the load was saved are re-issued (R198, R422). -/
def reissueAll (d : Dev) (pg : Nat) : Dev :=
  (sortBy (fun a b : Access => before a b) ((d.page pg).accs.filter (·.retry))).foldl (fun d a => reissue d pg a) d

/-- A held token that became live while its load was saved has not taken its place yet: its arrival was refused, it was withdrawn from a queue, it
empties a slot or fills one that another fills, or it is at a FAR node. -/
def liveElsewhere (d : Dev) (p : Page) (e : Entry) : Bool :=
  !e.parked && (match e.role, e.tok.ma with
    | .refused, _ | .queued _, _ => true
    | .plain, .purge => true
    | .plain, .sticky => (p.toks.filter fun u => !u.parked && sameSlot e.tok u).length > 1
    | .plain, .once => (match nodeAt d e.tok.dest.key e.tok.dest.node with | some (.far _) => true | _ => false)
    | _, _ => false)

/-- Such tokens take their places at the restore, those bound for one port of a node in SEQ order (R38, R422). -/
def reexamine (c : Nat) (d : Dev) (pg : Nat) : Dev :=
  let p := d.page pg
  let again := sortBy (fun a b : Entry => a.tok.dest == b.tok.dest && bySeq a.tok b.tok) (p.toks.filter (liveElsewhere d p))
  again.foldl (relive c) (d.modPage pg fun p => { p with toks := p.toks.filter fun e => !liveElsewhere d p e })

/-! ### Frame links of a load that has moved (R106, R386) -/

/-- The link of a frame in use names the same place of the load that has moved (DEDUCED, log 79). -/
def moveLink (f : Nat → Nat) (c : Nat) (d : Dev) (frame : BitVec 14) : Dev :=
  let va := linkVa (d.ctx c) frame
  match loaderNum d c va 16 with
  | .error _ => d
  | .ok v =>
    let d := countRun d 5 c 8 va 16
    let t := linkPlace v
    if !bitAt v 0 || t.node == 0x3FF || f t.key == t.key then d
    else
      let u := destAt (f t.key) t.node t.port
      match loaderPut d c va (bytesOf (setFld (setFld v 29 17 u.dfe) 16 15 u.die) 16) with | .ok d => d | .error _ => d

def moveLinks (f : Nat → Nat) (c : Nat) (d : Dev) : Dev :=
  (launchPool.filter fun x => !(d.graph c).pool.contains x).foldl (moveLink f c) d

/-- A page as a placement leaves it (R361, R384). -/
def freshPage (d : Dev) (c : Nat) (l : Load) (img : ImgLoad) (x y : Nat) (old : Page) : Page :=
  { cid := some (BitVec.ofNat 6 c), w := l.w, h := l.h, px := x, py := y, miss := old.miss, offline := old.offline, ftz := (d.ctx c).fpctl.getLsbD 0
    streams := (img.streams.filter fun s => s.1 == x && s.2.1 == y).map (·.2.2)
    banks := (img.banks.filter fun s => s.1 == x && s.2.1 == y).map (·.2.2)
    spillBase := fld (d.ctx c).spillbase.toNat 21 12 * 2 ^ 12, spillLog := fld (d.ctx c).spillsize.toNat 4 0 }

/-- A new load is written and its initial tokens are injected (R53, R361, R384). The count sets of its spans begin at zero: the spec clears them at
launch and says nothing of a later load of the launch (DESIGN CHOICE, log 77). -/
def placeNew (d : Dev) (c : Nat) (l : Load) (img : ImgLoad) : Dev :=
  let pgOf := fun x y : Nat => l.die * 80 + (l.row + y) * 10 + l.col + x
  let d := (pagePlaces l.w l.h).foldl (fun d p => d.modPage (pgOf p.1 p.2) (freshPage d c l img p.1 p.2)) d
  let d := img.spans.foldl (fun d s =>
    let nodes := (img.nodes.filter fun n => n.px == s.px && n.py == s.py && n.fe == s.fe).foldl (fun t n => Tab.set t n.node n.rcd) []
    d.modSpan (pgOf s.px s.py * 64 + s.fe) fun _ => { anchor := true, wid := s.wid, nodes := nodes }) d
  let d := setSlots (setInputs d l) l
  let d := bindIsles d c ((d.graph c).kept.map (·.1)) l.gws
  let d := img.toks.foldl (fun d t =>
    send d .loader { tag := ⟨BitVec.ofNat 6 c, 0, 0⟩, seq := 0, ma := t.ma, poi := false, cls := .data, lvl := 0, payload := t.lanes
                     dest := destAt (pgOf t.px t.py * 64 + t.fe) t.node t.port }) d
  d.modGraph c fun g => { g with st := .resident, kept := [], islRound := 0, ldrRound := 0 }

/-- A weight store that its tile still holds, bound by no other context since the save, is not copied again (R265). -/
def keepWeights (d : Dev) (c : Nat) (gws : List Gateway) (s : Save) : Save :=
  let keep := fun t : Nat × Nat × Nat × Tile =>
    let now := d.tile t.2.2.1
    match (gws[t.1]?).bind fun w => w.isles[t.2.1]? with
    | some i => if i.tileNo == t.2.2.1 && now.held == some c then (t.1, t.2.1, t.2.2.1, { t.2.2.2 with ws := now.ws, wsPoison := now.wsPoison }) else t
    | none => t
  { s with isles := { s.isles with tiles := s.isles.tiles.map keep } }

/-- Saved chains of a load that comes back at another place. -/
def mvChains (f : Nat → Nat) (s : Save) : Save :=
  { s with isles := { s.isles with chains := s.isles.chains.map fun x => (x.1, x.2.1, { x.2.2 with pk := x.2.2.pk.map (mvPacket f) }) } }

/-- A saved load is put back, as its save area has it (R421, R422). -/
def restoreLoad (d : Dev) (c : Nat) (s : Save) (l : Load) : Dev :=
  let s := keepWeights d c l.gws (areaSave d c s)
  let d := putLoad (countArea d (d.graph c).lrec.savepa (neededSize s)) c s l
  let base := fld (d.ctx c).spillbase.toNat 21 12 * 2 ^ 12
  let logn := fld (d.ctx c).spillsize.toNat 4 0
  let d := l.pages.foldl (fun d p => d.modPage p fun x =>
    { rebuildPage base logn x with ftz := (d.ctx c).fpctl.getLsbD 0, cycles := 0, stall := [0, 0, 0, 0, 0], busy := [0, 0, 0, 0] }) d
  let d := mvOutside (moveKey s.load l) c d
  let d := setSlots d l
  let d := restoreIsles (bindIsles d c [] l.gws) c (mvChains (moveKey s.load l) s).isles l.gws
  let d := l.pages.foldl reissueAll d
  let d := moveLinks (moveKey s.load l) c (l.pages.foldl (reexamine c) d)
  d.modGraph c fun g => { g with st := .resident, save := none }

/-- PLACEMENT of the load that a decision gave a place. -/
def execPlacement (s : State) : Out :=
  lift (fun d =>
    match d.occ with
    | .ctx c =>
      let g := d.graph c
      match g.load, g.image[g.ix]? with
      | some l, some img =>
        if g.st != .queued || g.ending.isSome then d
        else
          let d := match g.save with
            | some s => restoreLoad d c s l
            | none => placeNew d c l img
          deliverHeld (d.modGraph c fun g => { g with preempt := none, victim := false, draining := false, forced := false, blocked := false, reloc := false, compacted := none }) c
      | _, _ => d
    | _ => d) s

/-! ### Pre-emption (R413 to R416) -/

/-- No batch of a loop is under way and every admitted iteration has retired; those of parked frames are not waited for in a pre-emption (R34, R414). -/
def atBoundary (d : Dev) (c : Nat) (skipParked : Bool) : Bool :=
  match (d.graph c).load with
  | none => false
  | some l => d.spans.all fun e => !l.holds (pageOfFe e.1) || e.2.loops.all fun p => (p.live.isEmpty && decide (p.upto ≤ p.adm)) || (skipParked && d.parkedFrame c p.frame)

/-- No token of a context is in flight. -/
def quiet (d : Dev) (c : Nat) : Bool :=
  !(d.net.any fun f => f.cid == c) && !(d.combs.any fun x => x.held.any fun h => h.tok.tag.cid.toNat == c)

/-- Every accepted access is performed at MOD and has sent its tokens, except those a fault holds back; links are written (R359, R414). -/
def settled (d : Dev) (c : Nat) : Bool :=
  match (d.graph c).load with
  | none => true
  | some l =>
    (l.pages.all fun pg =>
      let p := d.page pg
      p.accs.all (fun a => heldBack d p a || (a.perfAt d .mod && a.doneTo.isEmpty && (a.dataTo.isEmpty || a.dataSent)))
      && p.barriers.all (fun b => b.waits.any fun i => p.accs.any fun a => a.id == i && heldBack d p a)
      && p.score.isEmpty)
    && d.mem.wlog.all (fun w => w.at .mod || (match w.owner with | .span k => !l.holds (pageOfFe k) | _ => true))
    && d.mem.pend.all (·.cid != c)

/-- PREEMPTION_REQUEST: a victim, or a context that the host named, is asked to stop; LOOPB admission ends (R413, R414). -/
def execPreemptionRequest (s : State) : Out :=
  lift (fun d =>
    match d.occ with
    | .ctx c =>
      let g := d.graph c
      if !d.loader.asks.contains c then d
      else
        let d := { d with loader := { d.loader with asks := d.loader.asks.filter (· != c) } }
        if (g.st == .resident || g.st == .parked) && g.ending.isNone && g.preempt.isNone && !g.skip then
          d.modGraph c fun g => { g with preempt := some ⟨d.now.toNat⟩ }
        else d
    | _ => d) s

/-- What a save keeps: the load as it stands, with the accesses that a fault holds back. -/
def saveOf (d : Dev) (c : Nat) (l : Load) (kind : Nat) : Save :=
  let s := captureLoad d c l kind
  { s with
    pages := s.pages.map fun e =>
      -- partners that the engine has returned for a firing that does not begin wait for it again (R419)
      (e.1, { e.2 with accs := e.2.accs.filter (heldBack d e.2), toks := e.2.toks.map fun t => if t.place == .returned then { t with place := .vc1 } else t })
    isles := { s.isles with chains := (indexed l.gws).flatMap fun (g, w) => (indexed w.isles).flatMap fun (k, i) =>
      ((d.chan i).tasks.filter Task.inChain).map fun t => (g, k, t) } }

/-- Saved chains leave the tiles. -/
def dropChains (d : Dev) (l : Load) : Dev :=
  l.isles.foldl (fun d i => d.modChan i fun c => { c with tasks := c.tasks.filter fun t => !t.inChain }) d


/-- A pre-emption that is given up: the save would not fit (R413). What is held for the queued load stays held until it is placed (R397). -/
def abandonSave (d : Dev) (c : Nat) : Dev :=
  let d := d.modGraph c fun g => { g with preempt := none, victim := false, draining := false, forced := false, skip := true }
  notFree d

/-- The state is saved, the pages are released, and the context returns to its run queue (R400, R414). -/
def saveNow (d : Dev) (c : Nat) (l : Load) (kind : Nat) : Dev :=
  let s := saveOf d c l kind
  if !saveFits d c s then abandonSave d c
  else
    let d := countArea (writeSave d c s) (d.graph c).lrec.savepa (neededSize s)
    let d := parkResults (releaseLoad (dropChains d l) c true true) c
    let d := d.modGraph c fun g =>
      { g with st := .queued, save := some s, preempt := none, victim := false, draining := false, forced := false, queuedAt := d.now.toNat, compacted := none }
    if (d.ctx c).exhausted then joinTail (d.modCtx c refill) c else joinHead d c

/-- The stages of a pre-emption: at its moment no further firing begins; once all is quiet and settled, the save. -/
def preemptStep (d : Dev) (c : Nat) (kind : Nat) (moment : Bool) : Dev :=
  let g := d.graph c
  match g.load with
  | none => d
  | some l =>
    if g.preempt.isNone || g.ending.isSome || g.msfull.isSome || !(g.st == .resident || g.st == .parked) then d
    else if !g.draining then
      (if moment then d.modGraph c fun g => { g with draining := true, forced := kind == 2, reloc := false } else d)
    else if (g.forced == (kind == 2)) && !((d.hold c).undo.map (·.hit)).getD false && quiet d c && settled d c && !engineWork (kind == 2) d c then saveNow d c l kind
    else d

def execPreemptionSave (s : State) : Out :=
  lift (fun d => match d.occ with | .ctx c => preemptStep d c 1 (atBoundary d c true) | _ => d) s

/-- FORCED_PREEMPTION: no batch boundary within 2^20 cycles (R415). -/
def execForcedPreemption (s : State) : Out :=
  lift (fun d => match d.occ with
    | .ctx c => preemptStep d c 2 (match (d.graph c).preempt with | some p => decide (p.at_ + 2 ^ 20 ≤ d.now.toNat) && !atBoundary d c true | none => false)
    | _ => d) s

/-! ### Relocation and compaction (R385 to R387) -/

/-- The die's first position for a load, its own pages counted as free. -/
def firstFit (d : Dev) (c : Nat) (l : Load) : Option (Nat × Nat) := rectOn d c l.die l.w l.h l.pages

/-- A load is moved within its die (R385). -/
def relocate (d : Dev) (c : Nat) (l : Load) (row col : Nat) : Dev :=
  let s := { captureLoad d c l 1 with isles := ⟨[], [], [], []⟩ }
  let l' := { l with row := row, col := col }
  let accs := l.pages.map fun p => (((d.page p).py * 16 + (d.page p).px), d.page p)
  let d := l.pages.foldl (fun d p => d.modPage p idlePage) { d with spans := d.spans.filter fun e => !l.holds (pageOfFe e.1) }
  let d := putLoad d c { s with pages := accs } l'
  let d := mvOutside (moveKey l l') c (d.modGraph c fun g => { g with load := some l' })
  moveLinks (moveKey l l') c (setSlots d l')

/-- An engine task has an endpoint in a page store of a load: a copy that its Peel units have accepted and not carried out (R385). -/
def storeTask (d : Dev) (c : Nat) (l : Load) : Bool :=
  l.isles.any fun i => i.kind == .peel && (d.chan i).tasks.any fun t => t.phase != 2 && (match t.pk with
    | some p => p.cid == c && (match copyOf d i p with | .ok k => k.sps || k.dps | .error _ => false)
    | none => false)

/-- The load in hand of a compaction is done with. -/
def popCompact (d : Dev) : Dev :=
  { d with loader := { d.loader with decide := true, compact := d.loader.compact.map fun k => { k with todo := k.todo.drop 1, asked := d.now.toNat, passed := false } } }

/-- RELOCATION, once COMPACTION has asked for it: at a batch boundary admission stops; once settled, the load moves. -/
def execRelocation (s : State) : Out :=
  lift (fun d =>
    match d.occ with
    | .ctx c =>
      let g := d.graph c
      match g.load with
      | some l =>
        if !g.reloc || g.preempt.isSome || g.ending.isSome || !(g.st == .resident || g.st == .parked) then d
        else if !g.draining then
          -- no fault holds a port of the load, and no engine task has an end in a page store (R385, R416)
          (if atBoundary d c false && l.pages.all (fun p => (d.page p).score.isEmpty && !(d.page p).accs.any (holdsPort d)) && !storeTask d c l
           then d.modGraph c fun g => { g with draining := true } else d)
        else if !((d.hold c).undo.map (·.hit)).getD false && quiet d c && settled d c && !storeTask d c l then
          let d := match firstFit d c l with
            | some (r, k) => if (r, k) = (l.row, l.col) then d else relocate d c l r k
            | none => d
          popCompact (d.modGraph c fun g => { g with reloc := false, draining := false })
        else d
      | none => d
    | _ => d) s

/-- COMPACTION: ends once the queued load has a place or every load has been moved or skipped; else asks the next load to move. -/
def execCompaction (s : State) : Out :=
  lift (fun d =>
    match d.loader.compact with
    | none => d
    | some k =>
      let fits := match (d.graph k.cid).image[(d.graph k.cid).ix]? with
        | some l => (findPlace d k.cid l (diesFor d k.cid) [] []).isSome
        | none => true
      match fits, k.todo with
      | false, c :: _ =>
        let g := d.graph c
        if ((g.load.map (·.die)) == some k.die) && (g.st == .resident || g.st == .parked) && g.ending.isNone && g.preempt.isNone then
          (if g.reloc then d
           else
             let d := d.modGraph c fun g => { g with reloc := true }
             { d with loader := { d.loader with compact := some { k with asked := d.now.toNat, passed := false } } })
        else popCompact d
      | _, _ =>
        let d := d.modGraph k.cid fun g => { g with compacted := some d.loader.placed }
        { d with loader := { d.loader with compact := none, decide := true } }) s

/-- COMPACTION_SKIP: the load in hand has reached no batch boundary in 2^20 cycles. -/
def execCompactionSkip (s : State) : Out :=
  lift (fun d =>
    match d.loader.compact with
    | some k => match k.todo with
      | c :: _ =>
        if (d.graph c).reloc && !(d.graph c).draining && !k.passed && !atBoundary d c false && decide (k.asked + 2 ^ 20 ≤ d.now.toNat) then
          popCompact (d.modGraph c fun g => { g with reloc := false })
        else d
      | [] => d
    | none => d) s

/-! ### Faults posted (R406 to R409) -/

/-- Post a record to the fault queue; a write that faults is an event of the I/O die. -/
def postRecord (d : Dev) (c : Nat) (r : FaultRec) : Dev :=
  let q := (d.ctx c).faultq.toNat
  let base := fld q 56 12 * 2 ^ 12
  let n := 2 ^ fld q 3 0
  let drop := fun (va : Nat) (w : Want) (d : Dev) => raiseEvent (logRefused d 5 c va w) 4 ⟨6, 10, 0, 0, 0⟩
  match loaderNum d c base 8, loaderNum d c (base + 8) 8, loaderNum d c (base + 16) 8 with
  | .ok prod, .ok cons, .ok lost =>
    let d := countRun d 5 c 8 base 24
    if (prod + 2 ^ 64 - cons) % 2 ^ 64 ≥ n then
      (match loaderPut d c (base + 16) (bytesOf (min (lost + 1) (2 ^ 64 - 1)) 8) with | .ok d => d | .error e => drop e.2 .wr d)
    else match loaderPut d c (base + 64 + 64 * (prod % n)) r.bytes with
      | .error e => drop e.2 .wr d
      | .ok d => (match loaderPut d c base (bytesOf (prod + 1) 8) with | .ok d => d | .error e => drop e.2 .wr d)
  | .error e, _, _ | _, .error e, _ | _, _, .error e => drop e.2 .rd d

def hasTrapToken (c : FCode) : Bool := match c with | .msfull | .loader => false | _ => true

/-- FAULT_POST: the oldest record of a context. -/
def execFaultPost (s : State) : Out :=
  lift (fun d =>
    match d.occ with
    | .ctx c =>
      match (d.graph c).posts with
      | [] => d
      | r :: rest =>
        let d := tock (postRecord (d.modGraph c fun g => { g with posts := rest }) c r)
        let g := d.graph c
        if !hasTrapToken r.code || g.ending.isSome then d
        else if g.st == .resident then deliverTrap c d r
        else if g.st == .queued || g.st == .parked then d.modHold c fun h => { h with traps := h.traps ++ [r] }
        else d
    | _ => d) s

/-! ### MSFULL (R410, R411) -/

/-- MSFULL_HANDLING (R410). -/
def execMsfullHandling (s : State) : Out :=
  lift (fun d =>
    match d.occ with
    | .ctx c =>
      if (d.graph c).st == .parked && (d.graph c).ending.isNone then handleMsfull d c else d
    | _ => d) s

/-! ### Ends (R190, R193, R199, R412) -/

/-- CONTEXT_COMPLETION of a graph that ends by DONE, a clear, or a rejection. -/
def execContextCompletion (s : State) : Out :=
  lift (fun d =>
    match d.occ with
    | .ctx c => match ((d.graph c).ending.map (·.kind)) with
      | some EndKind.graph => carryEnd d c fun e d => complete d c 0 e.status
      | some EndKind.clear => carryEnd d c fun e d => complete d c 1 e.status
      | some EndKind.reject => carryEnd d c fun e d => complete d c 3 e.status
      | _ => d
    | _ => d) s

/-- CONTEXT_FREED: the graph of a disabled context completes with cause 2 (R51), and status 0, for which the spec gives no value (DESIGN CHOICE, log 83). A context that
had no graph has nothing to complete. -/
def execContextFreed (s : State) : Out :=
  lift (fun d =>
    match d.occ with
    | .ctx c => if ((d.graph c).ending.map (·.kind)) == some .kill then carryEnd d c fun _ d => complete d c 2 0 else d
    | _ => d) s

end Sys2Proof.Machine
end

