-- ==== Sys2Proof/Machine/Braid.lean ====
section
/-! DEFINITION. The Braid units: state descriptors (R295, R444), gates (R296, R449), exchanges (R297, R451), norms, marginals and samples (R298,
R453), the interlock and assisting units (R446, R448). -/

namespace Sys2Proof.Machine

/-! ### State descriptors (R295) -/

structure Svd where
  lva : Nat
  rlva : Nat
  nq : Nat
  ng : Nat
  af : Nat
  scope : Nat
  me : Nat
  coid : Nat
  map : List Nat
  deriving DecidableEq, Repr

def Svd.l (s : Svd) : Nat := s.nq - s.ng
/-- The physical bit of a logical qubit. -/
def mapBit (map : List Nat) (q : Nat) : Nat := (map[q]?).getD 0
def Svd.bit (s : Svd) (q : Nat) : Nat := mapBit s.map q

/-- The SVD that a packet names: ISLANDF 0x01 beyond its limits, 0x0A for a MAP that is no permutation. -/
def readSvd (d : Dev) (isl : Isle) (p : Packet) : Except Fail Svd :=
  match taskRead d isl p.cid (p.pair 0) 128 with
  | .error f => .error f
  | .ok bs =>
    let v := numOf bs
    let s : Svd := ⟨dfld v 0 8, dfld v 8 8, dfld v 0x10 1, dfld v 0x11 1, dfld v 0x12 1, dfld v 0x13 1, dfld v 0x14 2, dfld v 0x16 2,
      (List.range (min 48 (dfld v 0x10 1))).map fun q => dfld v (0x20 + q) 1⟩
    if !(decide (1 ≤ s.nq ∧ s.nq ≤ 48 ∧ s.ng ≤ 10 ∧ s.ng < s.nq ∧ s.af ≤ 1 ∧ (s.scope = 3 ∨ s.scope = 4) ∧ s.me < 2 ^ s.ng ∧ s.lva % 16 = 0 ∧ s.rlva % 4 = 0
        ∧ dfld v 0x18 8 = 0 ∧ dfld v 0x50 48 = 0)) then .error (islandFail 1)
    else if !((List.range s.nq).all s.map.contains) then .error (islandFail 0xA)
    else .ok s

/-! ### Amplitudes (R57) -/

def partFmt (af : Nat) : FpFmt := if af = 0 then fp32 else fp64
def ampSize (af : Nat) : Nat := if af = 0 then 8 else 16

/-- The parts of a complex element of part width `w` bytes, with the poison of its bytes. -/
def complexOf (pf : FpFmt) (w : Nat) (bs : List (Byte × Bool)) : (XR × XR) × Bool :=
  ((decodeFp pf (numOf (bs.take w)), decodeFp pf (numOf ((bs.drop w).take w))), bs.any (·.2))

/-- A fault of a local part: a byte that is not mapped with R and W (R444). That a leaf is RDUP counts only where it is written (R453, R454). -/
def partFault (d : Dev) (isl : Isle) (cid lva n : Nat) : Option Fail :=
  (List.range n).findSome? fun k =>
    match vaKey d isl.die cid (lva + k) .rd, vaKey d isl.die cid (lva + k) .wr with
    | .error e, _ => some ⟨e, 0, lva + k⟩
    | _, .error .wpf => none
    | _, .error e => some ⟨e, 0, lva + k⟩
    | _, _ => none

/-- An index with the bits of `v` placed at the bit positions of a list. -/
def placeBits (bits : List Nat) (v : Nat) : Nat := ((indexed bits).map fun (m, b) => if v.testBit m then 2 ^ b else 0).sum
def takeBits (bits : List Nat) (p : Nat) : Nat := ((indexed bits).map fun (m, b) => if p.testBit b then 2 ^ m else 0).sum

/-! ### Gates (R296, R449) -/

def gateTargets (p : Packet) : List Nat := (List.range (fld p.lit 13 11 + 1)).map fun m => fld (p.pair 4) (8 * m + 7) (8 * m)
def gateControls (p : Packet) : List Nat := (List.range (fld p.lit 17 14)).map fun j => fld (p.pair 6) (8 * j + 7) (8 * j)
def isDense (p : Packet) : Bool := match p.instr with | .bgate _ => true | _ => false

/-- What a gate's operands are refused for, once the SVD is read. -/
def gateFault (s : Svd) (p : Packet) : Option Fail :=
  let all := gateTargets p ++ gateControls p
  if !(all.Nodup && all.all (· < s.nq)) then some ⟨.illop, 0, 0⟩
  else if isDense p && (gateTargets p).any fun q => s.bit q ≥ s.l then some (islandFail 0xA)
  else none

/-- The parts of the matrix or diagonal, rounded to the amplitude's part format. -/
def gateMatrix (ftz : Bool) (pf : FpFmt) (n : Nat) (bs : List (Byte × Bool)) : List (XR × XR) × Counts :=
  let es := (chunks 16 n bs).map fun c =>
    let u := (complexOf fp64 8 c).1
    let a := roundTo ftz u.1 pf .rne
    let b := roundTo ftz u.2 pf .rne
    ((decodeFp pf a.1, decodeFp pf b.1), a.2.add b.2)
  (es.map (·.1), Counts.sum (es.map (·.2)))

/-- The new parts of an amplitude: the exact sums over the row, each rounded once. -/
def gateRow (ftz : Bool) (pf : FpFmt) (row amps : List (XR × XR)) : (Nat × Nat) × Counts :=
  let re := XR.sum .rne ((List.zip row amps).flatMap fun x => [x.1.1.mul x.2.1, (x.1.2.mul x.2.2).negate])
  let im := XR.sum .rne ((List.zip row amps).flatMap fun x => [x.1.1.mul x.2.2, x.1.2.mul x.2.1])
  let a := roundTo ftz re pf .rne
  let b := roundTo ftz im pf .rne
  ((a.1, b.1), a.2.add b.2)

/-- A group of amplitudes of a gate: local indices, in order of the target bits; for a diagonal each amplitude is a group. -/
def gateGroups (s : Svd) (p : Packet) : List (List Nat) :=
  let tb := (gateTargets p).map s.bit
  let cs := (indexed (gateControls p)).map fun (j, q) => (s.bit q, bitAt p.lit (18 + j))
  let holds := fun q : Nat => cs.all fun c => (s.me * 2 ^ s.l + q).testBit c.1 == c.2
  if isDense p then
    ((List.range (2 ^ s.l)).filter fun q => holds q && tb.all fun b => !q.testBit b).map fun q => (List.range (2 ^ tb.length)).map fun x => q + placeBits tb x
  else ((List.range (2 ^ s.l)).filter holds).map fun q => [q]

/-- The amplitudes of a group after the gate: local index, bytes and poison. -/
def gateGroup (d : Dev) (isl : Isle) (p : Packet) (s : Svd) (mat : List (XR × XR)) (mpoi : Bool) (g : List Nat) :
    Except Fail (List (Nat × List (Byte × Bool)) × Counts) :=
  let pf := partFmt s.af
  let z := ampSize s.af
  match mapE (fun q => taskRead d isl p.cid (s.lva + q * z) z) g with
  | .error f => .error f
  | .ok bss =>
    let cs := bss.map (complexOf pf (z / 2))
    let ins := cs.map fun x => (scaledIn p.ftz x.1.1 0 pf, scaledIn p.ftz x.1.2 0 pf)
    let amps := ins.map fun x => (x.1.1, x.2.1)
    let kin := Counts.sum (ins.map fun x => x.1.2.add x.2.2)
    let poi := mpoi || cs.any (·.2)
    let n := 2 ^ (gateTargets p).length
    let outs := (indexed g).map fun (r, q) =>
      let row := if isDense p then (mat.drop (r * n)).take n
        else (mat.drop (takeBits ((gateTargets p).map s.bit) (s.me * 2 ^ s.l + q))).take 1
      let ((a, b), k) := gateRow p.ftz pf row amps
      ((q, (bytesOf a (z / 2) ++ bytesOf b (z / 2)).map fun x => (x, poi)), k)
    .ok (outs.map (·.1), kin.add (Counts.sum (outs.map (·.2))))

/-- BGATE and BDIAG on this package's amplitudes. Only amplitudes whose controls hold are read and written (R449), in elements of 16 bytes where both amplitudes of
one are (R312). -/
def gateWork (d : Dev) (isl : Isle) (t : Task) (p : Packet) : Dev :=
  match readSvd d isl p with
  | .error f => failTask d isl t f
  | .ok s => match gateFault s p with
    | some f => failTask d isl t f
    | none =>
      let global := (indexed (gateControls p)).filterMap fun (j, q) => if s.bit q ≥ s.l then some (s.bit q, bitAt p.lit (18 + j)) else none
      if global.any fun c => (s.me * 2 ^ s.l).testBit c.1 != c.2 then
        let (seen, d) := taskSaw d isl p.cid 16 (p.pair 0) 128
        afterWork d isl t seen (scopeOf s.scope) p.done
      else
        let n := if isDense p then 4 ^ (gateTargets p).length else 2 ^ (gateTargets p).length
        match taskRead d isl p.cid (p.pair 2) (16 * n), partFault d isl p.cid s.lva (2 ^ s.l * ampSize s.af) with
        | .error f, _ => failTask d isl t f
        | _, some f => failTask d isl t f
        | .ok mb, none =>
          let z := ampSize s.af
          let touched := mergeSpans ((gateGroups s p).flatten.map fun q => (s.lva + q * z, z))
          let (seen, d) := taskSawAll d isl p.cid 16 ([(p.pair 0, 128), (p.pair 2, 16 * n)] ++ touched)
          let (mat, k0) := gateMatrix p.ftz (partFmt s.af) n mb
          match mapE (gateGroup d isl p s mat (mb.any (·.2))) (gateGroups s p) with
          | .error f => failTask d isl t f
          | .ok rs =>
            let runs := mergeRuns (rs.flatMap fun (r : List (Nat × List (Byte × Bool)) × Counts) => r.1.map fun w => (s.lva + w.1 * z, w.2))
            match taskWrites d isl p.cid 16 runs with
            | .error (f, d) => failTask (tock d) isl t f
            | .ok (ws, d) => afterWork (addCounts (tock d) p.span (k0.add (Counts.sum (rs.map (·.2))))) isl t (seen ++ ws) (scopeOf s.scope) p.done

/-! ### Collective Braid tasks: joining (R292, R297, R298) -/

/-- What the members of a Braid collective agree on beside the rank list, from the SVD and the packet; ISLANDF 0x01 for operands beyond their
limits. `op` is 16 for BSWAP, 17 to 19 for BPROB. -/
def braidTerms (s : Svd) (p : Packet) : Except Fail CollDesc :=
  let base : CollDesc :=
    { op := 16, ef := s.af, rop := 0, rm := 0, nr := 2 ^ s.ng, me := s.me, cnt := s.nq * 64 + s.ng, root := 0, coid := s.coid, sva := s.lva, dva := p.pair 2
      scope := s.scope, adest := 0, ranks := [], joined := 0, map := s.map }
  let bad : Except Fail CollDesc := .error (islandFail 1)
  match p.instr with
  | .bswap _ =>
    let a := fld (p.lane 2) 7 0
    let b := fld (p.lane 2) 15 8
    if a = b ∨ a ≥ s.nq ∨ b ≥ s.nq then bad
    else .ok { base with rop := min a b * 64 + max a b, root := min (s.bit a) (s.bit b) * 64 + max (s.bit a) (s.bit b) }
  | .bprobMarg _ =>
    let c := fld (p.lane 5) 2 0
    let qs := (List.range c).map fun m => fld (p.lane 4) (8 * m + 7) (8 * m)
    if c = 0 ∨ c > 4 ∨ qs.any (· ≥ s.nq) then bad else .ok { base with op := 18, rop := c, root := natOfBytes (qs.map fun q => BitVec.ofNat 8 (s.bit q)) }
  | .bprobSamp _ =>
    if p.lane 4 = 0 ∨ p.lane 4 > 65536 then bad
    else .ok { base with op := 19, rop := p.lane 4, rm := p.lane 5, root := p.lane 6 * 2 ^ 384 + natOfBytes (s.map.map (BitVec.ofNat 8)) }
  | _ => .ok { base with op := 17 }

/-- A BSWAP or BPROB joins once its COID is free in its context. -/
def braidJoin (d : Dev) (isl : Isle) (t : Task) (p : Packet) : Dev :=
  match readSvd d isl p with
  | .error f => failTask d isl t f
  | .ok s => match braidTerms s p with
    | .error f => failTask d isl t f
    | .ok c =>
      if coidBusy d p.cid c.coid then d
      else match rankList d isl p.cid s.rlva c.nr with
        | .error f => failTask d isl t f
        | .ok (l, seen, d) => match rankFault d p.cid c.me l with
          | some f => failTask d isl t f
          | none =>
            let (own, d) := taskSaw d isl p.cid 16 (p.pair 0) 128
            joinColl d isl t { c with ranks := l } (own ++ seen)

/-! ### Local parts of the members -/

def CollDesc.l (c : CollDesc) : Nat := c.cnt / 64 - c.cnt % 64

/-- A member's bytes of an amplitude of rank `r`; outside agents answer for ranks on other packages (log 8). -/
def rankAmp (d : Dev) (c : CollDesc) (ms : List (Nat × Isle × Task)) (r q : Nat) : Except Fail (List (Byte × Bool)) :=
  let z := ampSize c.ef
  match ms.find? (·.1 == r) with
  | some (_, i, t) => (match t.coll, t.pk with
    | some m, some p => taskRead (d.asTask i t.id) i p.cid (m.sva + q * z) z
    | _, _ => .ok [])
  | none => .ok ((outsideSrc d r ((q + 1) * z)).bytes.drop (q * z))

/-- Members that fault on their own local part, on what they read of it, or on what they write; runs are checked byte by byte. A member under rollback
containment that meets an error fails too, and its context rolls back (R353). -/
def memberFaults (d : Dev) (c : CollDesc) (ms : List (Nat × Isle × Task)) (reads writes : Nat → List (Nat × Nat)) : List (Nat × Fail) :=
  ms.filterMap fun m => match m.2.2.coll, m.2.2.pk with
    | some x, some p =>
      let f := match partFault d m.2.1 p.cid x.sva (2 ^ c.l * ampSize c.ef) with
        | some f => some f
        | none => match (reads m.1).findSome? fun (w : Nat × Nat) =>
            match taskRead (d.asTask m.2.1 m.2.2.id) m.2.1 p.cid (x.sva + w.1) w.2 with | .error f => some f | .ok _ => none with
          | some f => some f
          | none => (writes m.1).findSome? fun (w : Nat × Nat) => match vaKeys d m.2.1.die p.cid w.1 w.2 .wr with | .error e => some (failAt e) | .ok _ => none
      f.map fun f => (m.1, f)
    | _, _ => none

/-- The members that faulted raise their faults; the others go on waiting, until their deadline (R452). -/
def failMembers (d : Dev) (ms : List (Nat × Isle × Task)) (bad : List (Nat × Fail)) : Dev :=
  ms.foldl (fun d (m : Nat × Isle × Task) => match bad.find? (·.1 == m.1) with | some b => failTask d m.2.1 m.2.2 b.2 | none => d) d

/-! ### BSWAP (R297, R451) -/

/-- The local indices of a rank whose amplitude moves, with the rank and index it comes from. -/
def swapMoves (c : CollDesc) (r : Nat) : List (Nat × Nat × Nat) :=
  let lo := c.root / 64
  let hi := c.root % 64
  (List.range (2 ^ c.l)).filterMap fun q =>
    let p := r * 2 ^ c.l + q
    if p.testBit lo == p.testBit hi then none
    else
      let p' := (p ^^^ 2 ^ lo) ^^^ 2 ^ hi
      some (q, p' / 2 ^ c.l, p' % 2 ^ c.l)

/-- The runs of a rank's local part that move, as places in it. -/
def swapSpans (c : CollDesc) (r : Nat) : List (Nat × Nat) := mergeSpans ((swapMoves c r).map fun m => (m.1 * ampSize c.ef, ampSize c.ef))

/-- What a member receives. -/
def swapRuns (d0 : Dev) (c : CollDesc) (ms : List (Nat × Isle × Task)) (r : Nat) (x : CollDesc) : List (Nat × List (Byte × Bool)) :=
  mergeRuns ((swapMoves c r).map fun (q, r', q') => (x.sva + q * ampSize c.ef, match rankAmp d0 c ms r' q' with | .ok bs => bs | .error _ => []))

/-- The MAP bytes that an exchange writes, from the SVD as the member read it when it joined: bytes that an amplitude is written over take the amplitude's
value (R445). -/
def mapRuns (d : Dev) (isl : Isle) (cid mapVa : Nat) (x : CollDesc) (runs : List (Nat × List (Byte × Bool))) : List (Nat × List (Byte × Bool)) :=
  let lo := x.rop / 64
  let hi := x.rop % 64
  let keys := runs.flatMap fun r => match vaKeys d isl.die cid r.1 r.2.length .wr with | .ok ks => ks.filterMap id | .error _ => []
  [(mapVa + lo, clean [BitVec.ofNat 8 (mapBit x.map hi)]), (mapVa + hi, clean [BitVec.ofNat 8 (mapBit x.map lo)])].filter fun w =>
    match vaKey d isl.die cid w.1 .wr with | .ok (some k) => !keys.contains k | _ => true

/-- A member's part of an exchange: the amplitudes it receives, then MAP; or the fault that its writes meet. -/
def swapMember (d0 : Dev) (c : CollDesc) (ms : List (Nat × Isle × Task)) (acc : Dev × List (Nat × Fail)) (m : Nat × Isle × Task) : Dev × List (Nat × Fail) :=
  let (r, i, t) := m
  match t.coll, t.pk with
  | some x, some p =>
    let runs := swapRuns d0 c ms r x
    let (seen, d) := taskSawAll (acc.1.asTask i t.id) i p.cid 16 ((swapSpans c r).map fun w => (x.sva + w.1, w.2))
    (match taskWrites d i p.cid 16 (runs ++ mapRuns d i p.cid (p.pair 0 + 0x20) x runs) with
     | .ok (ws, d) => (afterWork d i t (t.writes ++ seen ++ ws) (scopeOf x.scope) p.done, acc.2)
     | .error (f, _) => (acc.1, acc.2 ++ [(r, f)]))
  | _, _ => acc

/-- An exchange that a member abandons: each 16-byte granule of what a member receives has its old value or its partner's, and no MAP changes (R452). -/
def swapPartly (d0 : Dev) (c : CollDesc) (ms : List (Nat × Isle × Task)) (d : Dev) (m : Nat × Isle × Task) : Dev :=
  let (r, i, t) := m
  match t.coll, t.pk with
  | some x, some p =>
    let z := ampSize c.ef
    let bytes := (swapMoves c r).flatMap fun (q, r', q') =>
      (indexed (match rankAmp d0 c ms r' q' with | .ok bs => bs | .error _ => [])).map fun (k, b) => (x.sva + q * z + k, b)
    let (ks, d) := freeGranules 16 (d.asTask i t.id) bytes
    writeSome d i p.cid 16 ks
  | _, _ => d

/-- Members of an abandoned exchange that met no fault wait on alone, until their deadline (R452). -/
def loseMembers (d : Dev) (ms : List (Nat × Isle × Task)) (bad : List (Nat × Fail)) : Dev :=
  ms.foldl (fun d (m : Nat × Isle × Task) =>
    if bad.any (·.1 == m.1) then d else putTask d m.2.1 { m.2.2 with coll := m.2.2.coll.map fun c => { c with lost := true } }) d

/-- The exchange for the members on this package: all of it, or none of it that goes on where one of them faults on what it reads or writes (R452). -/
def swapRun (d : Dev) (c : CollDesc) (ms : List (Nat × Isle × Task)) : Dev :=
  let writes := fun r => match ms.find? (·.1 == r) with
    | some (_, _, t) => (match t.coll, t.pk with
      | some x, some p => (swapSpans c r).map (fun w => (x.sva + w.1, w.2)) ++ [(p.pair 0 + 0x20 + x.rop / 64, 1), (p.pair 0 + 0x20 + x.rop % 64, 1)]
      | _, _ => [])
    | none => []
  let bad := memberFaults d c ms (swapSpans c) writes
  let (d', bad) := if bad.isEmpty then ms.foldl (swapMember d c ms) (tock d, []) else (d, bad)
  if bad.isEmpty then d' else failMembers (loseMembers (ms.foldl (swapPartly d c ms) (tock d)) ms bad) ms bad

/-! ### BPROB (R298, R453) -/

/-- FTZ of a rank's page. -/
def rankFtz (d : Dev) (ms : List (Nat × Isle × Task)) (r : Nat) : Bool :=
  match ms.find? (·.1 == r) with
  | some (_, _, t) => (t.pk.map (·.ftz)).getD false
  | none => (outsideSrc d r 0).ftz

/-- A probability of a BPROB: the FTZ of its rank, its value, its rank, and what forming it counts. -/
structure Prob where
  ftz : Bool
  val : XR
  rank : Nat
  counts : Counts
  deriving DecidableEq, Repr

/-- `p(i)` of every amplitude in ascending physical index; its parts pass through `scaled_in` (R70). -/
def probs (d : Dev) (c : CollDesc) (ms : List (Nat × Isle × Task)) : List Prob :=
  let pf := partFmt c.ef
  (List.range c.nr).flatMap fun r => (List.range (2 ^ c.l)).map fun q =>
    let ftz := rankFtz d ms r
    let (re, im) := (complexOf pf (ampSize c.ef / 2) (match rankAmp d c ms r q with | .ok bs => bs | .error _ => [])).1
    let a := scaledIn ftz re 0 pf
    let b := scaledIn ftz im 0 pf
    let v := roundTo ftz (XR.sum .rne [a.1.mul a.1, b.1.mul b.1]) fp64 .rne
    ⟨ftz, decodeFp fp64 v.1, r, (a.2.add b.2).add v.2⟩

/-- Running sums of a serial fold, one after each term, with what each addition counts. -/
def runSums (acc : XR) : List Prob → List (XR × Counts)
  | [] => []
  | x :: l => let a := addRoundedFp x.ftz acc x.val fp64 .rne; let v := decodeFp fp64 a.1; (v, a.2) :: runSums v l

def foldProb (l : List Prob) : XR := (((runSums (.zero false) l).getLast?).map (·.1)).getD (.zero false)

/-- What a rank counts in a fold of probabilities: forming its own, where the fold is the first of its task, and adding them (R450, R453). -/
def foldCounts (r : Nat) (l : List Prob) : Counts :=
  Counts.sum ((l.zip (runSums (.zero false) l)).filterMap fun x => if x.1.rank = r then some x.2.2 else none)
def formCounts (r : Nat) (l : List Prob) : Counts := Counts.sum ((l.filter (·.rank == r)).map (·.counts))

def f64Code (x : XR) : Nat := (roundTo false x fp64 .rne).1

/-- The logical index of a physical one. -/
def logicalOf (map : List Nat) (p : Nat) : Nat := takeBits map p

/-- The threshold of draw `k` of `.samp`, with what its rounding counts. -/
def drawAt (ftz : Bool) (key cb k : Nat) (t : XR) : Nat × Counts :=
  roundTo ftz ((XR.dyadic false (rndMix ((cb + k) % 2 ^ 32) key) (-32)).mul t) fp64 .rne

/-- The samples of `.samp`; `ftz` is that of rank 0, so that every member writes the same (R298; which rank's the spec does not say, log 85). -/
def drawSamples (map : List Nat) (ftz : Bool) (n key cb : Nat) (ps : List Prob) : List Nat :=
  let run := (runSums (.zero false) ps).map (·.1)
  let t := (run.getLast?).getD (.zero false)
  let last := ((indexed ps).filter fun x => (XR.zero false).lt x.2.val).getLast?
  (List.range n).map fun k =>
    let th := decodeFp fp64 (drawAt ftz key cb k t).1
    if t.isZero then 0
    else match firstIdx (fun v => th.lt v) run with
      | some i => logicalOf map i
      | none => match last with | some x => logicalOf map x.1 | none => 0

/-- The entries of a `.marg`: the probabilities that each folds. -/
def margParts (map : List Nat) (p : Packet) (ps : List Prob) : List (List Prob) :=
  let c := fld (p.lane 5) 2 0
  let bits := (List.range c).map fun m => mapBit map (fld (p.lane 4) (8 * m + 7) (8 * m))
  (List.range (2 ^ c)).map fun o => ((indexed ps).filter fun x => takeBits bits x.1 == o).map (·.2)

/-- What the task of rank `r` counts (R85, R450): its probabilities and its additions in every fold of its task, of which `.samp` makes two, and the
thresholds, which each member forms. -/
def probCounts (map : List Nat) (ftz : Bool) (p : Packet) (r : Nat) (ps : List Prob) : Counts :=
  match p.instr with
  | .bprobMarg _ => (formCounts r ps).add (Counts.sum ((margParts map p ps).map (foldCounts r)))
  | .bprobSamp _ => ((formCounts r ps).add ((foldCounts r ps).add (foldCounts r ps))).add
      (Counts.sum ((List.range (p.lane 4)).map fun k => (drawAt ftz (p.lane 5) (p.lane 6) k (foldProb ps)).2))
  | _ => (formCounts r ps).add (foldCounts r ps)

/-- What a member of a BPROB writes. -/
def probBytes (map : List Nat) (ftz : Bool) (p : Packet) (ps : List Prob) : List Byte :=
  match p.instr with
  | .bprobMarg _ => (margParts map p ps).flatMap fun l => bytesOf (f64Code (foldProb l)) 8
  | .bprobSamp _ => (drawSamples map ftz (p.lane 4) (p.lane 5) (p.lane 6) ps).flatMap fun v => bytesOf v 8
  | _ => bytesOf (f64Code (foldProb ps)) 8

/-- The tokens of a BPROB: `.norm` sends T to DSTA. -/
def probTokens (p : Packet) (ps : List Prob) : List Result :=
  match p.instr with
  | .bprobNorm _ => let t := f64Code (foldProb ps); p.dataDone .data [t % 2 ^ 32, t / 2 ^ 32]
  | _ => p.done

/-- A member's part of a BPROB, with MAP as it read it when it joined (R445). -/
def probMember (ps : List Prob) (ftz poi : Bool) (d : Dev) (m : Nat × Isle × Task) : Dev :=
  let (r, i, t) := m
  match t.coll, t.pk with
  | some x, some p =>
    let (seen, d) := taskSaw (d.asTask i t.id) i p.cid 16 x.sva (2 ^ x.l * ampSize x.ef)
    (match taskWrite d i p.cid 16 (p.pair 2) ((probBytes x.map ftz p ps).map fun b => (b, poi)) with
     | .error (f, d) => failTask d i t f
     | .ok (ws, d) => afterWork (addCounts d p.span (probCounts x.map ftz p r ps)) i t (t.writes ++ seen ++ ws) (scopeOf x.scope) (probTokens p ps))
  | _, _ => d

def probRun (d : Dev) (c : CollDesc) (ms : List (Nat × Isle × Task)) : Dev :=
  let bad := memberFaults d c ms (fun _ => [(0, 2 ^ c.l * ampSize c.ef)]) fun _ => []
  if bad.isEmpty then
    let ps := probs d c ms
    let poi := (List.range c.nr).any fun r => (List.range (2 ^ c.l)).any fun q => match rankAmp d c ms r q with | .ok bs => bs.any (·.2) | .error _ => false
    ms.foldl (probMember ps (rankFtz d ms 0) poi) (tock d)
  else failMembers d ms bad

/-- A member has fired another collective node on its state vector, which waits behind this one: the members fired in different orders (R448). -/
def outOfOrder (d : Dev) (ms : List (Nat × Isle × Task)) : Bool :=
  let fired := fun p : Packet => match p.instr with | .bswap _ | .bprobNorm _ | .bprobMarg _ | .bprobSamp _ => true | _ => false
  ms.any fun m => m.2.2.pk.any fun (p : Packet) => (List.range 4).any fun k =>
    let c := d.chan ⟨.braid, k, 0⟩
    (c.packets ++ c.tasks.filterMap (·.pk)).any fun u => u.id != p.id && u.cid == p.cid && u.pair 0 == p.pair 0 && fired u

/-- All members of a Braid collective have joined, and it is carried out for those on this package. Members that disagree raise ISLANDF 0x08 (R292), but where
they fired in different orders they wait for one another (R448, log 85). -/
def braidRun (d : Dev) (c : CollDesc) : Dev :=
  let (ms, same, d) := membersOf d c
  if !same && outOfOrder d ms then d
  else if !same then ms.foldl (fun d (m : Nat × Isle × Task) => failTask d m.2.1 m.2.2 (islandFail 8)) d
  else if c.op = 16 then swapRun d c ms else probRun d c ms

/-! ### The interlock and assisting units (R446, R448) -/

/-- A packet is accepted under its key, unless that needs a seventeenth entry. -/
def braidAccept (d : Dev) (isl : Isle) (p : Packet) : Dev :=
  let hit := fun e : Nat × Nat × List Nat => e.1 == p.cid && e.2.1 == p.pair 0
  let lock := d.braid.lock
  if lock.any hit then
    { takePacket d isl p id with braid := { d.braid with lock := lock.map fun e => if hit e then (e.1, e.2.1, e.2.2 ++ [p.id]) else e } }
  else if lock.length ≥ 16 then d
  else { takePacket d isl p id with braid := { d.braid with lock := lock ++ [(p.cid, p.pair 0, [p.id])] } }

/-- The Braid units that assist: u − 1 idle ones, the lowest first; a BSWAP takes some only for a local pass (R446). -/
def assistants (d : Dev) (isl : Isle) (p : Packet) : List Isle :=
  let idle := ((List.range 4).map fun k => (⟨.braid, k, 0⟩ : Isle)).filter fun i => i != isl && (isleHolder d i).isNone && !d.braid.assist.any (·.2 == i)
  let n := 1 + idle.length
  let takes := match p.instr with
    | .bswap _ => (match readSvd d isl p with
      | .ok s => s.bit (fld (p.lane 2) 7 0) < s.l && s.bit (fld (p.lane 2) 15 8) < s.l
      | .error _ => false)
    | _ => true
  if takes then idle.take ((if n ≥ 4 then 4 else if n ≥ 2 then 2 else 1) - 1) else []

/-- BRAID_TASK_START: the first task of its key starts (R448). -/
def execBraidTaskStart (s : State) : Out :=
  lift (fun d => match d.occ with
    | .task isl id => (match getTask d isl id with
      | some t => (match t.pk with
        | some p =>
          if isl.kind == .braid && t.phase == 0 && d.braid.lock.any (fun e => e.2.2.head? == some id) && !tasksHeld d p.cid then
            let us := (assistants d isl p).map fun i => (id, i)
            putTask { d with braid := { d.braid with assist := d.braid.assist ++ us } } isl { t with phase := 4 }
          else d
        | none => d)
      | none => d)
    | _ => d) s

/-- A started Braid task goes on. -/
def braidWork (d : Dev) (isl : Isle) (t : Task) (p : Packet) : Dev :=
  if tasksHeld d p.cid then d
  else if t.phase = 4 then (match p.instr with | .bgate _ | .bdiag _ => gateWork d isl t p | _ => braidJoin d isl t p)
  else match t.coll with
    | some c => if t.phase == 1 && allJoined d c && (localRanks d c).all (fun e => !tasksHeld d (rankCid e)) then overLinks d c fun d => braidRun d c else d
    | none => d

/-! ### Meanings -/

/-- Lanes that a gate's packet needs: the descriptor, the matrix, and the bytes of its targets and controls. -/
def gateLanes (n : NodeRec) : List Nat :=
  let nt := fld n.lit.toNat 13 11 + 1
  let nc := fld n.lit.toNat 17 14
  [0, 1, 2, 3, 4] ++ (if nt > 4 then [5] else []) ++ (if nc > 0 then [6] else []) ++ (if nc > 4 then [7] else [])

def execBgate (n : NodeRec) (s : State) : Out := engineFire (.bgate n) n (gateLanes n) s
def execBdiag (n : NodeRec) (s : State) : Out := engineFire (.bdiag n) n (gateLanes n) s
def execBswap (n : NodeRec) (s : State) : Out := engineFire (.bswap n) n [0, 1, 2] s
def execBprobNorm (n : NodeRec) (s : State) : Out := engineFire (.bprobNorm n) n [0, 1, 2, 3] s
def execBprobMarg (n : NodeRec) (s : State) : Out := engineFire (.bprobMarg n) n [0, 1, 2, 3, 4, 5] s
def execBprobSamp (n : NodeRec) (s : State) : Out := engineFire (.bprobSamp n) n [0, 1, 2, 3, 4, 5, 6] s

end Sys2Proof.Machine
end

