-- ==== Sys2Proof/Machine/Hearth.lean ====
section
/-! DEFINITION. Meanings of the Hearth instructions and of the steps of a tile (R237 to R269). -/

namespace Sys2Proof.Machine

/-! ### Firings (R243) -/

def execMtaskRun (n : NodeRec) (s : State) : Out := engineFire (.mtaskRun n) n (List.range 8) s
def execMtaskDef (n : NodeRec) (s : State) : Out := engineFire (.mtaskDef n) n (List.range 8) s
def execMtaskGo (n : NodeRec) (s : State) : Out := engineFire (.mtaskGo n) n [] s
def execMzero (n : NodeRec) (s : State) : Out := engineFire (.mzero n) n [] s
def execMdrainTok (n : NodeRec) (s : State) : Out := engineFire (.mdrainTok n) n [0] s
def execMdrainMem (n : NodeRec) (s : State) : Out := engineFire (.mdrainMem n) n [0, 1, 2] s
def execMdrainRoute (n : NodeRec) (s : State) : Out := engineFire (.mdrainRoute n) n [0, 1] s
def execMwload (n : NodeRec) (s : State) : Out := engineFire (.mwload n) n [0, 1, 2, 3] s
def execMtrayCfg (n : NodeRec) (s : State) : Out := engineFire (.mtrayCfg n) n (List.range 6) s
def execMtrayPush (n : NodeRec) (s : State) : Out := engineFire (.mtrayPush n) n [0, 1] s
def execMtrayFlush (n : NodeRec) (s : State) : Out := engineFire (.mtrayFlush n) n [] s
def execMwait (n : NodeRec) (s : State) : Out := engineFire (.mwait n) n [] s
def execMscale (n : NodeRec) (s : State) : Out := engineFire (.mscale n) n [] s
def execMconv (n : NodeRec) (s : State) : Out := engineFire (.mconv n) n [0, 1] s
def execMstat (n : NodeRec) (s : State) : Out := engineFire (.mstat n) n [] s

/-! ### What the tile does -/

def Packet.slot (p : Packet) : Nat := fld p.lit 14 11
def Packet.trayNo (p : Packet) : Nat := fld p.lit 12 11

def modSlot (t : Tile) (k : Nat) (f : HSlot → HSlot) : Tile := { t with slots := t.slots.set k (f (t.slots.getD k {})) }

/-- The descriptor of a packet's lanes 0–7 is written to its slot (R249). -/
def writeSlot (d : Dev) (isl : Isle) (p : Packet) : Dev :=
  d.modTile isl.tileNo fun t => modSlot t p.slot fun x => { x with words := some ((List.range 8).map p.lane) }

/-- MSCALE (R251). -/
def writeExt (d : Dev) (isl : Isle) (p : Packet) : Dev :=
  d.modTile isl.tileNo fun t => modSlot t p.slot fun x => { x with ext := some (p.pair 0, p.pair 2) }

/-- A chain of a packet's slot (R249). -/
def packetChain (isl : Isle) (p : Packet) : Chain := ⟨isl, p.id, p.cid, p.ftz, none, p.tag, p.outSeq⟩

/-- MZERO (R260). -/
def zeroBanks (c : Chain) (lit : Nat) (d : Dev) : Dev :=
  if bitAt lit 16 then c.modTile d fun t => { t with b0 := zeroBank, b1 := zeroBank }
  else storeBank c (fld lit 15 15) false zeroBank d

/-- MDRAIN `.route` (R255): the status. -/
def routeWrite (d : Dev) (isl : Isle) (p : Packet) : Nat × Dev :=
  match routeEntry d p.cid (p.lane 0) with
  | some w => if p.lane 1 = 0 then (0, d.modTile isl.tileNo fun t => { t with routes := t.routes.set p.slot (p.lane 0, w) }) else (1, d)
  | none => (1, d)

/-- The padded rows of MDRAIN `.mem` (R258), with the counts of their conversion. -/
def memRows (ftz : Bool) (b : HBank) (df va stride : Nat) : List (Nat × List (Byte × Bool)) × Counts :=
  let w := drainW b.fmt df / 8
  let pr := 8 * ((b.m + 7) / 8)
  let pc := 16 * ((b.n + 15) / 16)
  let rows := (List.range pr).map fun i =>
    (List.range pc).map fun j =>
      if i < b.m ∧ j < b.n then
        let e := drainEl ftz df (b.cell (cellIx i j) % 2 ^ (if b.fmt == .f64 then 64 else 32))
        ((bytesOf e.1 w).map fun x => (x, b.poison.contains (cellIx i j)), e.2)
      else (clean (bytesOf 0 w), Counts.zero)
  ((indexed rows).map fun (i, r) => (va + i * stride, r.flatMap (·.1)), Counts.sum (rows.flatMap fun r => r.map (·.2)))

/-- MTRAY `.cfg` (R252): a good configuration, or none. -/
def trayConf (p : Packet) : Option Tray :=
  let y : Tray :=
    { tbase := p.lane 0 % 2 ^ 24, rowb := p.lane 1 % 2 ^ 17, tslot := fld (p.lane 2) 11 8, thr := fld (p.lane 2) 7 0, timer := p.lane 3
      tsc := p.lane 4 % 2 ^ 24, scb := p.lane 5 % 2 ^ 9 }
  if fld (p.lane 2) 31 12 ≠ 0 then none
  else if y.thr = 0 then some {}
  else if y.tbase % 64 = 0 ∧ 64 ≤ y.rowb ∧ y.rowb ≤ 65536 ∧ y.rowb % 64 = 0 ∧ y.thr ≤ 128 ∧ y.scb ≤ 256
      ∧ y.tbase + 256 * y.rowb ≤ wsSize ∧ y.tsc + 256 * y.scb ≤ wsSize then some y
  else none

def Tray.holdsRows (y : Tray) : Bool := !y.s0.rows.isEmpty || !y.s1.rows.isEmpty

/-- The stored header of a row's tag and SEQ, the oldest first (R434). -/
def takeHdr (t : Tile) (tag : Tag) (s : BitVec 26) : Option (BitVec 256) × Tile :=
  let mine := fun h : BitVec 256 => (bare h).tag == tag && (bare h).seq == s
  (t.hdrs.find? mine, { t with hdrs := removeFirst mine t.hdrs })

/-- MTRAY `.push` (R253, R434). Lanes 2 and 3 are required only where SCB is not 0, which the tile knows and the node that fires does not: the packet is sent, and an
invalid lane raises ILLOP at the tile, against R243's word that no packet is sent (DESIGN CHOICE, log 83). -/
def pushRow (d : Dev) (isl : Isle) (p : Packet) : Except Fail Dev :=
  let t := d.tile isl.tileNo
  let y := (t.trays[p.trayNo]?).getD {}
  if y.thr = 0 then .error (islandFail 0)
  else if y.scb ≠ 0 ∧ !lanesOk p.l [2, 3] then .error ⟨.illop, 0, 0⟩
  else match taskRead d isl p.cid (p.pair 0) y.rowb with
    | .error e => .error e
    | .ok data => match (if y.scb = 0 then Except.ok [] else taskRead d isl p.cid (p.pair 2) y.scb) with
      | .error e => .error e
      | .ok sc =>
        let (h, t) := takeHdr t p.tag p.outSeq
        let tag : RowTag := ⟨p.tag, p.outSeq, p.poi, h, false⟩
        let d := (taskSawAll d isl p.cid 4 [(p.pair 0, y.rowb), (p.pair 2, y.scb)]).2
        .ok (putRow (d.modTile isl.tileNo fun _ => t) isl.tileNo p.trayNo tag data sc)

/-! ### MCONV (R266 to R268) -/

/-- The descriptor of MCONV. -/
structure ConvDesc where
  xva : Nat
  xsva : Nat
  ova : Nat
  osva : Nat
  bva : Nat
  woff : Nat
  wsoff : Nat
  h : Nat
  w : Nat
  oh : Nat
  ow : Nat
  cin : Nat
  cout : Nat
  fh : Nat
  fw : Nat
  sh : Nat
  sw : Nat
  pt : Nat
  pl : Nat
  flags : Nat
  osc : Nat
  p0 : Nat
  m : Nat
  scope : Nat
  resv : Nat
  deriving DecidableEq, Repr

def convDesc (v : Nat) : ConvDesc :=
  let at_ := fun o n : Nat => fld v (8 * (o + n) - 1) (8 * o)
  { xva := at_ 0 8, xsva := at_ 8 8, ova := at_ 0x10 8, osva := at_ 0x18 8, bva := at_ 0x20 8, woff := at_ 0x28 4, wsoff := at_ 0x2C 4
    h := at_ 0x30 2, w := at_ 0x32 2, oh := at_ 0x34 2, ow := at_ 0x36 2, cin := at_ 0x38 2, cout := at_ 0x3A 2, fh := at_ 0x3C 1, fw := at_ 0x3D 1
    sh := at_ 0x3E 1, sw := at_ 0x3F 1, pt := at_ 0x40 1, pl := at_ 0x41 1, flags := at_ 0x42 1, osc := at_ 0x43 1, p0 := at_ 0x44 4, m := at_ 0x48 2
    scope := at_ 0x4A 1, resv := at_ 0x4B 0x35 }

def ConvDesc.k (c : ConvDesc) : Nat := c.fh * c.fw * c.cin

/-- The limits of R266. CIN 0, a multiple of 32 by the letter, would make K 0: it is taken as a broken limit (DESIGN CHOICE, log 83). -/
def ConvDesc.ok (c : ConvDesc) : Bool :=
  c.xva % 4 == 0 && c.ova % 4 == 0 && c.bva % 4 == 0 && c.woff % 4 == 0
  && [c.h, c.w, c.oh, c.ow, c.cin].all (· != 0) && c.cin % 32 == 0 && [32, 64, 96, 128].contains c.cout
  && [c.fh, c.fw].all (fun x => decide (1 ≤ x) && decide (x ≤ 8)) && [c.sh, c.sw].all (fun x => decide (1 ≤ x) && decide (x ≤ 4))
  && decide (c.pt < c.fh) && decide (c.pl < c.fw) && fld c.flags 7 3 == 0 && decide (1 ≤ c.m) && decide (c.m ≤ 128)
  && decide (c.p0 + c.m ≤ c.oh * c.ow) && decide (c.scope ≤ 4) && c.resv == 0 && decide (c.k ≤ 65536)
  && decide (c.woff + c.cout * c.k ≤ wsSize) && decide (c.wsoff + c.cout * c.k / 32 ≤ wsSize)

/-- The input pixel of output pixel `q` under filter tap `t`; none in the padding (R267). -/
def ConvDesc.pixel (c : ConvDesc) (q t : Nat) : Option Nat :=
  let y : Int := (q / c.ow * c.sh : Nat) - (c.pt : Int) + (t / c.fw : Nat)
  let x : Int := (q % c.ow * c.sw : Nat) - (c.pl : Int) + (t % c.fw : Nat)
  if 0 ≤ y ∧ y < c.h ∧ 0 ≤ x ∧ x < c.w then some (y.toNat * c.w + x.toNat) else none

/-- A row of the implicit A: elements and scale codes, tap by tap. -/
def convRow (d : Dev) (isl : Isle) (cid : Nat) (c : ConvDesc) (q : Nat) : List RByte × List RByte :=
  let taps := (List.range (c.fh * c.fw)).map (c.pixel q)
  (taps.flatMap fun t => match t with
    | some px => memBytes d isl cid (c.xva + px * c.cin) c.cin
    | none => List.replicate c.cin (.ok (0, false)),
   taps.flatMap fun t => match t with
    | some px => memBytes d isl cid (c.xsva + px * (c.cin / 32)) (c.cin / 32)
    | none => List.replicate (c.cin / 32) (.ok (127, false)))

/-- What a convolution reads of memory: the pixels and scale bytes of its taps, and its bias. -/
def convReads (c : ConvDesc) : List (Nat × Nat) :=
  let px := ((List.range c.m).flatMap fun p => (List.range (c.fh * c.fw)).filterMap (c.pixel (c.p0 + p))).dedup
  px.flatMap (fun x => [(c.xva + x * c.cin, c.cin), (c.xsva + x * (c.cin / 32), c.cin / 32)]) ++ (if c.bva = 0 then [] else [(c.bva, 4 * c.cout)])

/-- `mconv_out` up to the quantisation: one output before its block (R268). -/
def convAct (ftz relu : Bool) (bias : Option Nat) (acc : Nat) : XR × Counts :=
  let a := decodeFp fp32 acc
  let (y, k) := match bias with
    | none => (a, Counts.zero)
    | some b =>
      let (v, k1) := scaledIn ftz (decodeFp fp32 b) 0 fp32
      let (r, k2) := roundTo ftz (XR.add .rne a v) fp32 .rne
      (decodeFp fp32 r, k1.add k2)
  (if relu && !y.isNan && y.neg? then XR.zero false else y, k)

/-- A block of 32 outputs: its scale code and element bytes (R268). -/
def convBlock (ftz osrc : Bool) (osc : Nat) (v : List XR) : Nat × List Nat × Counts :=
  if osrc then
    let r := v.map fun x => quantMxint8 x ((osc : Int) - 127) .rne (some 0) 16
    (osc, r.map (fun x => patOf x.1 8), Counts.sum (r.map (·.2)))
  else
    let ((c, _), k) := computeScale .mxint8 v
    let (es, k') := quantBlock ftz .mxint8 v c 0 .rne (List.replicate 32 (some 0)) 16
    (c, es, k.add k')

/-- The outputs of one pixel: elements, scale codes and counts. -/
def convPixel (ftz : Bool) (c : ConvDesc) (bias : Option (List Nat)) (b : HBank) (p : Nat) : List Nat × List Nat × Counts :=
  let ys := (List.range c.cout).map fun o => convAct ftz (bitAt c.flags 0) (bias.map fun l => (l[o]?).getD 0) (b.cell (cellIx p o))
  let bl := (chunks 32 (c.cout / 32) (ys.map (·.1))).map (convBlock ftz (bitAt c.flags 1) c.osc)
  (bl.flatMap (·.2.1), bl.map (·.1), (Counts.sum (ys.map (·.2))).add (Counts.sum (bl.map (·.2.2))))

/-- The convolution of a checked descriptor: the bank, then the output runs; a fault leaves what R264 allows. -/
def runConv (ch : Chain) (c : ConvDesc) (d : Dev) : Except (Fail × Dev) (List (Nat × List (Byte × Bool)) × Dev) :=
  let t := ch.tile d
  let bank := fld c.flags 2 2
  let ra := (List.range c.m).map fun p => convRow d ch.isl ch.cid c (c.p0 + p)
  let as := ra.map fun r => hRow ch.ftz 12 c.k r.1 r.2 false
  let rb := (List.range c.cout).map fun o =>
    (storeBytes d ch.cid (t.wsRead (c.woff + o * c.k) c.k), storeBytes d ch.cid (t.wsRead (c.wsoff + o * (c.k / 32)) (c.k / 32)))
  let bs := rb.map fun r => hRow ch.ftz 12 c.k r.1 r.2 false
  let bad := (ra ++ rb).findSome? fun r => firstFail (r.1 ++ r.2)
  let (b0, d) := rewide false t.b1 (t.bank bank) d
  let stop := fun ix n : Nat => if bad.isSome then (Config.freeBits 17 (d.tick + ix)).toNat % (n + 1) else n
  let d := if bad.isSome then { d with tick := d.tick + 16384 } else d
  let (b, k) := runCells ch.ftz 32 c.k .f32 false as bs stop b0
  let b := { b with m := c.m, n := c.cout, fmt := .f32, rows := [] }
  let d := storeBank ch bank false b d
  let d := ch.modTile d fun t => tileCount t ((Counts.sum ((as ++ bs).map (·.counts))).add k)
  match bad with
  | some f => .error (f, d)
  | none =>
    match (if c.bva = 0 then Except.ok none else (taskRead d ch.isl ch.cid c.bva (4 * c.cout)).map some) with
    | .error f => .error (f, d)
    | .ok bias =>
      let bw := bias.map fun l => (chunks 4 c.cout l).map numOf
      let bp := (bias.map fun l => l.any (·.2)).getD false
      let px := (List.range c.m).map (convPixel ch.ftz c bw b)
      let d := ch.modTile d fun t => tileTick (tileCount t (Counts.sum (px.map (·.2.2)))) 5
      .ok ((indexed px).flatMap fun (p, x) =>
        let poi := bp || (List.range c.cout).any fun o => b.poison.contains (cellIx p o)
        let bytes := fun l : List Nat => l.map fun v => (BitVec.ofNat 8 v, poi)
        [(c.ova + (c.p0 + p) * c.cout, bytes x.1), (c.osva + (c.p0 + p) * (c.cout / 32), bytes x.2.1)], d)

/-! ### Steps of the tile -/

/-- The operation's effect, for an instruction that runs no chain: it completes, waits for its writes, or faults. A VA or a stride of MDRAIN `.mem` that is no
multiple of 4 raises ISLANDF as a short stride does: R258 gives no consequence (DESIGN CHOICE, log 83). -/
def hearthWork (d : Dev) (isl : Isle) (t : Task) (p : Packet) : Dev :=
  let c := packetChain isl p
  let tile := c.tile d
  match p.instr with
  | .mtaskDef _ => finishTask (writeSlot d isl p) isl { t with out := p.done }
  | .mzero _ => finishTask (zeroBanks c p.lit d) isl { t with out := p.done }
  | .mdrainTok _ =>
    let e := p.lane 0 % 16
    let b := drained (tile.bank (fld p.lit 17 17))
    let df := fld p.lit 19 18
    (match tile.routes.find? e with
     | some r => if !drainOk (some r) b.fmt b.n df then failTask d isl t (islandFail e)
                 else (match drainFrom c r df b (t.num.headD 0) d with
                   | (none, d) => finishTask d isl { t with out := p.done }
                   | (some i, d) => putTask d isl { t with num := [i] })
     | none => failTask d isl t (islandFail e))
  | .mdrainMem _ =>
    let b := drained (tile.bank (fld p.lit 17 17))
    let df := fld p.lit 19 18
    let w := drainW b.fmt df / 8
    if (df ≠ 0 ∧ b.fmt ≠ .f32) ∨ p.pair 0 % 4 ≠ 0 ∨ p.lane 2 % 4 ≠ 0 ∨ p.lane 2 < 16 * ((b.n + 15) / 16) * w then failTask d isl t (islandFail 0)
    else
      let (runs, k) := memRows p.ftz b df (p.pair 0) (p.lane 2)
      let d := c.modTile d fun x => tileCount x k
      (match taskWrites d isl p.cid 4 runs with
       | .ok (ws, d) => afterWork d isl t ws (scopeOf (fld p.lit 22 20)) p.done
       | .error (f, d) => failTask d isl t f)
  | .mdrainRoute _ =>
    let (st, d) := routeWrite d isl p
    finishTask d isl { t with out := p.dataDone .data [st] }
  | .mwload _ =>
    let n := p.lane 3
    let off := p.lane 2
    if p.pair 0 % 64 ≠ 0 ∨ off % 64 ≠ 0 ∨ n % 64 ≠ 0 ∨ off % wsSize + n > wsSize then failTask d isl t (islandFail 0)
    else (match taskRead d isl p.cid (p.pair 0) n with
      | .ok bs =>
        let d := (taskSaw d isl p.cid 4 (p.pair 0) n).2
        finishTask (c.modTile d fun x => x.wsWrite (off % wsSize) bs) isl { t with out := p.done }
      | .error f => failTask d isl t f)
  | .mtrayCfg _ =>
    let held := ((tile.trays[p.trayNo]?).map Tray.holdsRows).getD false
    (match trayConf p with
     | some y => if held then failTask d isl t (islandFail 0) else finishTask (modTray d isl.tileNo p.trayNo fun _ => y) isl { t with out := p.done }
     | none => failTask d isl t (islandFail 0))
  | .mtrayPush _ => (match pushRow d isl p with
    | .ok d => finishTask d isl { t with out := p.done }
    | .error f => failTask d isl t f)
  | .mscale _ => finishTask (writeExt d isl p) isl { t with out := p.done }
  -- every row that an earlier operation drained has left its gateway (R249, R261)
  | .mwait _ => if (tasksBefore d isl t.id).isEmpty && (d.chan isl).results.isEmpty then finishTask d isl { t with out := p.done } else d
  | .mstat _ =>
    let d' := if bitAt p.lit 15 then d else c.modTile d fun x => { x with counts := List.replicate 8 0 }
    let pay := (tile.counts.map Lane.some ++ List.replicate p.lanes Lane.none).take p.lanes
    finishTask d' isl { t with out := p.result false (packetTok p .stat pay) p.a ++ p.result true p.compTok p.b }
  | .mconv _ => (match taskRead d isl p.cid (p.pair 0) 128 with
    | .error f => failTask d isl t f
    | .ok bs =>
      let cd := convDesc (numOf bs)
      if !cd.ok then failTask d isl t (islandFail 0)
      else
      let (rs, d) := taskSawAll d isl p.cid 4 ((p.pair 0, 128) :: convReads cd)
      match runConv c cd d with
        | .error (f, d) => failTask d isl t f
        | .ok (runs, d) => match taskWrites d isl p.cid 4 runs with
          | .ok (ws, d) => afterWork d isl t (rs ++ ws) (scopeOf cd.scope) p.done
          | .error (f, d) => failTask d isl t f)
  | _ => d

/-- The context that holds a tile has a load that runs. -/
def tileRuns (d : Dev) (t : Tile) : Bool :=
  match t.cid with
  | some c => (let g := d.graph c; (g.st == .resident || g.st == .parked) && g.ending.isNone)
  | none => false

/-- A tile accepts a packet when it has carried out what it accepted before; a push waits for room, and a side that is full or due fires first
(R239, R253, R254). -/
def tileAccepts (d : Dev) (isl : Isle) (p : Packet) : Bool :=
  let t := d.tile isl.tileNo
  (d.chan isl).tasks.all (fun u => decide (2 ≤ u.phase)) && !(tileRuns d t && t.trays.any Tray.ripe)
  && (match p.instr with
      | .mtrayPush _ => (match t.trays[p.trayNo]? with | some y => y.thr == 0 || y.hasRoom | none => true)
      | _ => true)

/-- HEARTH_CHAIN_COMPLETE: the chain of a packet, of a fired side, or of a flush goes on by one task, and completes with its last; its completion token
leaves once its rows have (R249, R254). A flush of a side that holds no row completes at once. -/
def execHearthChainComplete (s : State) : Out :=
  lift (awaitWay fun d =>
    match d.occ with
    | .task isl id =>
      match getTask d isl id with
      | none => d
      | some t =>
        if isl.kind != .hearth || t.phase != 0 then d else
        let tile := d.tile isl.tileNo
        let d := { d with opRound := match t.pk with | some p => p.round | none => (d.graph (tile.cid.getD 0)).islRound }
        match t.kind, t.pk with
        | .fire k _ _ _, _ => if tasksHeld d (tile.cid.getD 0) then d else chainStep d isl t ((((tile.trays[k]?).map (·.tslot))).getD 0)
        | .packet, some p =>
          if tasksHeld d p.cid then d else
          (match p.instr with
           | .mtaskRun _ => chainStep (if t.num.isEmpty then writeSlot d isl p else d) isl t p.slot
           | .mtaskGo _ => chainStep d isl t p.slot
           | .mtrayFlush _ =>
             let y := (tile.trays[p.trayNo]?).getD {}
             if y.filling.rows.isEmpty then finishTask d isl { t with out := p.done }
             else if y.other.firing then d
             else putTask (startFire d isl.tileNo p.trayNo false) isl { t with kind := .fire p.trayNo y.fill true y.filling.rows[0]? }
           | _ => d)
        | _, _ => d
    | _ => d) s

/-- A tile may begin to fire a side: a context holds it whose load runs, nothing accepted is still to be carried out, and the other side is
free. -/
def mayFire (d : Dev) (tile : Nat) (y : Tray) : Bool :=
  tileRuns d (d.tile tile) && (d.chan (tileIsle tile)).tasks.all (fun u => decide (2 ≤ u.phase)) && !y.other.firing && !y.filling.rows.isEmpty
def beginFire (d : Dev) (tile k : Nat) (byThr : Bool) : Dev :=
  let y := ((d.tile tile).trays[k]?).getD {}
  let (id, d) := freshId (startFire d tile k byThr)
  d.modChan (tileIsle tile) fun c =>
    { c with tasks := c.tasks ++ [freshTask id (.fire k y.fill (!byThr) y.filling.rows[0]?)] }

/-- TRAY_FIRE: the filling side has reached THR, or was due while the other side was not free (R254). -/
def execTrayFire (s : State) : Out :=
  lift (fun d =>
    match d.occ with
    | .tray tile k =>
      match (d.tile tile).trays[k]? with
      | some y =>
        let full := decide (y.thr ≤ y.filling.rows.length)
        if y.thr != 0 && (full || y.filling.due) && mayFire d tile y then beginFire d tile k full else d
      | none => d
    | _ => d) s

/-- TRAY_TIMER_EXPIRY: D resident cycles have passed since the first row, and the side has not reached THR in the cycle in which the timer ran out: it fires, or
stays due for TRAY_FIRE while the other side is not free (R254). -/
def execTrayTimerExpiry (s : State) : Out :=
  lift (fun d =>
    match d.occ with
    | .tray tile k =>
      match (d.tile tile).trays[k]? with
      | some y =>
        if y.filling.left != some 0 || !y.filling.due || decide (y.thr ≤ y.filling.rows.length) then d
        else if mayFire d tile y then beginFire d tile k false
        else modTray d tile k fun y => y.setSide y.fill { y.filling with left := none }
      | none => d
    | _ => d) s

end Sys2Proof.Machine
end

