-- ==== Sys2Proof/Machine/Experts.lean ====
section
/-! DEFINITION. What Sifters and Racks do: gate weights (R278), credits (R430), dispatch (R279), overflow queues (R436, R437), manifests,
contributions and commits (R282, R438 to R440). -/

namespace Sys2Proof.Machine

/-! ### Gate weights (R278) -/

/-- A power of an interval. -/
def ivPow (p : Nat) (e : Iv) : Nat → Iv
  | 0 => (2 ^ p, 2 ^ p)
  | k + 1 => ivMul p (ivPow p e k) e

/-- `exp(−n/d)` rounded to FP32; below e^−110 every value rounds alike. -/
def expNeg (ftz : Bool) (n d : Nat) : Nat × Counts :=
  if n = 0 then roundTo ftz (XR.ofInt 1) fp32 .rne
  else
    let (n, d) := if n > 110 * d then (110, 1) else (n, d)
    let a := (n + d - 1) / d
    roundEnclosed ftz fp32 false (fun p => ivDiv p (ivExp p (ivOf p (a * d - n) d)) (ivPow p (ivExp p (2 ^ p, 2 ^ p)) a)) precisions

/-- `round_to(exp(s − m), f32, rne)`. -/
def expDiff (ftz : Bool) (s m : XR) : Nat × Counts :=
  match XR.add .rne s m.negate with
  | .fin _ n d => expNeg ftz n d
  | .inf _ => roundTo ftz (.zero false) fp32 .rne
  | .nan g => roundTo ftz (.nan g) fp32 .rne

/-- `gate_weights` over the chosen scores, as FP32 codes, with the counts made. -/
def gateWeights (ftz renorm : Bool) (s : List XR) : List Nat × Counts :=
  let m := (s[0]?).getD (.zero false)
  let e : List (XR × Counts) :=
    if renorm then s.map fun x => (x, .zero)
    else s.map fun x =>
      if m.isInf && !m.neg? then (if x.isInf && !x.neg? then (XR.ofInt 1, .zero) else (.zero false, .zero))
      else let r := expDiff ftz x m; (decodeFp fp32 r.1, r.2)
  let t := (e.drop 1).foldl (fun (acc : XR × Counts) x => let r := addRoundedFp ftz acc.1 x.1 fp32 .rne; (decodeFp fp32 r.1, acc.2.add r.2))
    (((e[0]?).map (·.1)).getD (.zero false), .zero)
  let w := e.map fun x =>
    if t.1.isZero || t.1.isNan || t.1.isInf then roundTo ftz (.fin false 1 (max 1 s.length)) fp32 .rne else roundTo ftz (XR.div x.1 t.1) fp32 .rne
  (w.map (·.1), ((Counts.sum (e.map (·.2))).add t.2).add (Counts.sum (w.map (·.2))))

/-- Ranks: the experts whose score is no NaN, by score descending and then number ascending. -/
def rankScores (s : List XR) : List Nat :=
  (sortBy (fun a b : Nat × XR => b.2.lt a.2 || (b.2.eq a.2 && decide (a.1 < b.1))) ((indexed s).filter fun x => !x.2.isNan)).map (·.1)

/-! ### Credits (R430) -/

def crinit (d : Dev) : Nat := let v := fld d.rt.sfctl.toNat 8 0; if v = 0 then 1 else min v 256

/-- The credits of a Sifter that count at the cycle `now`: those that arrived in it do not count yet (R430). -/
def Sifter.settle (s : Sifter) (now : Nat) : Sifter :=
  { s with
    credits := (s.late.filter fun e => decide (e.2.2 < now)).foldl (fun (t : Tab Credit) e => match t.find? e.1 with | some c => t.set e.1 { c with n := c.n + e.2.1 } | none => t) s.credits
    late := s.late.filter fun e => !decide (e.2.2 < now) }

/-- The credit count of a path, in a cache that has an entry for it: a new entry, and one evicted where the cache is full, but none of those in use;
none where none may be evicted. -/
def creditEntry (d : Dev) (inUse : List Nat) (t : Tab Credit) (path : Nat) : Option (Nat × Tab Credit) :=
  match t.find? path with
  | some c => some (c.n, t)
  | none =>
    let new : Credit := ⟨crinit d, crinit d⟩
    if t.length < 1024 then some (new.n, t.set path new)
    else match List.find? (fun e => e.2.n == e.2.init && !inUse.contains e.1) t with
      | some e => some (new.n, (Tab.del t e.1).set path new)
      | none => none

/-- Paths of the trays of a directory entry's group. -/
def groupPaths (e : Nat) : List Nat := (List.range (dirG e)).map fun s => trayPath (dirPkg e) (dirDie e) (dirTile0 e + s) (dirTray e)

/-- Credits of a group: the cache with an entry for each tray, and whether every one holds a credit; none where an entry cannot be made. -/
def groupCredits (d : Dev) (t : Tab Credit) (e : Nat) : Option (Bool × Tab Credit) :=
  (groupPaths e).foldl (fun (acc : Option (Bool × Tab Credit)) p =>
    acc.bind fun (b, t) => (creditEntry d (groupPaths e) t p).map fun (n, t) => (b && decide (0 < n), t)) (some (true, t))

def takeCredit (t : Tab Credit) (p : Nat) : Tab Credit :=
  match t.find? p with | some c => t.set p { c with n := c.n - 1 } | none => t

/-! ### Overflow queues (R436, R437) -/

/-- A queue of a Sifter: the address of its descriptor, BASE, LOG2N, PROD, CONS. -/
structure OvQueue where
  at_ : Nat
  base : Nat
  log : Nat
  prod : Nat
  cons : Nat
  deriving DecidableEq, Repr

def readMod (d : Dev) (a n : Nat) : Nat := natOfBytes (bytesBy d.mem (fun w => w.at .mod) a n)

/-- The queue `q` of a Sifter's context; none where the table is not valid or the descriptor names no queue. The table is the one that SFQTB named when the
Sifter was bound: a later write is for queues opened after it (R442, log 27). -/
def ovQueue (d : Dev) (cid unit q : Nat) : Option OvQueue :=
  let r := (d.sifter unit).qtb.toNat
  if !bitAt r 0 then none
  else
    let region := readMod d (fld r 51 10 * 2 ^ 10 + 8 * cid) 8
    let at_ := homeKey d (region + 8192 * unit + 32 * q)
    let lg := readMod d (at_ + 8) 4
    if lg < 4 ∨ lg > 20 then none else some ⟨at_, readMod d at_ 8, lg, readMod d (at_ + 16) 8, readMod d (at_ + 24) 8⟩

def OvQueue.used (q : OvQueue) : Nat := (q.prod + 2 ^ 64 - q.cons) % 2 ^ 64
def OvQueue.entry (d : Dev) (q : OvQueue) (i : Nat) : Nat := homeKey d (q.base + 576 * (i % 2 ^ q.log))

/-- A write of a Sifter performed at MOD, in elements of 16 bytes (R312). -/
def putMod (d : Dev) (cid : Nat) (isl : Isle) (a : Nat) (bs : List Byte) : Dev :=
  let ks := (List.range bs.length).map fun k => some (a + k)
  (chunksOf 16 0 ks).foldl (fun d c =>
    (applyHome d cid (d.taskParty isl) c.2.1 ((bs.drop c.1).take c.2.2) [] (endsLine (ks.map fun k => (k, false)) c.2.1 c.2.2) (some .mod)).2) d

/-- Messages enter a queue, or none where it has too few free entries. -/
def enqueue (d : Dev) (cid : Nat) (isl : Isle) (q : Nat) (ms : List EMsg) : Option Dev :=
  match ovQueue d cid isl.unitNo q with
  | none => none
  | some v =>
    if 2 ^ v.log < v.used + ms.length then none
    else
      let d := (indexed ms).foldl (fun d (k, m) =>
        putMod d cid isl (OvQueue.entry d v (v.prod + k)) (EMsg.image { m with hdr := hdrSet m.hdr 90 90 1 })) d
      some (putMod d cid isl (v.at_ + 16) (bytesOf (v.prod + ms.length) 8))

/-- One credit of a path is taken: of those counted, or of those that arrived in this cycle. -/
def takeAny (p : Nat) (n : Nat) (t : Tab Credit) (s : Sifter) : Sifter :=
  if 0 < n then { s with credits := takeCredit t p }
  else
    match firstIdx (fun e : Nat × Nat × Nat => e.1 == p && decide (0 < e.2.1)) s.late with
    | some k => { s with credits := t, late := modNth (fun e => (e.1, e.2.1 - 1, e.2.2)) k s.late }
    | none => { s with credits := t }

/-- The head of a queue is sent where its tray has a credit; the CREDIT that calls for the scan counts (R437). -/
def scanQueue (cid : Nat) (isl : Isle) (d : Dev) (q : Nat) : Dev :=
  match ovQueue d cid isl.unitNo q with
  | none => d
  | some v =>
    if v.used = 0 then d
    else
      let m := emsgOfImage (bytesBy d.mem (fun w => w.at .mod) (OvQueue.entry d v v.cons) 576)
      match creditEntry d [] (d.sifter isl.unitNo).credits m.path with
      | some (n, t) =>
        if n = 0 ∧ (d.sifter isl.unitNo).late.all (fun e => e.1 != m.path || e.2.1 == 0) then d
        else
          let d := d.modSifter isl.unitNo (takeAny m.path n t)
          sendE (putMod d cid isl (v.at_ + 24) (bytesOf (v.cons + 1) 8)) isl (m.tileEnd d) m
      | none => d

/-! ### Dispatch (R279) -/

/-- The row of a ROUTE on its way: rank `i` has an EXPID, a directory entry (0 where it is not valid) and a weight. -/
structure RouteRow where
  kk : Nat
  rdie : Nat
  rix : Nat
  ranks : List (Nat × Nat × Nat)
  deriving DecidableEq, Repr

def RouteRow.code (r : RouteRow) : List Nat := [r.kk, r.rdie, r.rix] ++ r.ranks.flatMap fun x => [x.1, x.2.1, x.2.2]
def RouteRow.of (l : List Nat) : RouteRow :=
  ⟨(l[0]?).getD 0, (l[1]?).getD 0, (l[2]?).getD 0,
   (chunks 3 ((l.length - 3) / 3) (l.drop 3)).map fun x => ((x[0]?).getD 0, (x[1]?).getD 0, (x[2]?).getD 0)⟩

/-- Fields of every message of a row. -/
def rowHdr (d : Dev) (isl : Isle) (p : Packet) (r : RouteRow) : List (Nat × Nat × Nat) :=
  hdrRow p.tag p.seq ++ [(173, 164, d.pkg), (163, 162, r.rdie), (161, 161, r.rix), (85, 70, (d.ctx p.cid).jobid), (69, 60, d.pkg), (59, 58, isl.die),
    (57, 57, isl.ix)]

/-- The messages of an expert's group (R279). -/
def groupMsgs (d : Dev) (isl : Isle) (p : Packet) (r : RouteRow) (kidx x e w try_ : Nat) : List EMsg :=
  (List.range (dirG e)).map fun s =>
    ⟨hdrOf (rowHdr d isl p r ++ [(251, 236, x), (160, 158, kidx), (157, 154, s), (153, 151, fld e 7 5), (150, 149, try_), (148, 148, boolNat p.poi),
      (147, 146, dirRes e), (145, 143, widOf p.l.length), (142, 111, w), (110, 101, dirPkg e), (100, 99, dirDie e), (98, 93, dirTile0 e + s),
      (92, 91, dirTray e)]), p.l⟩

/-- Send to a group whose trays hold credits. -/
def sendGroup (d : Dev) (isl : Isle) (t : Tab Credit) (e : Nat) (ms : List EMsg) : Dev :=
  let d := d.modSifter isl.unitNo fun s => { s with credits := (groupPaths e).foldl takeCredit t }
  ms.foldl (fun d m => sendE d isl (m.tileEnd d) m) d

def sendNull (d : Dev) (isl : Isle) (p : Packet) (r : RouteRow) (kidx x : Nat) : Dev :=
  let m := bare (hdrOf (rowHdr d isl p r ++ [(255, 252, 2), (251, 236, x), (160, 158, kidx)]))
  sendE d isl (m.rackEnd d) m

/-- REROUTE: the first hop that is valid and holds credit; none where the credit cache has no entry to give. -/
def tryHops (d : Dev) (isl : Isle) (p : Packet) (r : RouteRow) (kidx x w : Nat) : List Nat → Option Dev
  | [] => some (sendNull d isl p r kidx x)
  | h :: hs =>
    match r.ranks[r.kk - 1 + h]? with
    | some (x', e', _) =>
      if e' = 0 then tryHops d isl p r kidx x w hs
      else match groupCredits d (d.sifter isl.unitNo).credits e' with
        | none => none
        | some (true, t) => some (sendGroup d isl t e' (groupMsgs d isl p r kidx x' e' w h))
        | some (false, t) => tryHops (d.modSifter isl.unitNo fun s => { s with credits := t }) isl p r kidx x w hs
    | none => tryHops d isl p r kidx x w hs

/-- One rank's dispatch, by its credits and its expert's policy. -/
def dispatchOne (isl : Isle) (p : Packet) (r : RouteRow) (d : Dev) (kidx : Nat) : Option Dev :=
  match r.ranks[kidx]? with
  | none => some d
  | some (x, e, w) =>
    let ms := groupMsgs d isl p r kidx x e w 0
    match groupCredits d (d.sifter isl.unitNo).credits e with
    | none => none
    | some (true, t) => some (sendGroup d isl t e ms)
    | some (false, t) =>
      let d := d.modSifter isl.unitNo fun s => { s with credits := t }
      match dirPol e with
      | 1 => tryHops d isl p r kidx x w [1, 2]
      | 2 => some ((enqueue d p.cid isl (dirQnum e) ms).getD (sendNull d isl p r kidx x))
      | _ => some (sendNull d isl p r kidx x)

/-- Every rank's dispatch; none where the row must wait for a credit entry. -/
def dispatchRow (isl : Isle) (p : Packet) (r : RouteRow) (d : Dev) : Option Dev :=
  (List.range r.kk).foldl (fun (acc : Option Dev) k => acc.bind fun d => dispatchOne isl p r d k) (some d)

/-! ### ROUTE up to its manifest (R278, R279) -/

/-- The Rack of a route control token; none where the token or the Rack does not do. -/
def routeRack (d : Dev) (p : Packet) : Option Isle :=
  match lane32? p.c 0, lane32? p.c 1 with
  | some a, some b =>
    if a ≥ 2 ^ 11 ∨ b ≥ 2 ^ 16 then none
    else match ((d.graph p.cid).load.bind fun l => l.gws[fld a 4 0]?) with
      | some g =>
        if g.kind == .rack && decide (fld a 10 5 < g.count) then (g.isles[fld a 10 5]?).bind fun i => if (d.rack i.unitNo).cfg.isSome then some i else none
        else none
      | none => none
  | _, _ => none

/-- The scores, as exact values with the counts of `scaled_in`. -/
def routeScores (d : Dev) (isl : Isle) (p : Packet) : Except Fail (List XR × Counts) :=
  let lit := p.lit
  let e := fld lit 26 17 + 1
  let gf := fld lit 16 15
  let f := if gf % 2 = 1 then fbf16 else fp32
  let bs := f.w / 8
  let val := fun v : Nat => scaledIn p.ftz (decodeFp f v) 0 fp32
  if gf ≥ 2 then
    let va := (lane64? p.r 0).getD 0
    if va % bs ≠ 0 then .error (islandFail 1)
    else match taskRead d isl p.cid va (e * bs) with
      | .error x => .error x
      | .ok l => let r := (chunks bs e l).map fun c => val (numOf c); .ok (r.map (·.1), Counts.sum (r.map (·.2)))
  else
    let fm : Fmt := if gf = 1 then .bf16x2 else .f32
    let r := ((elems fm p.r).take e).map fun v => match v with | some v => val v | none => (XR.nan false, Counts.zero)
    .ok (r.map (·.1), Counts.sum (r.map (·.2)))

/-- EXPIDs of the ranks that a row may use: its kk, and two hops. -/
def routeExperts (p : Packet) (s : List XR) : Nat × List Nat :=
  let rank := rankScores s
  let kk := min (fld p.lit 13 11 + 1) rank.length
  let base := (lane32? p.c 1).getD 0
  (kk, (rank.take (kk + 2)).map fun j => base + j)

/-- A directory entry as the Sifter's cache holds it: none where it is not there; 0 for an EXPID that the directory does not hold. -/
def cachedDir (d : Dev) (cid unit x : Nat) : Option Nat :=
  if x < (d.hold cid).dirCount then ((d.sifter unit).dir.find? x).map (·.toNat) else some 0

/-- Ranks whose entries the row needs: those chosen, and the hops where a chosen one reroutes. -/
def neededRanks (d : Dev) (cid unit kk : Nat) (xs : List Nat) : List Nat :=
  let chosen := xs.take kk
  if chosen.any (fun x => match cachedDir d cid unit x with | some e => dirPol e == 1 | none => true) then xs else chosen

/-- A ROUTE looks its row up and sends its manifest; it waits for a directory read, and faults where an entry will not do. -/
def routeStart (d : Dev) (isl : Isle) (t : Task) (p : Packet) : Dev :=
  match routeRack d p with
  | none => failTask d isl t (islandFail 2)
  | some rk =>
    match routeScores d isl p with
    | .error f => failTask d isl t f
    | .ok (s, k1) =>
      let (kk, xs) := routeExperts p s
      let u := isl.unitNo
      if (neededRanks d p.cid u kk xs).any (fun x => (cachedDir d p.cid u x).isNone) then d
      else
        let es := xs.map fun x => (cachedDir d p.cid u x).getD 0
        if (es.take kk).any (fun e => !dirOk e) then failTask d isl t (islandFail 3)
        else
          let sc := ((rankScores s).take kk).map fun j => (s[j]?).getD (.zero false)
          let (w, k2) := gateWeights p.ftz (bitAt p.lit 14) sc
          let r : RouteRow := ⟨kk, rk.die, rk.ix, (indexed xs).map fun (i, x) =>
            let e := (es[i]?).getD 0
            (x, if dirOk e then e else 0, (w[i]?).getD 0)⟩
          let d := addCounts d p.span (k1.add k2)
          let m := bare (hdrOf (rowHdr d isl p r ++ [(255, 252, 3), (89, 86, kk)]))
          let d := putTask d isl { t with phase := 1, num := r.code }
          sendE (tock d) isl (.isle rk) m

/-- The route record (R280). -/
def routeRecord (r : RouteRow) : List Nat :=
  r.kk :: (List.range ((r.kk + 1) / 2)).map fun i =>
    let x := fun k : Nat => if k < r.kk then ((r.ranks[k]?).map (·.1)).getD 0 else 0
    x (2 * i) + x (2 * i + 1) * 2 ^ 16

/-- ROUTEs that a Sifter works on: the rows of its dispatch buffer (R424). -/
def routesOf (d : Dev) (isl : Isle) : Nat :=
  ((d.chan isl).tasks.filter fun t => match t.pk with | some p => (match p.instr with | .route _ => true | _ => false) | none => false).length

/-- A row whose manifest the Rack has taken is dispatched; the record and the completion token leave, and popularity counts rise. -/
def routeFinish (d : Dev) (isl : Isle) (t : Task) (p : Packet) : Dev :=
  let r := RouteRow.of t.num
  match dispatchRow isl p r (d.modSifter isl.unitNo (·.settle d.now.toNat)) with
  | none => d
  | some d =>
    let d := d.modSifter isl.unitNo fun s =>
      { s with pop := (r.ranks.take r.kk).foldl (fun (m : Tab Nat) x => m.set x.1 (min 0xFFFF (m.getD x.1 0 + 1))) s.pop }
    finishTask d isl { t with out := p.dataDone .data (routeRecord r) }

/-! ### The Rack (R282, R438 to R440) -/

def KState.done (k : KState) : Bool := k.isNull || (match k.g with | some g => decide (g ≤ k.n) | none => false)

def freshK : KState := {}

/-- Contribution-store slots that the live manifests reserve (R439), and those in use. -/
def Rack.reserved (r : Rack) : Nat := (r.mans.map fun m => 16 * m.kk).sum
def Rack.stored (r : Rack) : Nat := (r.mans.map fun m => (m.ks.map fun k => k.got.length).sum).sum

/-- RKSPB.V as the Rack's binding found it. -/
def Rack.spv (r : Rack) : Bool := r.spb.getLsbD 0

/-- What a Rack answers to a manifest: none while it must wait; refused, or taken. -/
def takesManifest (r : Rack) (m : EMsg) : Option Bool :=
  if seqPrecedes m.seq r.x || r.mans.any (·.seq == m.seq) then some false
  else if seqAfter r.x m.seq > 4095 then none
  else if !r.spv && r.reserved + 16 * m.kk > 32768 then none
  else some true

def modMan (r : Rack) (m : EMsg) (f : Manifest → Manifest) : Rack :=
  { r with mans := r.mans.map fun x => if x.tag == m.tag && x.seq == m.seq then f x else x }

def bump (r : Rack) (k n : Nat) : Rack := { r with counts := modNth (fun v => sat32 (v + n)) k r.counts }

/-- Where the lanes of a contribution lie in a Rack's spill region: 512 bytes for each SEQ of the window, KIDX and slice (DESIGN CHOICE, log 27). -/
def spillKey (d : Dev) (r : Rack) (m : EMsg) : Nat :=
  homeKey d (fld r.spb.toNat 51 28 * 2 ^ 28 + 512 * (((m.seq.toNat % 4096) * 8 + m.kidx) * 16 + m.sl))

/-- Element `e` of a contribution, where present. -/
def contribEl (m : EMsg) (e : Nat) : Option XR :=
  if m.cf then
    let l := laneOf m.lanes (e / 2)
    if l.ok then some (decodeFp fbf16 (fld l.nat (16 * (e % 2) + 15) (16 * (e % 2)))) else none
  else (lane32? m.lanes e).map (decodeFp fp32)

/-- One contribution is folded into the first `n` elements of an accumulator with its weight (R282): the elements used, and the counts made. -/
def foldMsg (ftz : Bool) (n : Nat) (w : XR) (acc : List (Option Nat)) (m : EMsg) : List (Option Nat) × Counts :=
  let els := (List.range n).map fun e =>
    let a := (acc[e]?).getD none
    match contribEl m e with
    | none => (a, Counts.zero)
    | some y =>
      let (v, k) := scaledIn ftz y 0 fp32
      let (r, k') := roundTo ftz (XR.add .rne (decodeFp fp32 (a.getD (fp32.signBit true))) (XR.mul w v)) fp32 .rne
      (some r, k.add k')
  (els.map (·.1), Counts.sum (els.map (·.2)))

/-- A complete KIDX is folded: its weight is scaled once, then its contributions follow in slice order (R282, R438). -/
def foldKidx (ftz : Bool) (n : Nat) (acc : List (Option Nat)) (k : KState) (ms : List (Nat × EMsg)) : List (Option Nat) × Counts :=
  if k.isNull then (acc, .zero)
  else
    let (w, k0) := scaledIn ftz (decodeFp fp32 k.wgt) 0 fp32
    ((sortBy (fun a b : Nat × EMsg => decide (a.1 < b.1)) ms).map (·.2)).foldl
      (fun (x : List (Option Nat) × Counts) m => let r := foldMsg ftz n w x.1 m; (r.1, x.2.add r.2)) (acc, k0)

/-- Contributions of a KIDX in the spill region are read back: their lanes as memory holds them, and whether one is poisoned (R439). -/
def readSpilled (d : Dev) (i : Isle) (r : Rack) (k : KState) : List (Nat × EMsg) × Bool :=
  let rs := k.spilled.map fun e =>
    let x := readEl d.mem (.isle i 0) (spillKey d r e.2) 512
    ((e.1, { e.2 with lanes := (indexed e.2.lanes).map fun (j, l) => ⟨BitVec.ofNat 32 (natOfBytes ((x.1.drop (4 * j)).take 4)), l.ok⟩ }), x.2.1)
  (rs.map (·.1), rs.any (·.2))

/-- The FTZ that folds a row (DESIGN CHOICE, log 42): as the first page of the load holds it at the moment of the fold. -/
def rackFtz (d : Dev) (r : Rack) : Bool := loadFtz d (r.cid.getD 0)

/-- Each complete KIDX of a row is folded once every lower one is, which frees its slots (R438). -/
def foldReady (i : Isle) (m : EMsg) : Nat → Dev → Dev
  | 0, d => d
  | n + 1, d =>
    let r := d.rack i.unitNo
    match (r.mans.find? fun x => x.tag == m.tag && x.seq == m.seq) with
    | none => d
    | some x => match x.ks[x.folded]? with
      | none => d
      | some k =>
        if !k.done then d
        else
          let (back, poi) := readSpilled d i r k
          let (acc, c) := foldKidx (rackFtz d r) ((r.cfg.map (·.n)).getD 0) x.acc k (k.got ++ back)
          foldReady i m n (d.modRack i.unitNo fun r =>
            modMan (bump (bump (bump r 5 c.nan) 6 c.ovf) 7 c.flush) m fun y =>
              { y with folded := y.folded + 1, acc, ks := modNth (fun k => { k with got := [], spilled := [], poi := k.poi || poi }) y.folded y.ks })

/-- A contribution is kept until it can be folded: in a slot of the contribution store, or, where the store is full, in the spill region (R439). -/
def keepContrib (d : Dev) (i : Isle) (m : EMsg) (k : KState) : Dev :=
  let r := d.rack i.unitNo
  let spill := r.spv && decide (32768 ≤ r.stored)
  let d := if spill then writeRun d (.isle i 0) (spillKey d r m) ((List.range 128).flatMap fun j => bytesOf (laneOf m.lanes j).nat 4) else d
  let k' : KState := { k with g := some (k.g.getD m.g), n := k.n + 1, poi := k.poi || m.poi, wgt := if k.n = 0 then m.wgt else k.wgt }
  let k' := if spill then { k' with spilled := k'.spilled ++ [(m.sl, { m with lanes := m.lanes.map fun l => ⟨0, l.ok⟩ })] } else { k' with got := k'.got ++ [(m.sl, m)] }
  d.modRack i.unitNo fun r => modMan r m fun y => { y with ks := modNth (fun _ => k') m.kidx y.ks }

/-- A contribution or a null contribution reaches a Rack (R282, R438). -/
def contribute (d : Dev) (i : Isle) (m : EMsg) : Dev :=
  let miss := fun d : Dev => d.modRack i.unitNo (bump · 2 1)
  match (d.rack i.unitNo).mans.find? fun x => x.tag == m.tag && x.seq == m.seq with
  | none => miss d
  | some x =>
    match x.ks[m.kidx]? with
    | none => miss d
    | some k =>
      let setK := fun (k' : KState) (d : Dev) => d.modRack i.unitNo fun r => modMan r m fun y => { y with ks := modNth (fun _ => k') m.kidx y.ks }
      let repeated := m.mk_ == 1 && (k.got ++ k.spilled).any (·.1 == m.sl)
      if k.done || repeated then miss (setK { k with bad := true } d)
      else
        let d := if m.mk_ = 2 then miss (setK { k with isNull := true } d) else (keepContrib d i m k).modRack i.unitNo (bump · 1 1)
        let d := if k.n = 0 then d.modRack i.unitNo fun r => bump (bump r 3 m.try_) 4 (boolNat m.qd) else d
        foldReady i m 8 d

/-- Flags of a row: a bit for each null KIDX and for each that was offered too much. -/
def rowFlags (m : Manifest) : Nat := ((indexed m.ks).map fun (i, k) => if k.isNull || k.bad then 2 ^ i else 0).sum

/-- The payload of a committed row, by OF and N, in `lanes` lanes: an element that no contribution has used is +0.0 (R282). -/
def rowPayload (ftz : Bool) (c : RackCfg) (lanes : Nat) (m : Manifest) : Payload × Counts :=
  let els := (List.range c.n).map fun e =>
    let v := ((m.acc[e]?).getD none).getD 0
    if c.of = 1 then roundTo ftz (decodeFp fp32 v) fbf16 .rne else (v, Counts.zero)
  let w := if c.of = 1 then 16 else 32
  let bits := ((indexed els).map fun (j, e) => e.1 * 2 ^ (w * j)).sum
  ((List.range lanes).map fun j => ⟨BitVec.ofNat 32 (fld bits (32 * j + 31) (32 * j)), decide (j < (c.n * w + 31) / 32)⟩, Counts.sum (els.map (·.2)))

/-- The width recorded with a route entry of a Rack: above its 32 bits. -/
def rteWid (e : Nat) : Nat := e / 2 ^ 32

/-- The row at X commits: its flag token and its row enter the output buffer, and X advances (R282, R440). -/
def commitRow (d : Dev) (isl : Isle) (cid : Nat) (r : Rack) (c : RackCfg) (m : Manifest) : Dev :=
  let (id, d) := freshId d
  let (pay, k) := rowPayload (rackFtz d r) c (lanesOf (rteWid c.out)) m
  let poi := m.ks.any (·.poi)
  let tok := fun (poi : Bool) (p : Payload) (x : Dest) =>
    ({ tag := m.tag, seq := m.seq, ma := .once, poi, cls := .data, lvl := 0, payload := p, dest := x } : Token)
  let res := fun (v : Nat) (poi : Bool) (p : Payload) => (routeDest d cid v).toList.map fun x => (⟨id, cid, tok poi p x, false, true⟩ : Result)
  let flags := rowFlags m
  let fl := if flags ≠ 0 ∧ rteKind (c.flag % 2 ^ 32) = 1 then res (c.flag % 2 ^ 32) false (lanesThen (lanesOf (rteWid c.flag)) [flags, m.seq.toNat]) else []
  let d := giveResults d isl (fl ++ res (c.out % 2 ^ 32) poi pay)
  d.modRack isl.unitNo fun _ =>
    let r := bump (bump (bump (bump r 0 1) 5 k.nan) 6 k.ovf) 7 k.flush
    { r with x := r.x + 1, mans := r.mans.filter fun y => !(y.seq == m.seq) }

/-- Rows that stand in a Rack's output buffer: their tokens have not left. What COMB emits does not stand there. -/
def outRows (d : Dev) (isl : Isle) : Nat :=
  ((d.chan isl).results.filter (·.ord)).foldl (fun (l : List Nat) r => if l.contains r.task then l else r.task :: l) [] |>.length

/-! ### Where contributions go (R416) -/

/-- The Racks of a context's resident load. -/
def racksOf (d : Dev) (cid : Nat) : List Isle :=
  ((d.graph cid).load.map fun l => (l.gws.filter (·.kind == .rack)).flatMap (·.isles)).getD []

/-- The Rack that takes a contribution: the one addressed, where its context holds it; else the one of the context that has the manifest. -/
def rackFor (d : Dev) (i : Isle) (m : EMsg) : Option Isle :=
  let c := m.tag.cid.toNat
  if (d.rack i.unitNo).cid == some c then some i
  else (racksOf d c).find? fun k => (d.rack k.unitNo).mans.any fun x => x.tag == m.tag && x.seq == m.seq

/-- The context of a contribution is saved with a Rack. -/
def rackSaved (d : Dev) (m : EMsg) : Bool :=
  (((d.graph m.tag.cid.toNat).save.map fun s => !s.isles.racks.isEmpty).getD false) && (d.graph m.tag.cid.toNat).load.isNone

end Sys2Proof.Machine
end

