-- ==== Sys2Proof/Machine/ExpertRouting.lean ====
section
/-! DEFINITION. Meanings of ROUTE, EXDIR and COMB and of the steps of Sifters, Racks and a tile's arrivals (R276 to R282, R424 to R441). -/

namespace Sys2Proof.Machine

/-! ### Firings -/

/-- ROUTE: a poisoned row is routed; poisoned scores or a poisoned control token are not (R272, R278). -/
def execRoute (n : NodeRec) (s : State) : Out :=
  let poi := fun t : Option Token => (t.map (·.poi)).getD false
  lift (sendPacket (.route n) n (fun x => decide (fld x.lit 16 15 < 2) || lanesOk x.rPay [0, 1]) (fun x => poi x.o.r || poi x.o.c)) s

def execExdirBase (n : NodeRec) (s : State) : Out := engineFire (.exdirBase n) n [0, 2, 3, 4] s
def execExdirWrite (n : NodeRec) (s : State) : Out := engineFire (.exdirWrite n) n [0, 1, 4, 5, 6, 7] s
def execExdirInval (n : NodeRec) (s : State) : Out := engineFire (.exdirInval n) n [0, 1] s
def execCombCfg (n : NodeRec) (s : State) : Out := engineFire (.combCfg n) n (List.range 5) s
def execCombSync (n : NodeRec) (s : State) : Out := engineFire (.combSync n) n [] s
def execCombStat (n : NodeRec) (s : State) : Out := engineFire (.combStat n) n [] s

/-! ### EXDIR and COMB at the island -/

/-- Drop cached directory entries of a context in every Sifter. -/
def dropDir (d : Dev) (cid : Nat) (keep : Nat → Bool) : Dev :=
  { d with sifters := d.sifters.map fun e => if e.2.cid == some cid then (e.1, { e.2 with dir := e.2.dir.filter fun x => keep x.1 }) else e }

/-- EXDIR (R277). -/
def exdirWork (d : Dev) (isl : Isle) (t : Task) (p : Packet) : Dev :=
  let cid := p.lane 0 % 64
  let x := p.lane 1 % 65536
  let done := fun d => finishTask d isl { t with out := p.done }
  match p.instr with
  | .exdirBase _ =>
    if p.pair 2 % 16 ≠ 0 ∨ p.lane 4 > 65536 then failTask d isl t (islandFail 1)
    else done (dropDir (d.modHold cid fun h => { h with dirBase := BitVec.ofNat 64 (p.pair 2), dirCount := p.lane 4 }) cid fun _ => false)
  | .exdirWrite _ =>
    if x ≥ (d.hold cid).dirCount then failTask d isl t (islandFail 3)
    else done (writeDir d cid x (p.pair 4 + p.pair 6 * 2 ^ 64))
  | .exdirInval _ => done (dropDir d cid fun k => !bitAt (p.lane 1) 16 && k != x)
  | _ => d

/-- The configuration of a COMB `.cfg`, where it is a good one (R281). -/
def combConf (d : Dev) (p : Packet) : Option RackCfg :=
  let out := p.lane 0
  let flag := p.lane 1
  let of_ := p.lane 2 % 2
  let n := p.lane 3 % 65536
  match routeEntry d p.cid out, routeEntry d p.cid flag with
  | some w, some wf =>
    if rteKind out = 1 ∧ rteKind flag ≤ 1 ∧ n ≠ 0 ∧ n * (if of_ = 1 then 16 else 32) ≤ 32 * lanesOf w then
      some ⟨out + w * 2 ^ 32, flag + wf * 2 ^ 32, of_, n⟩
    else none
  | _, _ => none

/-- COMB (R281). -/
def combWork (d : Dev) (isl : Isle) (t : Task) (p : Packet) : Dev :=
  let r := d.rack isl.unitNo
  match p.instr with
  | .combCfg _ =>
    (match combConf d p with
     | some c =>
       if r.mans.isEmpty then
         finishTask (d.modRack isl.unitNo fun r => { r with cfg := some c, x := BitVec.ofNat 26 (p.lane 4) }) isl { t with out := p.done }
       else failTask d isl t (islandFail 2)
     | none => failTask d isl t (islandFail 2))
  | .combSync _ =>
    if t.phase = 0 then putTask d isl { t with phase := 1, num := r.mans.map (·.seq.toNat) }
    else if r.mans.any fun m => t.num.contains m.seq.toNat then d
    else finishTask d isl { t with out := p.done }
  | .combStat _ =>
    let d' := if bitAt p.lit 13 then d else d.modRack isl.unitNo fun r => { r with counts := List.replicate 8 0 }
    let pay := (r.counts.map Lane.some ++ List.replicate p.lanes Lane.none).take p.lanes
    finishTask d' isl { t with out := p.result false (packetTok p .stat pay) p.a ++ p.result true p.compTok p.b }
  | _ => d

/-- ROUTE at its Sifter: the manifest, and, once the Rack has taken it, the dispatch. -/
def routeWork (d : Dev) (isl : Isle) (t : Task) (p : Packet) : Dev :=
  if t.phase = 0 then (if tasksHeld d p.cid then d else routeStart d isl t p)
  else if t.phase = 3 then routeFinish d isl t p
  else d

/-! ### Steps -/

/-- EXPIDs that the waiting ROUTEs of a Sifter look up. -/
def neededDirs (d : Dev) (isl : Isle) : List Nat :=
  (d.chan isl).tasks.flatMap fun t => match t.phase, t.pk with
    | 0, some p => (match p.instr, routeScores d isl p with
      | .route _, .ok (s, _) => let (kk, xs) := routeExperts p s; neededRanks d p.cid isl.unitNo kk xs
      | _, _ => [])
    | _, _ => []

/-- A Sifter's directory cache takes an entry; a full one loses one that no waiting ROUTE looks up, so that the replacement shows nowhere (R425). -/
def fillDir (d : Dev) (isl : Isle) (f : Sifter) (x : Nat) (e : BitVec 128) : Sifter :=
  let needed := neededDirs d isl
  let kept := if f.dir.length < 4096 then f.dir else match List.find? (fun y : Nat × BitVec 128 => !needed.contains y.1) f.dir with | some y => Tab.del f.dir y.1 | none => f.dir.drop 1
  { f with dir := Tab.set kept x e }

/-- DIRECTORY_FILL: the directory read that a waiting ROUTE needs returns (R425). -/
def execDirectoryFill (s : State) : Out :=
  lift (fun d =>
    match d.occ with
    | .task isl id =>
      match (getTask d isl id).bind fun t => if t.phase = 0 then t.pk else none with
      | some p =>
        (match p.instr with
         | .route _ =>
           (match routeScores d isl p with
            | .ok (s, _) =>
              let (kk, xs) := routeExperts p s
              let u := isl.unitNo
              (match (neededRanks d p.cid u kk xs).find? fun x => (cachedDir d p.cid u x).isNone with
               | some x => d.modSifter u fun f => fillDir d isl f x (BitVec.ofNat 128 (readDir d p.cid x))
               | none => d)
            | .error _ => d)
         | _ => d)
      | none => d
    | _ => d) s

/-- The ROUTE whose manifest a message is: its row, at the Rack that it names. -/
def manifestTask (d : Dev) (m : EMsg) : Option (Isle × Task × Packet) :=
  let isl : Isle := ⟨.sifter, m.sdie, m.six⟩
  (d.chan isl).tasks.findSome? fun t => match t.pk with
    | some p => if t.phase = 1 ∧ p.tag = m.tag ∧ p.seq = m.seq ∧ (RouteRow.of t.num).rdie = m.rdie ∧ (RouteRow.of t.num).rix = m.rix then some (isl, t, p) else none
    | none => none

/-- MANIFEST_ARRIVAL: a Rack takes a manifest within its window, and the row is then dispatched; it refuses one that precedes X or repeats
a live SEQ (R282, R438, R439). -/
def execManifestArrival (s : State) : Out :=
  lift (fun d => withEmsg d 3 fun d k i m =>
    let r := d.rack i.unitNo
    match takesManifest r m, manifestTask d m with
    | some true, some (isl, t, _) =>
      let d := { d with emsgs := dropNth k d.emsgs }
      let d := d.modRack i.unitNo fun r => { r with mans := r.mans ++ [{ tag := m.tag, seq := m.seq, kk := m.kk, ks := List.replicate m.kk freshK }] }
      putTask d isl { t with phase := 3 }
    | some false, some (isl, t, _) => failTask { d with emsgs := dropNth k d.emsgs } isl t (islandFail 4)
    | some _, none => { d with emsgs := dropNth k d.emsgs }
    | none, _ => d) s

/-- A contribution's way: to the Rack that has the row, to the loader of a saved context, or to the Rack addressed, which discards it. -/
def contribStep (kind : Nat) (d : Dev) : Dev :=
  match d.occ with
  | .emsg k =>
    (match d.emsgs[k]? with
     | some e =>
       (match e.dst with
        | .ext c =>
          -- one that waits in the loader reaches the restored load
          if c < 1024 ∨ e.msg.mk_ ≠ kind || !firstOnPath d k e then d
          else if rackSaved d e.msg then d
          else
            let d := { d with emsgs := dropNth k d.emsgs }
            (match rackFor d ⟨.rack, e.msg.rdie, e.msg.rix⟩ e.msg with
             | some i => contribute d i e.msg
             | none => d)
        | .isle _ => withEmsg d kind fun d k i m =>
          if rackSaved d m then { d with emsgs := modNth (fun e => { e with dst := loaderEnd m.tag.cid.toNat }) k d.emsgs }
          else contribute { d with emsgs := dropNth k d.emsgs } ((rackFor d i m).getD i) m)
     | none => d)
  | _ => withEmsg d kind fun d _ _ _ => d

def execContribArrival (s : State) : Out := lift (contribStep 1) s
def execNullArrival (s : State) : Out := lift (contribStep 2) s

/-- The save that holds a Sifter of the package: its context. -/
def sifterSaved (d : Dev) (i : Isle) : Option Nat :=
  (List.range 64).find? fun c => ((d.graph c).save.map fun s => s.load.gws.any fun g => g.kind == .sifter && g.isles.contains i).getD false

/-- CREDIT_ARRIVAL: credits return to a tray's count, where a dispatch finds them from the next cycle on; the overflow queues are due for a scan (R430,
R437). -/
def execCreditArrival (s : State) : Out :=
  lift (fun d => withEmsg d 4 fun d k i m =>
    let d := { d with emsgs := dropNth k d.emsgs }
    let add := fun s : Sifter =>
      match s.credits.find? m.path with
      | some _ => let s := s.settle d.now.toNat; { s with late := s.late ++ [(m.path, m.crn, d.now.toNat)], scanAt := 0 }
      | none => { s with scanAt := 0 }
    match (d.sifter i.unitNo).cid, sifterSaved d i with
    | some _, _ => d.modSifter i.unitNo add
    | none, some c => d.modGraph c fun g => { g with save := g.save.map fun v =>
        let mine := fun e : Nat × Nat × Sifter => ((v.load.gws[e.1]?).bind fun w => w.isles[e.2.1]?) == some i
        { v with isles := { v.isles with sifters := v.isles.sifters.map fun e => if mine e then (e.1, e.2.1, add e.2.2) else e } } }
    | none, none => d) s

/-- OVERFLOW_QUEUE_SCAN (R437). -/
def execOverflowQueueScan (s : State) : Out :=
  lift (fun d =>
    match d.occ with
    | .isle i =>
      (match i.kind, (d.sifter i.unitNo).cid with
       | .sifter, some c =>
         if (d.sifter i.unitNo).scanAt ≤ d.now.toNat then
           let d := (List.range 256).foldl (scanQueue c i) (d.modSifter i.unitNo (·.settle d.now.toNat))
           d.modSifter i.unitNo fun s => { s with scanAt := d.now.toNat + 1024 }
         else d
       | _, _ => d)
    | _ => d) s

/-- RACK_ROW_COMMIT (R282, R440). -/
def execRackRowCommit (s : State) : Out :=
  lift (fun d =>
    match d.occ with
    | .isle i =>
      let r := d.rack i.unitNo
      (match i.kind, r.cid, r.cfg, r.mans.find? (·.seq == r.x) with
       | .rack, some c, some g, some m =>
         if m.ks.all KState.done && decide (outRows d i < 4) && (d.graph c).ending.isNone then commitRow d i c r g m else d
       | _, _, _, _ => d)
    | _ => d) s

/-! ### Rows at a tile (R432) -/

/-- A DISPATCH that the tile does not take goes back as a credit and a null contribution. -/
def bounceMsg (d : Dev) (i : Isle) (m : EMsg) : Dev :=
  let d := sendE d i (m.sifterEnd d) (creditFor m 1)
  sendE d i (m.rackEnd d) (nullFor m)

/-- The bounce rules at a tile that a context holds. -/
def bounces (d : Dev) (t : Tile) (m : EMsg) : Bool :=
  match t.cid with
  | none => true
  | some c => ((t.trays[m.tray]?).map (·.thr)).getD 0 == 0 || m.jobid != (d.ctx c).jobid

/-- The bytes of a row: lane j at 4j, zero where invalid or beyond the payload. -/
def rowBytes (n : Nat) (m : EMsg) : List (Byte × Bool) :=
  (((m.lanes.flatMap fun l : Lane => bytesOf (if l.ok then l.nat else 0) 4) ++ List.replicate n 0).take n).map fun b => (b, m.poi)

/-- A message of the inbound buffer that the tile can act on: one that bounces, or the first of a tray with room. -/
def takesInbound (d : Dev) (t : Tile) (m : EMsg) : Bool := bounces d t m || ((t.trays[m.tray]?).map Tray.hasRoom).getD false

/-- DISPATCH_ARRIVAL: a message enters the tile's inbound buffer, bounces, or waits in the loader for a saved load; a buffered one enters
its tray's filling side once the tile has carried out what it accepted before (R431, R432). -/
def execDispatchArrival (s : State) : Out :=
  lift (fun d =>
    match d.occ with
    | .isle i =>
      let n := i.tileNo
      let t := d.tile n
      if i.kind != .hearth || !(d.chan i).tasks.all (fun u => decide (2 ≤ u.phase)) then d
      else match firstIdx (takesInbound d t) t.inbound with
        | none => d
        | some k =>
          (match t.inbound[k]? with
           | none => d
           | some m =>
             let d := d.modTile n fun t => { t with inbound := dropNth k t.inbound }
             if bounces d t m then bounceMsg d i m
             else
               let y := (t.trays[m.tray]?).getD {}
               putRow d n m.tray ⟨m.tag, m.seq, m.poi, some m.hdr, true⟩ (rowBytes y.rowb m) (List.replicate y.scb (0x7F, false)))
    | _ => withEmsg d 0 fun d k i m =>
      let gone := { d with emsgs := dropNth k d.emsgs }
      let t := d.tile i.tileNo
      if i.ix ≥ 48 then bounceMsg gone i m
      else match t.cid, t.held with
        | none, some c =>
          if (d.graph c).save.any fun v => v.isles.tiles.any (·.2.2.1 == i.tileNo) then
            gone.modGraph c fun g => { g with save := g.save.map fun v =>
              { v with isles := { v.isles with tiles := v.isles.tiles.map fun e =>
                if e.2.2.1 == i.tileNo then (e.1, e.2.1, e.2.2.1, { e.2.2.2 with inbound := e.2.2.2.inbound ++ [m] }) else e } } }
          else bounceMsg gone i m
        | none, none => bounceMsg gone i m
        | some _, _ =>
          if bounces d t m then bounceMsg gone i m
          else if t.inbound.length < 64 then gone.modTile i.tileNo fun t => { t with inbound := t.inbound ++ [m] }
          else d) s

end Sys2Proof.Machine
end

