-- ==== Sys2Proof/Machine/Jpeg.lean ====
section
/-! DEFINITION. ITU-T T.81 codestreams as PDEC reads them (R287): baseline, extended sequential Huffman and progressive Huffman frames of
8-bit samples, and the exact inverse DCT. What is not of that kind is unsupported; what breaks T.81 is malformed. T.81 itself is no part of
the spec's text: log 47. -/

namespace Sys2Proof.Machine

inductive PicErr where
  | unsupported
  | malformed
  deriving DecidableEq, Repr

abbrev Pic (α : Type) := Except PicErr α

def badPic {α : Type} : Pic α := .error .malformed
def demand (b : Bool) : Pic Unit := if b then .ok () else badPic

/-- A decoded picture: size, and for each component its samples in raster order. -/
structure Picture where
  w : Nat
  h : Nat
  planes : List (Array Nat)
  deriving DecidableEq, Repr

/-! ### Bits and Huffman codes (T.81 annexes C and F) -/

/-- Unread bytes, and how many bits of the first are read. -/
structure BitSrc where
  bytes : List Nat
  used : Nat
  deriving DecidableEq, Repr

def BitSrc.bit : BitSrc → Pic (Nat × BitSrc)
  | ⟨[], _⟩ => badPic
  | ⟨b :: r, k⟩ => .ok (b / 2 ^ (7 - k) % 2, if k = 7 then ⟨r, 0⟩ else ⟨b :: r, k + 1⟩)

def BitSrc.bits (s : BitSrc) : Nat → Pic (Nat × BitSrc)
  | 0 => .ok (0, s)
  | n + 1 => do
    let (x, s) ← s.bits n
    let (b, s) ← s.bit
    return (2 * x + b, s)

/-- A code table: each code with a leading 1, and its symbol. -/
abbrev Huff := List (Nat × Nat)

/-- Canonical codes of the lengths from `len` on; none where they do not fit, or reach the code of all ones. -/
def huffFrom (len code : Nat) : List Nat → List Nat → Option Huff
  | [], _ => some []
  | n :: ns, vals =>
    if code + n > 2 ^ len - 1 then none
    else (huffFrom (len + 1) (2 * (code + n)) ns (vals.drop n)).map fun t => (indexed (vals.take n)).map (fun (k, v) => (2 ^ len + code + k, v)) ++ t

/-- The next symbol of a code table. -/
def huffSym (t : Huff) : Nat → Nat → BitSrc → Pic (Nat × BitSrc)
  | 0, _, _ => badPic
  | n + 1, c, s => do
    let (b, s) ← s.bit
    match List.find? (fun (e : Nat × Nat) => e.1 == 2 * c + b) t with
    | some e => return (e.2, s)
    | none => huffSym t n (2 * c + b) s

def symbol (t : Huff) (s : BitSrc) : Pic (Nat × BitSrc) := huffSym t 16 1 s

/-- EXTEND of `t` received bits. -/
def extendBits (v t : Nat) : Int := if t = 0 then 0 else if v < 2 ^ (t - 1) then (v : Int) - 2 ^ t + 1 else v

/-- A signed number of `t` bits. -/
def signed (t : Nat) (s : BitSrc) : Pic (Int × BitSrc) := do
  let (v, s) ← s.bits t
  return (extendBits v t, s)

/-! ### Blocks: 64 coefficients in zigzag order (T.81 F.2, G.2) -/

def coef (b : List Int) (k : Nat) : Int := (b[k]?).getD 0

/-- AC coefficients of a sequential block from index `k` on. -/
def acSeq (t : Huff) : Nat → Nat → List Int → BitSrc → Pic (List Int × BitSrc)
  | 0, _, b, s => .ok (b, s)
  | n + 1, k, b, s =>
    if k > 63 then .ok (b, s)
    else do
      let (rs, s) ← symbol t s
      let r := rs / 16
      let z := rs % 16
      if z = 0 then
        if r = 15 then (if k + 16 > 63 then badPic else acSeq t n (k + 16) b s)
        else if r = 0 then return (b, s) else badPic
      else
        demand (z ≤ 10 && k + r ≤ 63)
        let (v, s) ← signed z s
        acSeq t n (k + r + 1) (b.set (k + r) v) s

/-- First scan of a band up to `se` at point transform `al`: the block and the end-of-band run that follows it. -/
def acFirst (t : Huff) (al se : Nat) : Nat → Nat → List Int → BitSrc → Pic (List Int × Nat × BitSrc)
  | 0, _, b, s => .ok (b, 0, s)
  | n + 1, k, b, s =>
    if k > se then .ok (b, 0, s)
    else do
      let (rs, s) ← symbol t s
      let r := rs / 16
      let z := rs % 16
      if z = 0 then
        if r = 15 then (if k + 16 > se then badPic else acFirst t al se n (k + 16) b s)
        else
          let (e, s) ← s.bits r
          return (b, 2 ^ r + e - 1, s)
      else
        demand (z ≤ 10 && k + r ≤ se)
        let (v, s) ← signed z s
        acFirst t al se n (k + r + 1) (b.set (k + r) (v * 2 ^ al)) s

/-- A correction bit of a coefficient that is not zero. -/
def correctBit (al k : Nat) (b : List Int) (s : BitSrc) : Pic (List Int × BitSrc) := do
  let (x, s) ← s.bit
  let c := coef b k
  return (if x = 1 then b.set k (if c < 0 then c - 2 ^ al else c + 2 ^ al) else b, s)

/-- Correction bits of the coefficients from `k` to `se`. -/
def correctRest (al se : Nat) : Nat → Nat → List Int → BitSrc → Pic (List Int × BitSrc)
  | 0, _, b, s => .ok (b, s)
  | n + 1, k, b, s =>
    if k > se then .ok (b, s)
    else if coef b k = 0 then correctRest al se n (k + 1) b s
    else do
      let (b, s) ← correctBit al k b s
      correctRest al se n (k + 1) b s

/-- Skip `r` zero coefficients, correcting those that are not: the next zero coefficient. -/
def skipZeros (al se : Nat) : Nat → Nat → Nat → List Int → BitSrc → Pic (Nat × List Int × BitSrc)
  | 0, k, _, b, s => .ok (k, b, s)
  | n + 1, k, r, b, s =>
    if k > se then .ok (k, b, s)
    else if coef b k = 0 then (if r = 0 then .ok (k, b, s) else skipZeros al se n (k + 1) (r - 1) b s)
    else do
      let (b, s) ← correctBit al k b s
      skipZeros al se n (k + 1) r b s

/-- Refinement scan of a band. -/
def acRefine (t : Huff) (al se : Nat) : Nat → Nat → List Int → BitSrc → Pic (List Int × Nat × BitSrc)
  | 0, _, b, s => .ok (b, 0, s)
  | n + 1, k, b, s =>
    if k > se then .ok (b, 0, s)
    else do
      let (rs, s) ← symbol t s
      let r := rs / 16
      let z := rs % 16
      demand (z ≤ 1)
      if z = 0 && r < 15 then
        let (e, s) ← s.bits r
        let (b, s) ← correctRest al se 64 k b s
        return (b, 2 ^ r + e - 1, s)
      else
        let (x, s) ← s.bits z
        let (k, b, s) ← skipZeros al se 64 k r b s
        demand (k ≤ se)
        acRefine t al se n (k + 1) (if z = 1 then b.set k (if x = 1 then 2 ^ al else -2 ^ al) else b) s

/-! ### Frames and scans -/

structure JComp where
  id : Nat
  h : Nat
  v : Nat
  tq : Nat
  deriving DecidableEq, Repr

structure JFrame where
  prog : Bool
  w : Nat
  h : Nat
  comps : List JComp
  deriving DecidableEq, Repr

def JFrame.hmax (f : JFrame) : Nat := (f.comps.map (·.h)).foldl max 1
def JFrame.vmax (f : JFrame) : Nat := (f.comps.map (·.v)).foldl max 1
/-- MCUs across and down of an interleaved scan, and blocks across that a component keeps. -/
def JFrame.mcuW (f : JFrame) : Nat := ceilDiv f.w (8 * f.hmax)
def JFrame.mcuH (f : JFrame) : Nat := ceilDiv f.h (8 * f.vmax)
def JFrame.stride (f : JFrame) (c : JComp) : Nat := f.mcuW * c.h

/-- A component of a scan: its place in the frame, and its DC and AC code tables. -/
structure ScanComp where
  ix : Nat
  comp : JComp
  dc : Huff
  ac : Huff
  deriving DecidableEq, Repr

structure Scan where
  comps : List ScanComp
  ss : Nat
  se : Nat
  ah : Nat
  al : Nat
  deriving DecidableEq, Repr

/-- The blocks of each MCU: place in the scan, and block number of the component. -/
def scanMcus (f : JFrame) (sc : Scan) : List (List (Nat × Nat)) :=
  match sc.comps with
  | [c] =>
    let bw := ceilDiv (ceilDiv (f.w * c.comp.h) f.hmax) 8
    let bh := ceilDiv (ceilDiv (f.h * c.comp.v) f.vmax) 8
    (List.range bh).flatMap fun y => (List.range bw).map fun x => [(0, y * f.stride c.comp + x)]
  | cs =>
    (List.range f.mcuH).flatMap fun my => (List.range f.mcuW).map fun mx =>
      (indexed cs).flatMap fun (j, c) => (List.range c.comp.v).flatMap fun v => (List.range c.comp.h).map fun h =>
        (j, (my * c.comp.v + v) * f.stride c.comp + mx * c.comp.h + h)

/-- Coefficients of every component, block by block. -/
abbrev Coefs := List (Array (List Int))

/-- What an interval of a scan carries from block to block: coefficients, DC predictions, the end-of-band run, unread bits. -/
structure RunSt where
  co : Coefs
  pred : List Int
  eob : Nat
  src : BitSrc

def getBlock (co : Coefs) (i k : Nat) : List Int := (((co[i]?).getD #[])[k]?).getD (List.replicate 64 0)
def setBlock (co : Coefs) (i k : Nat) (b : List Int) : Coefs := modNth (fun a => a.setIfInBounds k b) i co

/-- The DC difference of a block: the new prediction. -/
def dcNext (t : Huff) (pred : Int) (s : BitSrc) : Pic (Int × BitSrc) := do
  let (z, s) ← symbol t s
  demand (z ≤ 11)
  let (v, s) ← signed z s
  return (pred + v, s)

/-- One block of a scan. -/
def scanBlock (prog : Bool) (sc : Scan) (st : RunSt) (jb : Nat × Nat) : Pic RunSt :=
  match sc.comps[jb.1]? with
  | none => badPic
  | some c => do
    let b := getBlock st.co c.ix jb.2
    let put := fun (b : List Int) (st : RunSt) => { st with co := setBlock st.co c.ix jb.2 b }
    let pred := (st.pred[jb.1]?).getD 0
    if !prog then
      let (d, s) ← dcNext c.dc pred st.src
      let (b, s) ← acSeq c.ac 64 1 (b.set 0 d) s
      return put b { st with pred := st.pred.set jb.1 d, src := s }
    else if sc.ss = 0 then
      if sc.ah = 0 then
        let (d, s) ← dcNext c.dc pred st.src
        return put (b.set 0 (d * 2 ^ sc.al)) { st with pred := st.pred.set jb.1 d, src := s }
      else
        let (x, s) ← st.src.bit
        return put (b.set 0 (coef b 0 + x * 2 ^ sc.al)) { st with src := s }
    else if sc.ah = 0 then
      if st.eob > 0 then return { st with eob := st.eob - 1 }
      else
        let (b, e, s) ← acFirst c.ac sc.al sc.se 64 sc.ss b st.src
        return put b { st with eob := e, src := s }
    else if st.eob > 0 then
      let (b, s) ← correctRest sc.al sc.se 64 sc.ss b st.src
      return put b { st with eob := st.eob - 1, src := s }
    else
      let (b, e, s) ← acRefine c.ac sc.al sc.se 64 sc.ss b st.src
      return put b { st with eob := e, src := s }

/-- A restart interval: its MCUs from its bytes, of which less than one may be left. -/
def scanInterval (prog : Bool) (sc : Scan) (co : Coefs) (mcus : List (List (Nat × Nat))) (bytes : List Nat) : Pic Coefs := do
  let st ← mcus.flatten.foldlM (scanBlock prog sc) ⟨co, sc.comps.map fun _ => 0, 0, ⟨bytes, 0⟩⟩
  demand (st.eob == 0 && (st.src.bytes.isEmpty || (st.src.bytes.length == 1 && st.src.used != 0)))
  return st.co

/-- The entropy-coded bytes up to the next marker that is no restart: each interval without its stuffing, with the restart that ends it; and what follows. -/
def splitEcs : Nat → List Nat → List Nat → Pic (List (List Nat × Option Nat) × List Nat)
  | 0, _, _ => badPic
  | _, _, [] => badPic
  | n + 1, cur, a :: l =>
    if a ≠ 0xFF then splitEcs n (a :: cur) l
    else match l with
      | [] => badPic
      | b :: r =>
        if b = 0 then splitEcs n (0xFF :: cur) r
        else if b = 0xFF then splitEcs n cur l
        else if 0xD0 ≤ b ∧ b ≤ 0xD7 then (splitEcs n [] r).map fun x => ((cur.reverse, some (b - 0xD0)) :: x.1, x.2)
        else .ok ([(cur.reverse, none)], a :: l)

/-! ### Marker segments (T.81 annex B) -/

structure JState where
  qt : Tab (List Nat) := []
  huff : Tab Huff := []
  ri : Nat := 0
  frame : Option JFrame := none
  co : Coefs := []
  /-- For each component: the quantisation table of its first scan, and the point transform each coefficient has reached. -/
  quant : Tab (List Nat) := []
  level : List (List (Option Nat)) := []
  scans : Nat := 0

def word (l : List Nat) (o : Nat) : Nat := (l[o]?).getD 0 * 256 + (l[o + 1]?).getD 0
def byteAt (l : List Nat) (o : Nat) : Nat := (l[o]?).getD 0

/-- DQT. -/
def readDqt : Nat → List Nat → JState → Pic JState
  | 0, _, _ => badPic
  | _, [], j => .ok j
  | n + 1, p :: l, j => do
    demand (p / 16 = 0 && p % 16 ≤ 3 && l.length ≥ 64 && (l.take 64).all (· ≠ 0))
    readDqt n (l.drop 64) { j with qt := j.qt.set (p % 16) (l.take 64) }

/-- DHT. -/
def readDht : Nat → List Nat → JState → Pic JState
  | 0, _, _ => badPic
  | _, [], j => .ok j
  | n + 1, p :: l, j => do
    let m := (l.take 16).sum
    demand (p / 16 ≤ 1 && p % 16 ≤ 3 && l.length ≥ 16 + m)
    match huffFrom 1 0 (l.take 16) ((l.drop 16).take m) with
    | none => badPic
    | some t => readDht n (l.drop (16 + m)) { j with huff := j.huff.set (p / 16 * 4 + p % 16) t }

/-- SOF0, SOF1, SOF2. -/
def readSof (m : Nat) (l : List Nat) (j : JState) : Pic JState := do
  demand (j.frame.isNone && l.length ≥ 6)
  if byteAt l 0 = 12 then .error .unsupported
  let nf := byteAt l 5
  demand (byteAt l 0 == 8 && word l 3 != 0 && nf != 0 && l.length == 6 + 3 * nf)
  if nf > 4 then .error .unsupported
  let comps := (chunks 3 nf (l.drop 6)).map fun c => (⟨byteAt c 0, byteAt c 1 / 16, byteAt c 1 % 16, byteAt c 2⟩ : JComp)
  demand (comps.all (fun c => decide (1 ≤ c.h ∧ c.h ≤ 4 ∧ 1 ≤ c.v ∧ c.v ≤ 4 ∧ c.tq ≤ 3)) && (comps.map (·.id)).Nodup)
  return { j with frame := some ⟨m == 0xC2, word l 3, word l 1, comps⟩, level := comps.map fun _ => List.replicate 64 none }

/-- The lines that a DNL segment right after the first scan states, if one stands there. -/
def dnlAfter (rest : List Nat) : Option Nat := if byteAt rest 1 = 0xDC ∧ word rest 2 = 4 then some (word rest 4) else none

/-- The components that a scan header names, in the frame's order. -/
def scanComps (base : Bool) (j : JState) (f : JFrame) (sel : List (List Nat)) : Pic (List ScanComp) := do
  let cs ← sel.mapM fun e => match firstIdx (fun (c : JComp) => c.id == byteAt e 0) f.comps with
    | some i => match f.comps[i]? with
      | some c =>
        let td := byteAt e 1 / 16
        let ta := byteAt e 1 % 16
        if base ∧ (td > 1 ∨ ta > 1) ∨ td > 3 ∨ ta > 3 then badPic
        else .ok (⟨i, c, j.huff.getD td [], j.huff.getD (4 + ta) []⟩ : ScanComp)
      | none => badPic
    | none => badPic
  let ixs := cs.map (·.ix)
  demand (ixs == sortBy (fun a b => decide (a < b)) ixs && ixs.Nodup)
  return cs

/-- Whether the point transforms reached before a scan let it come next (T.81 G.1.1.1). -/
def scanOrder (prog : Bool) (lv : List (List (Option Nat))) (sc : Scan) : Bool :=
  sc.comps.all fun c =>
    let l := (lv[c.ix]?).getD []
    let was := if sc.ah = 0 then none else some sc.ah
    (List.range (sc.se + 1 - sc.ss)).all (fun k => (l[sc.ss + k]?).getD none == was) && (!prog || sc.ss == 0 || ((l[0]?).getD none).isSome)

/-- SOS with its entropy-coded data; what follows it. -/
def readSos (base : Bool) (l rest : List Nat) (j : JState) : Pic (JState × List Nat) :=
  match j.frame with
  | none => badPic
  | some f => do
    let ns := byteAt l 0
    demand (1 ≤ ns && ns ≤ 4 && l.length == 4 + 2 * ns)
    let cs ← scanComps base j f (chunks 2 ns (l.drop 1))
    let o := 1 + 2 * ns
    let sc : Scan := ⟨cs, byteAt l o, byteAt l (o + 1), byteAt l (o + 2) / 16, byteAt l (o + 2) % 16⟩
    demand (if f.prog then
        sc.se ≤ 63 && (if sc.ss == 0 then sc.se == 0 else sc.ss ≤ sc.se && ns == 1) && sc.al ≤ 13 && (sc.ah == 0 || sc.ah == sc.al + 1)
      else sc.ss == 0 && sc.se == 63 && sc.ah == 0 && sc.al == 0)
    demand (ns == 1 || (cs.map fun c => c.comp.h * c.comp.v).sum ≤ 10)
    demand (scanOrder f.prog j.level sc)
    let (ecs, after) ← splitEcs (rest.length + 1) [] rest
    let f := if j.scans = 0 then (match dnlAfter after with | some n => { f with h := n } | none => f) else f
    demand (f.h != 0)
    let after := if j.scans = 0 ∧ (dnlAfter after).isSome then after.drop 6 else after
    let co := if j.scans = 0 then f.comps.map (fun c => Array.replicate (f.stride c * f.mcuH * c.v) (List.replicate 64 0)) else j.co
    let quant := cs.foldl (fun (q : Tab (List Nat)) c => if (q.find? c.ix).isSome then q else match j.qt.find? c.comp.tq with | some t => q.set c.ix t | none => q) j.quant
    demand (cs.all fun c => (quant.find? c.ix).isSome)
    let mcus := scanMcus f sc
    let parts := if j.ri = 0 then [mcus] else chunks j.ri (ceilDiv mcus.length j.ri) mcus
    demand (ecs.length == parts.length && (indexed ecs).all (fun (k, e) => e.2 == (if k + 1 = ecs.length then none else some (k % 8))))
    let co ← (List.zip parts ecs).foldlM (fun co (x : List (List (Nat × Nat)) × List Nat × Option Nat) => scanInterval f.prog sc co x.1 x.2.1) co
    let level := (indexed j.level).map fun (i, lv) => if cs.any (·.ix == i) then (indexed lv).map (fun (k, x) => if sc.ss ≤ k ∧ k ≤ sc.se then some sc.al else x) else lv
    return ({ j with frame := some f, co, quant, level, scans := j.scans + 1 }, after)

/-- Segments up to EOI. `base` says that the frame is SOF0. -/
def readSegs (base : Bool) : Nat → List Nat → JState → Pic JState
  | 0, _, _ => badPic
  | n + 1, l, j =>
    match l with
    | 0xFF :: 0xFF :: r => readSegs base n (0xFF :: r) j
    | 0xFF :: m :: r => do
      if m = 0xD9 then return j
      let len := word r 0
      let body := (r.take len).drop 2
      let next := r.drop len
      if m = 0xC8 ∨ (m ≥ 0xC3 ∧ m ≤ 0xCF ∧ m ≠ 0xC4) ∨ m = 0xDE ∨ m = 0xDF then .error .unsupported
      demand (len ≥ 2 && r.length ≥ len)
      if m = 0xDB then
        let j ← readDqt 5000 body j
        readSegs base n next j
      else if m = 0xC4 then
        let j ← readDht 5000 body j
        readSegs base n next j
      else if m = 0xDD then
        demand (len == 4)
        readSegs base n next { j with ri := word body 0 }
      else if m = 0xC0 ∨ m = 0xC1 ∨ m = 0xC2 then
        let j ← readSof m body j
        readSegs (m == 0xC0) n next j
      else if m = 0xDA then
        let (j, next) ← readSos base body next j
        readSegs base n next j
      else if (m ≥ 0xE0 ∧ m ≤ 0xEF) ∨ m = 0xFE then readSegs base n next j
      else badPic
    | _ => badPic

/-! ### The exact inverse DCT (R287) -/

/-- Zigzag index of each coefficient in raster order (T.81 figure A.6). -/
def zigzagOf : List Nat :=
  [0, 1, 5, 6, 14, 15, 27, 28, 2, 4, 7, 13, 16, 26, 29, 42] ++ [3, 8, 12, 17, 25, 30, 41, 43, 9, 11, 18, 24, 31, 40, 44, 53]
  ++ [10, 19, 23, 32, 39, 45, 52, 54, 20, 22, 33, 38, 46, 51, 55, 60] ++ [21, 34, 37, 47, 50, 56, 59, 61, 35, 36, 48, 49, 57, 58, 62, 63]

/-- `cos(mπ/16)` as a sign and an index from 0 to 8; `cos(8π/16)` is 0. -/
def cosIx (m : Int) : Bool × Nat :=
  let a := (m % 32).toNat
  let a := if a > 16 then 32 - a else a
  if a > 8 then (true, 16 - a) else (false, a)

/-- Eight times the inverse DCT at (x, y), as integer multiples of `cos(kπ/16)`, k from 0 to 8: each product of cosines is half a sum of two. -/
def idctParts (b : List Int) (x y : Nat) : List Int :=
  (List.range 64).foldl (fun (acc : List Int) (i : Nat) =>
    let u : Nat := i % 8
    let v : Nat := i / 8
    let c := coef b i
    if c = 0 then acc
    else
      let p : Int := if u = 0 then 4 else (((2 * x + 1) * u : Nat) : Int)
      let q : Int := if v = 0 then 4 else (((2 * y + 1) * v : Nat) : Int)
      [cosIx (p + q), cosIx (p - q)].foldl (fun acc (e : Bool × Nat) => modNth (· + (if e.1 then -c else c)) e.2 acc) acc) (List.replicate 9 0)

/-- `cos(kπ/16)` for k from 1 to 7, enclosed. -/
def ivCos (p k : Nat) : Iv := ivSinPi p (8 - k) 16

/-- The nearest integer to an enclosed value that is no tie: `parts` over 8, plus 128. -/
def roundParts (parts : List Int) : List Nat → Int
  | [] => 0
  | p :: ps =>
    let ends := ((List.range 7).map (· + 1)).foldl (fun (acc : Int × Int) k =>
      let n := coef parts k
      let c := ivCos p k
      if n ≥ 0 then (acc.1 + n * c.1, acc.2 + n * c.2) else (acc.1 + n * c.2, acc.2 + n * c.1)) (coef parts 0 * 2 ^ p, coef parts 0 * 2 ^ p)
    let at_ := fun t : Int => (t + (128 * 8 + 4) * 2 ^ p) / (8 * 2 ^ p)
    if at_ ends.1 = at_ ends.2 then at_ ends.1 else roundParts parts ps

/-- A sample: rounded to nearest with ties to even, and clamped. A value with an irrational part is never a tie. -/
def idctSample (parts : List Int) : Nat :=
  let v : Int := if (List.range 7).all (fun k => coef parts (k + 1) = 0) then roundSigned (.fin (decide (coef parts 0 + 1024 < 0)) (coef parts 0 + 1024).natAbs 8) .rne none 16
    else roundParts parts [64, 128, 512, 2048]
  (max 0 (min 255 v)).toNat

/-- The 64 samples of a block in raster order, from its coefficients in zigzag order and its quantisation table. -/
def idctBlock (q : List Nat) (b : List Int) : List Nat :=
  let nat := zigzagOf.map fun z => coef b z * (((q[z]?).getD 0 : Nat) : Int)
  (List.range 64).map fun i => idctSample (idctParts nat (i % 8) (i / 8))

/-- A component at full resolution, by replication. -/
def planeOf (f : JFrame) (c : JComp) (q : List Nat) (co : Array (List Int)) : Array Nat :=
  let blocks := co.map fun b => (idctBlock q b).toArray
  ((List.range f.h).flatMap fun y => (List.range f.w).map fun x =>
    let cx := x * c.h / f.hmax
    let cy := y * c.v / f.vmax
    (((blocks[cy / 8 * f.stride c + cx / 8]?).getD #[])[cy % 8 * 8 + cx % 8]?).getD 0).toArray

/-- A T.81 codestream: SOI, segments, EOI. A sequential frame has every component coded once; a progressive one at least its DC. -/
def decodeJpeg (bytes : List Nat) : Pic Picture :=
  match bytes with
  | 0xFF :: 0xD8 :: l => do
    let j ← readSegs false (l.length + 1) l {}
    match j.frame with
    | none => badPic
    | some f =>
      demand (j.level.all fun lv => ((lv[0]?).getD none).isSome)
      return ⟨f.w, f.h, (indexed f.comps).map fun (i, c) => planeOf f c (j.quant.getD i []) ((j.co[i]?).getD #[])⟩
  | _ => badPic

end Sys2Proof.Machine
end

