-- ==== Sys2Proof/Machine/Fax.lean ====
section
/-! DEFINITION. ITU-T T.6 codestreams as PDEC reads them (R287): two-dimensional coding of a page of given width and height. T.6 and the run
codes of T.4 are no part of the spec's text: log 47. -/

namespace Sys2Proof.Machine

/-! ### Run codes (T.4 tables 2 and 3): each code with a leading 1 -/

def whiteTerm : List Nat :=
  [0x135, 0x47, 0x17, 0x18, 0x1b, 0x1c, 0x1e, 0x1f, 0x33, 0x34, 0x27, 0x28, 0x48, 0x43, 0x74, 0x75]
  ++ [0x6a, 0x6b, 0xa7, 0x8c, 0x88, 0x97, 0x83, 0x84, 0xa8, 0xab, 0x93, 0xa4, 0x98, 0x102, 0x103, 0x11a]
  ++ [0x11b, 0x112, 0x113, 0x114, 0x115, 0x116, 0x117, 0x128, 0x129, 0x12a, 0x12b, 0x12c, 0x12d, 0x104, 0x105, 0x10a]
  ++ [0x10b, 0x152, 0x153, 0x154, 0x155, 0x124, 0x125, 0x158, 0x159, 0x15a, 0x15b, 0x14a, 0x14b, 0x132, 0x133, 0x134]
def whiteMake : List Nat :=
  [0x3b, 0x32, 0x57, 0xb7, 0x136, 0x137, 0x164, 0x165, 0x168, 0x167, 0x2cc, 0x2cd, 0x2d2, 0x2d3, 0x2d4, 0x2d5]
  ++ [0x2d6, 0x2d7, 0x2d8, 0x2d9, 0x2da, 0x2db, 0x298, 0x299, 0x29a, 0x58, 0x29b]
def blackTerm : List Nat :=
  [0x437, 0xa, 0x7, 0x6, 0xb, 0x13, 0x12, 0x23, 0x45, 0x44, 0x84, 0x85, 0x87, 0x104, 0x107, 0x218]
  ++ [0x417, 0x418, 0x408, 0x867, 0x868, 0x86c, 0x837, 0x828, 0x817, 0x818, 0x10ca, 0x10cb, 0x10cc, 0x10cd, 0x1068, 0x1069]
  ++ [0x106a, 0x106b, 0x10d2, 0x10d3, 0x10d4, 0x10d5, 0x10d6, 0x10d7, 0x106c, 0x106d, 0x10da, 0x10db, 0x1054, 0x1055, 0x1056, 0x1057]
  ++ [0x1064, 0x1065, 0x1052, 0x1053, 0x1024, 0x1037, 0x1038, 0x1027, 0x1028, 0x1058, 0x1059, 0x102b, 0x102c, 0x105a, 0x1066, 0x1067]
def blackMake : List Nat :=
  [0x40f, 0x10c8, 0x10c9, 0x105b, 0x1033, 0x1034, 0x1035, 0x206c, 0x206d, 0x204a, 0x204b, 0x204c, 0x204d, 0x2072, 0x2073, 0x2074]
  ++ [0x2075, 0x2076, 0x2077, 0x2052, 0x2053, 0x2054, 0x2055, 0x205a, 0x205b, 0x2064, 0x2065]
def extMake : List Nat :=
  [0x808, 0x80c, 0x80d, 0x1012, 0x1013, 0x1014, 0x1015, 0x1016, 0x1017, 0x101c, 0x101d, 0x101e, 0x101f]

/-- The codes of a colour with their runs: terminating codes 0 to 63, make-up codes from 64, extended ones from 1,792. -/
def runTable (black : Bool) : Huff :=
  (indexed (if black then blackTerm else whiteTerm)).map (fun (k, c) => (c, k))
  ++ (indexed (if black then blackMake else whiteMake)).map (fun (k, c) => (c, 64 * (k + 1)))
  ++ (indexed extMake).map (fun (k, c) => (c, 1792 + 64 * k))

/-- A run: make-up codes, then a terminating code. -/
def faxRun (t : Huff) : Nat → BitSrc → Pic (Nat × BitSrc)
  | 0, _ => badPic
  | n + 1, s => do
    let (r, s) ← huffSym t 13 1 s
    if r < 64 then return (r, s)
    else
      let (q, s) ← faxRun t n s
      return (r + q, s)

/-! ### Modes (T.6 2.2) -/

inductive FaxMode where
  | pass | horiz | vert (d : Int) | ext
  deriving DecidableEq, Repr

/-- The mode that a code prefix with a leading 1 stands for. -/
def faxMode? (c : Nat) : Option FaxMode :=
  match c with
  | 0b11 => some (.vert 0)
  | 0b1011 => some (.vert 1)
  | 0b1010 => some (.vert (-1))
  | 0b1001 => some .horiz
  | 0b10001 => some .pass
  | 0b1000011 => some (.vert 2)
  | 0b1000010 => some (.vert (-2))
  | 0b10000011 => some (.vert 3)
  | 0b10000010 => some (.vert (-3))
  | 0b10000001 => some .ext
  | _ => none

def faxMode : Nat → Nat → BitSrc → Pic (FaxMode × BitSrc)
  | 0, _, _ => badPic
  | n + 1, c, s => do
    let (b, s) ← s.bit
    match faxMode? (2 * c + b) with
    | some m => return (m, s)
    | none => faxMode n (2 * c + b) s

/-! ### Lines -/

/-- The first element of the reference line from `j` on that changes to a colour other than `black`; the width where there is none. -/
def changeTo (ref : Array Bool) (w : Nat) (black : Bool) : Nat → Nat → Nat
  | 0, j => min j w
  | n + 1, j =>
    if j ≥ w then w
    else
      let at_ := (ref[j]?).getD false
      let prev := if j = 0 then false else (ref[j - 1]?).getD false
      if at_ != black && prev == black then j else changeTo ref w black n (j + 1)

/-- A coding line under way: the pixels coded, whether a0 stands before the line, and the colour. -/
structure FaxLine where
  done : Array Bool
  first : Bool
  black : Bool

def FaxLine.fill (l : FaxLine) (upTo : Nat) (black : Bool) : Array Bool := l.done ++ Array.replicate (upTo - l.done.size) black

/-- A line of `w` pixels against the reference line. -/
def faxLine (ref : Array Bool) (w : Nat) : Nat → FaxLine → BitSrc → Pic (Array Bool × BitSrc)
  | 0, _, _ => badPic
  | n + 1, l, s =>
    let a0 := l.done.size
    if a0 ≥ w then .ok (l.done, s)
    else do
      let b1 := changeTo ref w l.black (w + 1) (if l.first then 0 else a0 + 1)
      let (m, s) ← faxMode 7 1 s
      match m with
      | .pass =>
        let b2 := changeTo ref w (!l.black) (w + 1) (b1 + 1)
        faxLine ref w n { l with done := l.fill b2 l.black, first := false } s
      | .horiz =>
        let (r1, s) ← faxRun (runTable l.black) (w + 2) s
        let (r2, s) ← faxRun (runTable (!l.black)) (w + 2) s
        demand (a0 + r1 + r2 ≤ w)
        let d := l.fill (a0 + r1) l.black ++ Array.replicate r2 (!l.black)
        faxLine ref w n { l with done := d, first := false } s
      | .vert d =>
        let a1 := (b1 : Int) + d
        demand (a1 ≤ w && (if l.first then a1 ≥ 0 else a1 > a0))
        faxLine ref w n ⟨l.fill a1.toNat l.black, false, !l.black⟩ s
      | .ext =>
        let (x, _) ← s.bits 3
        if x = 7 then .error .unsupported else badPic

/-- `k` lines against the line above. -/
def faxLines (w : Nat) : Nat → Array Bool → BitSrc → Pic (List (Array Bool))
  | 0, _, _ => .ok []
  | k + 1, ref, s => do
    let (l, s) ← faxLine ref w (2 * w + 4) ⟨#[], true, false⟩ s
    let r ← faxLines w k l s
    return l :: r

/-- A T.6 page: the line above the first is white; what follows the last line is not read. -/
def decodeFax (w h : Nat) (bytes : List Nat) : Pic Picture := do
  let ls ← faxLines w h (Array.replicate w false) ⟨bytes, 0⟩
  return ⟨w, h, [(ls.flatMap fun l => l.toList.map boolNat).toArray]⟩

end Sys2Proof.Machine
end

