-- ==== Sys2Proof/Machine/Pdec.lean ====
section
/-! DEFINITION. PDEC: a codestream decoded, resized and cut into patches (R286 to R289). -/

namespace Sys2Proof.Machine

/-- A PDEC descriptor (R286). -/
structure PdecDesc where
  cva : Nat
  clen : Nat
  fax : Bool
  p : Nat
  mx : Bool
  scope : Nat
  ova : Nat
  m : Nat
  stride : Nat
  tw : Nat
  th : Nat
  mul : Nat
  add : Nat
  deriving DecidableEq, Repr

def pdecDesc (v : Nat) : Option PdecDesc :=
  let x : PdecDesc := ⟨dfld v 0 8, dfld v 8 4, dfld v 0xC 1 == 1, dfld v 0xD 1, dfld v 0xE 1 == 1, dfld v 0xF 1, dfld v 0x10 8, dfld v 0x18 4, dfld v 0x1C 4,
    dfld v 0x20 2, dfld v 0x22 2, dfld v 0x28 4, dfld v 0x2C 4⟩
  if dfld v 0xC 1 ≤ 1 ∧ dfld v 0xE 1 ≤ 1 ∧ x.clen ≠ 0 ∧ [14, 16, 28, 32].contains x.p ∧ x.scope ≤ 4 ∧ x.ova % 64 = 0 ∧ 1 ≤ x.m ∧ x.m ≤ 65536 ∧ x.stride % 64 = 0
    ∧ dfld v 0x24 4 = 0 ∧ dfld v 0x30 80 = 0 ∧ (if x.fax then x.tw ≠ 0 ∧ x.th ≠ 0 else x.tw = 0 ∧ x.th = 0)
    ∧ (decodeFp fp32 x.mul).isFin ∧ (decodeFp fp32 x.add).isFin then some x else none

/-- Bytes of a patch record of `c` components (R289). -/
def PdecDesc.record (x : PdecDesc) (c : Nat) : Nat :=
  let e := x.p * x.p * c
  if x.mx then ceilDiv e 32 * 33 else 2 * e

/-! ### Resizing (R288) -/

/-- `resize_axis` of `n0` samples to `n1`. FTZ is not applied. -/
def resizeAxis (src : Array XR) (n0 n1 : Nat) : List XR :=
  (List.range n1).map fun x =>
    let t : Int := (2 * x + 1) * n0 - n1
    let u := decodeFp fp32 (roundTo false (.fin (decide (t < 0)) t.natAbs (2 * n1)) fp32 .rne).1
    let top := XR.ofInt (n0 - 1 : Nat)
    let u := if u.ltFin (.zero false) then .zero false else if top.ltFin u then top else u
    let i0 := (u.toInt / u.den).toNat
    let i1 := min (i0 + 1) (n0 - 1)
    let a := XR.add .rne u (.fin true i0 1)
    let s0 := (src[i0]?).getD (.zero false)
    let s1 := (src[i1]?).getD (.zero false)
    decodeFp fp32 (roundTo false (XR.add .rne s0 (a.mul (XR.add .rne s1 s0.negate))) fp32 .rne).1

/-- A plane resized along its rows, then along its columns: rows of samples. -/
def resizePlane (w0 h0 w1 h1 : Nat) (pl : Array Nat) : List (Array XR) :=
  let rows := (List.range h0).map fun y => (resizeAxis ((List.range w0).map fun x => XR.ofInt ((pl[y * w0 + x]?).getD 0 : Nat)).toArray w0 w1).toArray
  let cols := (List.range w1).map fun x => (resizeAxis (rows.map fun (r : Array XR) => (r[x]?).getD (.zero false)).toArray h0 h1).toArray
  (List.range h1).map fun y => (cols.map fun (col : Array XR) => (col[y]?).getD (.zero false)).toArray

/-- The largest q from `q` down for which the patch count stays within M (R288). -/
def pdecScale (x : PdecDesc) (w0 h0 : Nat) : Nat → Option Nat
  | 0 => none
  | q + 1 =>
    let w1 := ceilDiv (w0 * (q + 1)) 256
    let h1 := ceilDiv (h0 * (q + 1)) 256
    if ceilDiv w1 x.p * ceilDiv h1 x.p ≤ x.m then some (q + 1) else pdecScale x w0 h0 q

/-! ### Patches (R289) -/

/-- Bytes of a record from its elements, and what their rounding counts. -/
def recordBytes (mx ftz : Bool) (es : List XR) : List Byte × Counts :=
  if mx then
    let blocks := chunks 32 (ceilDiv es.length 32) (es ++ List.replicate (ceilDiv es.length 32 * 32 - es.length) (XR.zero false))
    let qs := blocks.map fun b =>
      let c := computeScale .mxint8 b
      let q := quantBlock ftz .mxint8 b c.1.1 0 .rne [] 16
      (q.1, c.1.1, c.2.add q.2)
    (qs.flatMap (fun q => q.1.map (BitVec.ofNat 8)) ++ qs.map fun q => BitVec.ofNat 8 q.2.1, Counts.sum (qs.map (·.2.2)))
  else
    let rs := es.map fun e => roundTo ftz e fbf16 .rne
    (rs.flatMap fun r => bytesOf r.1 2, Counts.sum (rs.map (·.2)))

/-- The records of a picture: grid row and column, and bytes, in raster order; and what its elements count. -/
def pdecRecords (x : PdecDesc) (ftz : Bool) (pic : Picture) (q : Nat) : List (Nat × Nat × List Byte) × Counts :=
  let w1 := ceilDiv (pic.w * q) 256
  let h1 := ceilDiv (pic.h * q) 256
  let mul := decodeFp fp32 x.mul
  let add := decodeFp fp32 x.add
  let scaled := pic.planes.map fun pl => (resizePlane pic.w pic.h w1 h1 pl).map fun r => r.map fun v => roundTo ftz (XR.add .rne (v.mul mul) add) fp32 .rne
  let planes := scaled.map fun (pl : List (Array (Nat × Counts))) => (pl.map fun r => r.map fun v => decodeFp fp32 v.1).toArray
  let recs := (List.range (ceilDiv h1 x.p)).flatMap fun gr => (List.range (ceilDiv w1 x.p)).map fun gc =>
    (gr, gc, recordBytes x.mx ftz ((List.range x.p).flatMap fun y => (List.range x.p).flatMap fun c => planes.map fun (pl : Array (Array XR)) =>
      (((pl[gr * x.p + y]?).getD #[])[gc * x.p + c]?).getD (.zero false)))
  (recs.map fun r => (r.1, r.2.1, r.2.2.1),
   Counts.sum ((scaled.flatMap fun (pl : List (Array (Nat × Counts))) => pl.flatMap fun r => (r.map (·.2)).toList) ++ recs.map fun r => r.2.2.2))

/-- What a PDEC produces: the descriptor, its records and its counts, or a fault. -/
def pdecRun (d : Dev) (isl : Isle) (p : Packet) : Except Fail (PdecDesc × List (Nat × Nat × List Byte) × Counts) :=
  match taskRead d isl p.cid (p.pair 0) 128 with
  | .error f => .error f
  | .ok bs => match pdecDesc (numOf bs) with
    | none => .error (islandFail 1)
    | some x => match taskRead d isl p.cid x.cva x.clen with
      | .error f => .error f
      | .ok cs =>
        let bytes := cs.map fun b => b.1.toNat
        match (if x.fax then decodeFax x.tw x.th bytes else decodeJpeg bytes) with
        | .error .unsupported => .error (islandFail 5)
        | .error .malformed => .error (islandFail 6)
        | .ok pic =>
          if x.stride < x.record pic.planes.length then .error (islandFail 1)
          else match pdecScale x pic.w pic.h 256 with
            | none => .error (islandFail 7)
            | some q => .ok (x, pdecRecords x p.ftz pic q)

/-- Patch token `i` (R289). -/
def patchTok (p : Packet) (i gr gc va : Nat) : Token :=
  let t := packetTok p .data (lanesThen p.lanes [gr, gc, i, va % 2 ^ 32, va / 2 ^ 32])
  { t with tag := { t.tag with iter := t.tag.iter + BitVec.ofNat 16 i }, seq := t.seq + BitVec.ofNat 26 i }

/-- What follows the last patch: EOS to DSTA, then completion to DSTB. -/
def pdecEnd (p : Packet) (n : Nat) : List Result :=
  p.result true { packetTok p .control (lanesThen p.lanes [n]) with lvl := 0 } p.a ++ p.result true p.compTok p.b

/-- The task: its records are written, and each patch token waits for its own. What its rounding counts goes to the issuing span's count set (R61; the
set is the one that R291 and R450 name for other engines, DESIGN CHOICE, log 39). -/
def pdecWork (d : Dev) (isl : Isle) (t : Task) (p : Packet) : Dev :=
  if t.phase = 1 then (if t.pend.isEmpty then putTask d isl { t with phase := 2 } else d)
  else if tasksHeld d p.cid then d
  else match pdecRun d isl p with
    | .error f => failTask (tock d) isl t f
    | .ok (x, recs, k) =>
      let (rs, d) := taskSawAll d isl p.cid 16 [(p.pair 0, 128), (x.cva, x.clen)]
      let runs := (indexed recs).map fun (i, r) => ((x.ova + i * x.stride) % 2 ^ 64, clean r.2.2)
      match taskWrites d isl p.cid 16 runs with
      | .error (f, d) => failTask (tock d) isl t f
      | .ok _ =>
        let (pend, all, d) := (indexed recs).foldl (fun (acc : List (List Nat × Result) × List Nat × Dev) (r : Nat × Nat × Nat × List Byte) =>
          let va := (x.ova + r.1 * x.stride) % 2 ^ 64
          match taskWrite acc.2.2 isl p.cid 16 va (clean r.2.2.2) with
          | .ok (ws, d) =>
            (acc.1 ++ (p.result false (patchTok p r.1 r.2.1 r.2.2.1 va) p.a).map (fun k => (ws, { k with ord := true })), acc.2.1 ++ ws, d)
          | .error _ => acc) ([], [], tock d)
        putTask (addCounts d p.span k) isl { t with phase := 1, writes := rs ++ all, scope := scopeOf x.scope, pend, out := pdecEnd p recs.length }

/-! ### Meanings -/

def execPdec (n : NodeRec) (s : State) : Out := engineFire (.pdec n) n [0, 1] s

/-- PDEC_PATCH_EMIT: the next record is performed, and its token leaves (R289). -/
def execPdecPatchEmit (s : State) : Out :=
  lift (fun d => match d.occ with
    | .task isl id => (match getTask d isl id with
      | some t => (match t.pend with
        | (ws, r) :: rest =>
          if t.coll.isNone && writesDone d (.isle isl t.id) t.scope ws then giveResults (putTask d isl { t with pend := rest }) isl [r] else d
        | [] => d)
      | none => d)
    | _ => d) s

end Sys2Proof.Machine
end

