-- ==== Sys2Proof/Machine/Leaven.lean ====
section
/-! DEFINITION. What the Leaven engine's operations share: its rings (R344), its writes to page tables and the frame table, copies of lines
(R337), the busy leaves (R335), and the migrations themselves as they are asked for (R336). -/

namespace Sys2Proof.Machine

/-! ### Rings (R344) -/

/-- A ring: where its descriptor lies, BASE, LOG2N, PROD and CONS. -/
structure Ring where
  at_ : Nat
  base : Nat
  log : Nat
  prod : Nat
  cons : Nat
  deriving DecidableEq, Repr

def readHome (d : Dev) (a n : Nat) : Nat := natOfBytes (homeBytes d.mem a n)

/-- A write of Leaven, performed at once. -/
def lvPut (d : Dev) (a v n : Nat) : Dev := writeHome d .leaven a (bytesOf v n) false

def ringRaw (d : Dev) (k : Nat) : Ring :=
  let at_ := fld d.leaven.regs.frb.toNat 51 12 * 2 ^ 12 + 32 * k
  ⟨at_, readHome d at_ 8, readHome d (at_ + 8) 4, readHome d (at_ + 16) 8, readHome d (at_ + 24) 8⟩

def ringsValid (d : Dev) : Bool := bitAt d.leaven.regs.frb.toNat 0

/-- A descriptor names a ring: LOG2N from 4 to 24, and BASE a local PA aligned to 8. -/
def Ring.ok (r : Ring) : Bool := decide (4 ≤ r.log) && decide (r.log ≤ 24) && r.base % 8 == 0 && decide (r.base < 2 ^ 52)

def ringAt (d : Dev) (k : Nat) : Option Ring := let r := ringRaw d k; if ringsValid d && r.ok then some r else none

def Ring.fill (r : Ring) : Nat := (r.prod + 2 ^ 64 - r.cons) % 2 ^ 64
def Ring.entry (r : Ring) (i : Nat) : Nat := r.base + 8 * (i % 2 ^ r.log)

/-- Descriptors that name no ring are logged, once for each content. -/
def noteRings (d : Dev) : Dev :=
  if !ringsValid d then d else
  (List.range 8).foldl (fun d k =>
    let r := ringRaw d k
    let v := r.base * 2 ^ 32 + r.log
    if r.ok then { d with leaven := { d.leaven with bad := Tab.del d.leaven.bad k } }
    else if d.leaven.bad.find? k == some v then d
    else raiseEvent { d with leaven := { d.leaven with bad := d.leaven.bad.set k v } } 4 ⟨7, 9, 0, r.at_, 0⟩) d

/-- The pool of a tier and a leaf size; the pool of split tables. -/
def poolOf (tier size : Nat) : Nat := tier * 2 + (if size = 2 ^ 21 then 1 else 0)
def splitPool : Nat := 6

/-- A pool entry is good: aligned, local, and in the pool's tier. A split table may lie in any tier. -/
def goodEntry (d : Dev) (pool v : Nat) : Bool :=
  decide (v < 2 ^ 52) && v % (if pool < 6 && pool % 2 == 1 then 2 ^ 21 else 2 ^ 16) == 0
  && (let r := regionOf d v; r.isTier && (pool == splitPool || r.tier == pool / 2))

def spareOf (d : Dev) (pool : Nat) : List Nat := (d.leaven.spare.filter (·.1 == pool)).map (·.2)

/-- Bad entries at the head of a pool are discarded and logged. -/
def purge (pool : Nat) : Nat → Dev → Dev
  | 0, d => d
  | n + 1, d =>
    match ringAt d pool with
    | none => d
    | some r =>
      if r.fill = 0 then d
      else
        let v := readHome d (r.entry r.cons) 8
        if goodEntry d pool v then d
        else purge pool n (raiseEvent (lvPut d (r.at_ + 24) (r.cons + 1) 8) 4 ⟨7, 9, 0, localOf v, 0⟩)

/-- The most entries that a ring can hold. -/
def ringMost : Nat := 2 ^ 24

/-- Frames of a pool: those returned to it, and the entries of its ring. -/
def poolFill (d : Dev) (pool : Nat) : Nat :=
  (spareOf d pool).length + (match ringAt d pool with | some r => r.fill | none => 0)

/-- Bad entries at the heads of pools from which frames are about to be taken are discarded. -/
def purged (ps : List Nat) (d : Dev) : Dev := ps.foldl (fun d p => if (spareOf d p).isEmpty then purge p ringMost d else d) d

/-- One frame of a pool, as a PA of this package. -/
def popFrame (d : Dev) (pool : Nat) : Option (Nat × Dev) :=
  match spareOf d pool with
  | a :: _ => some (d.pkg * 2 ^ 52 + a, { d with leaven := { d.leaven with spare := removeFirst (fun e => e == (pool, a)) d.leaven.spare } })
  | [] =>
    let d := purge pool ringMost d
    match ringAt d pool with
    | none => none
    | some r =>
      if r.fill = 0 then none
      else some (d.pkg * 2 ^ 52 + readHome d (r.entry r.cons) 8, lvPut d (r.at_ + 24) (r.cons + 1) 8)

/-- One frame from each of a list of pools, all or none. -/
def popFrames : List Nat → Dev → Option (List Nat × Dev)
  | [], d => some ([], d)
  | p :: ps, d =>
    match popFrame d p with
    | none => none
    | some (a, d) => (popFrames ps d).map fun r => (a :: r.1, r.2)

/-- A frame goes back to its pool (R339). -/
def giveFrame (d : Dev) (pool pa : Nat) : Dev :=
  if isLocal d pa then { d with leaven := { d.leaven with spare := d.leaven.spare ++ [(pool, localOf pa)] } } else d

/-- Frames that operations under way have still to post to the release ring. -/
def owed (d : Dev) : Nat :=
  (d.leaven.migrs.filter (·.phase != .waiting)).length + (d.leaven.ops.map (·.owed)).sum

/-- The release ring is full, as one that its descriptor does not name is taken to be. -/
def ringFull (d : Dev) : Bool := match ringAt d 7 with | some r => decide (2 ^ r.log ≤ r.fill) | none => true

/-- The release ring has room for `n` more frames beside those. -/
def hasRoom (d : Dev) (n : Nat) : Bool :=
  match ringAt d 7 with
  | some r => decide (r.fill + owed d + n ≤ 2 ^ r.log)
  | none => false

/-- A frame of this package's tiers is posted to the release ring. -/
def postFrame (d : Dev) (pa : Nat) : Dev :=
  match ringAt d 7, regionPa d pa with
  | some r, some g =>
    if g.isTier then lvPut (lvPut d (r.entry r.prod) (localOf pa) 8) (r.at_ + 16) (r.prod + 1) 8 else d
  | _, _ => d

/-! ### Page tables and the frame table -/

def setState (st e : Nat) : Nat := setFld e 5 3 st
def setFrame (pa e : Nat) : Nat := setFld e 61 16 (pa / 2 ^ 16)
def setTier (t e : Nat) : Nat := setFld e 7 6 t

/-- Leaven rewrites the entry of a leaf. -/
def setLeaf (d : Dev) (l : Leaf) (f : Nat → Nat) : Dev := lvPut d (homeKey d l.pte) (f (readPte d l.pte)) 8

/-- Rewrite the entry of the leaf of a VA, where it is still a leaf of that size. -/
def setLeafAt (d : Dev) (cid va size : Nat) (f : Nat → Nat) : Dev :=
  match walk d cid va with
  | .ok l => if l.size = size then setLeaf d l f else d
  | .error _ => d

/-- Frame-table entries of the 64 KiB frames of a range of this package (R341). -/
def frameEntries (d : Dev) (pa n : Nat) : List Nat :=
  if isLocal d pa then (List.range (n / 65536)).filterMap fun k => frameEntry d (localOf pa + 65536 * k) else []

def entExp (v : Nat) : Bool := bitAt v 19

/-- A leaf with a frame that is reached from outside (R340). -/
def exported (d : Dev) (l : Leaf) : Bool := (frameEntries d l.frame l.size).any fun e => entExp (readEntry d e)

/-- A leaf that the pin table holds (R221). -/
def pinnedLeaf (d : Dev) (cid : Nat) (l : Leaf) : Bool :=
  (d.hold cid).pins.any fun p => decide (p.va < l.va + l.size) && decide (l.va < p.va + p.size)

/-- A leaf in a tier of this package. -/
def inTier (d : Dev) (l : Leaf) : Bool := match regionPa d l.frame with | some r => r.isTier | none => false

/-! ### Leaves of a range, and their operations (R294, R335) -/

/-- The leaves that overlap a range, or the VA that is not mapped. -/
def rangeLeaves (d : Dev) (cid va n : Nat) : Except Nat (List Leaf) :=
  let ls := leavesOf d cid (n / 65536) va (va + n)
  let ok := ls.filterMap fun l => match l with | .ok l => some l | .error _ => none
  if ok.length = ls.length then .ok ok
  else .error (match ok.getLast? with | some l => l.va + l.size | none => va)

/-- The checks of every request on a range: XLATF for a leaf not mapped, PERMF for one without the R right. -/
def askRange (d : Dev) (p : Packet) : Except Fail (List Leaf) :=
  match rangeLeaves d p.cid (p.pair 0) (p.pair 2) with
  | .error va => .error ⟨.xlatf, 0, va⟩
  | .ok ls => match ls.find? fun l => !pteR l.bits with
    | some l => .error ⟨.permf, 0, max l.va (p.pair 0)⟩
    | none => .ok ls

/-- A started operation acts on a leaf, one MRDUP left aside. -/
def leafBusy (d : Dev) (cid : Nat) (l : Leaf) (but : Option Nat := none) : Bool :=
  let meets := fun va n : Nat => decide (va < l.va + l.size) && decide (l.va < va + n)
  l.state == 1 || l.state == 3
  || d.leaven.migrs.any (fun m => m.cid == cid && m.phase != .waiting && meets m.va m.size)
  || d.leaven.ops.any (fun o => some o.id != but && (o.cid == cid || o.others.contains cid) && o.leaves.any fun x => meets x.1 x.2)

/-- A migration of the leaf has been asked for and has not started. -/
def leafAsked (d : Dev) (cid : Nat) (l : Leaf) : Bool :=
  d.leaven.migrs.any fun m => m.cid == cid && decide (m.va < l.va + l.size) && decide (l.va < m.va + m.size)

/-! ### Copies (R337) -/

/-- One 64-byte line is copied with its poison: each granule of the destination becomes as the source's. -/
def copyLine (d : Dev) (src dst : Nat) : Dev :=
  let bs := homeBytes d.mem src 64
  let poi := ((List.range 16).filter fun k => homePoi d.mem (src + 4 * k) 4).map fun k => dst + 4 * k
  let m := d.mem
  { d with mem := if m.wlog.isEmpty then { m with cells := setBytes m.cells dst bs, poison := setPoison m.poison dst 64 poi true }
                  else (applyEl m .leaven dst bs poi true (some .sys)).2 }

/-- A whole leaf is copied. -/
def copyLeaf (d : Dev) (src dst n : Nat) : Dev := (List.range (n / 64)).foldl (fun d k => copyLine d (src + 64 * k) (dst + 64 * k)) d

/-! ### Asking for a migration (R336) -/

/-- A migration is asked for: it waits to start. -/
def askMigr (d : Dev) (cid : Nat) (l : Leaf) (tier dst : Nat) (task : Option (Isle × Nat)) : Dev :=
  let (i, d) := freshId d
  { d with leaven := { d.leaven with migrs := d.leaven.migrs ++ [⟨i, cid, l.va, l.size, tier, l.frame, dst, l.state, 0, .waiting, 0, task⟩] } }

/-- A leaf that Leaven may move at all: in a tier of this package, of 64 KiB or 2 MiB, RES or RDUP, and not exported (R331, R335, R340). -/
def movable (d : Dev) (l : Leaf) : Bool :=
  inTier d l && decide (l.size < 2 ^ 30) && (l.state == 0 || l.state == 2) && !exported d l

/-- An automatic migration (R343, R350): it is asked for only where the leaf is free to move and the destination's pool has a frame. -/
def autoMove (d : Dev) (cid : Nat) (l : Leaf) (tier : Nat) : Dev :=
  if movable d l && l.state == 0 && !pinnedLeaf d cid l && !leafBusy d cid l && !leafAsked d cid l && pteTier l.bits != tier then
    let d := purged [poolOf tier l.size] d
    match popFrame d (poolOf tier l.size) with
    | some (a, d) => askMigr d cid l tier a none
    | none => d
  else d

end Sys2Proof.Machine
end

