-- ==== Sys2Proof/Machine/LeavenMove.lean ====
section
/-! DEFINITION. Meanings of MIGR, MPIN, MHINT and MRDUP (R294, R346, R347) and of the steps of shoot-downs and migrations (R334, R336 to R340). -/

namespace Sys2Proof.Machine

/-! ### Firings -/

/-- A packet of a range: lanes 0 to 3 and others are required, VA and length are multiples of 64 KiB. -/
def rangeFire (i : Instr) (n : NodeRec) (js : List Nat) (s : State) : Out :=
  lift (sendPacket i n (fun x => lanesOk x.lPay ([0, 1, 2, 3] ++ js)
    && (lane64? x.lPay 0).getD 1 % 65536 == 0 && (lane64? x.lPay 2).getD 1 % 65536 == 0) lPoi) s

def execMigr (n : NodeRec) (s : State) : Out := rangeFire (.migr n) n [] s
def execMpin (n : NodeRec) (s : State) : Out := rangeFire (.mpin n) n [] s
def execMpinOff (n : NodeRec) (s : State) : Out := rangeFire (.mpinOff n) n [] s
def execMhint (n : NodeRec) (s : State) : Out := rangeFire (.mhint n) n [] s
def execMrdupMod (n : NodeRec) (s : State) : Out := rangeFire (.mrdupMod n) n [] s
def execMrdupSys (n : NodeRec) (s : State) : Out := rangeFire (.mrdupSys n) n [4] s

/-! ### MIGR -/

/-- A request is refused (ISLANDF 0x0B). -/
def refuse (d : Dev) (isl : Isle) (t : Task) : Dev := failTask d isl t (islandFail 0x0B)

/-- Destination frames for leaves that move: from the pools of this package, or, for another package, frames that it gives (log 8). -/
def destFrames (d : Dev) (target tier : Nat) (ls : List Leaf) : Option (List Nat × Dev) :=
  if target = d.pkg then popFrames (ls.map fun l => poolOf tier l.size) d
  else
    let (no, d) := freeNat 1 d
    if no = 1 then none
    else some (ls.foldl (fun (acc : List Nat × Dev) l =>
      let (v, d) := freeNat 36 acc.2
      (acc.1 ++ [target * 2 ^ 52 + v * 2 ^ 16 / l.size * l.size], d)) ([], d))

/-- A MIGR asks for its migrations; with WAIT it then waits for them (R294, R336, R339, R340). -/
def migrStart (d : Dev) (isl : Isle) (t : Task) (p : Packet) : Dev :=
  let target := match lane32? p.l 4 with | some v => v % 1024 | none => d.pkg
  let tier := fld p.lit 13 12
  match askRange d p with
  | .error f => failTask d isl t f
  | .ok ls =>
    let ls := ls.filter fun l => !(pteTier l.bits == tier && pkgOf l.frame == target)
    if ls.any fun l => leafBusy d p.cid l || leafAsked d p.cid l then d
    else if ls.any fun l => !movable d l || (l.state == 2 && target != d.pkg) then refuse d isl t
    else
      let d := purged (if target = d.pkg then ls.map fun l => poolOf tier l.size else []) (noteRings d)
      match destFrames d target tier ls with
      | none => refuse d isl t
      | some (fs, d) =>
        let wait := bitAt p.lit 11
        let d := (List.zip ls fs).foldl (fun d x => askMigr d p.cid x.1 tier x.2 (if wait then some (isl, t.id) else none)) d
        if wait then putTask d isl { t with phase := 1 } else finishTask d isl { t with out := p.done }

/-- MIGR. `num` of the task holds cause and VA of each abort it is told of, in order. -/
def migrWork (d : Dev) (isl : Isle) (t : Task) (p : Packet) : Dev :=
  if t.phase = 0 then migrStart d isl t p
  else if d.leaven.migrs.any fun m => m.task == some (isl, t.id) then d
  else match t.num with
    | c :: va :: _ => failTask d isl t ⟨.migabort, c, va⟩
    | _ => finishTask d isl { t with out := p.done }

/-! ### MPIN and MHINT -/

/-- Pin leaves with no rights, all or none. -/
def pinAll : List Leaf → Hold → Option Hold
  | [], h => some h
  | l :: ls, h => (pinLeaf h l false false false).bind (pinAll ls)

/-- Remove the pins without rights of a leaf. -/
def unpinLeaf (l : Leaf) (h : Hold) : Hold :=
  { h with pins := h.pins.filter fun p => !(p.va == l.va && p.size == l.size && !p.r && !p.w && !p.a) }

def mpinWork (d : Dev) (isl : Isle) (t : Task) (p : Packet) : Dev :=
  match askRange d p with
  | .error f => failTask d isl t f
  | .ok ls =>
    let done := fun d => finishTask d isl { t with out := p.done }
    if bitAt p.lit 11 then done (d.modHold p.cid fun h => ls.foldl (fun h l => unpinLeaf l h) h)
    else if ls.any (leafBusy d p.cid) then d
    else match pinAll ls (d.hold p.cid) with
      | some h => done (d.modHold p.cid fun _ => h)
      | none => refuse d isl t

/-- MHINT: the HINT of every frame that the range maps (R342). -/
def mhintWork (d : Dev) (isl : Isle) (t : Task) (p : Packet) : Dev :=
  match askRange d p with
  | .error f => failTask d isl t f
  | .ok ls =>
    let lo := p.pair 0
    let hi := lo + p.pair 2
    let es := ls.flatMap fun l =>
      let a := max lo l.va
      frameEntries d (l.pa a) (min hi (l.va + l.size) - a)
    finishTask (es.foldl (fun d e => lvPut d e (setFld (readEntry d e) 17 16 (fld p.lit 12 11)) 4) d) isl { t with out := p.done }

/-! ### Steps of a migration -/

def putMigr (d : Dev) (m : Migr) : Dev :=
  { d with leaven := { d.leaven with migrs := d.leaven.migrs.map fun x => if x.id == m.id then m else x } }

def dropMigr (d : Dev) (m : Migr) : Dev := { d with leaven := { d.leaven with migrs := d.leaven.migrs.filter (·.id != m.id) } }

/-- A shoot-down that an operation waits for is under way. -/
def shooting (d : Dev) (id : Nat) : Bool := d.leaven.shoots.any (·.migr == some id)

/-- Accesses in flight to a range of a context, and writes in flight to a range of memory, are performed at a scope. -/
def rangeQuiet (d : Dev) (cid va n : Nat) (sc : Scope) (since : Option Nat) : Bool :=
  d.pages.all fun e => e.2.accs.all fun a =>
    !(a.cid == cid && !a.phys && a.fault.isNone && a.els.any (hitsRange va (some n))
      && (match a.acc, since with | some x, some y => decide (x < y) | some _, none => true | none, _ => false)) || a.perfAt d sc

def frameQuiet (d : Dev) (pa n : Nat) (sc : Scope) : Bool :=
  let away := fun w : WEl => decide (w.addr + w.bytes.length ≤ homeKey d pa) || decide (homeKey d pa + n ≤ w.addr)
  d.mem.wlog.all (fun w => w.at sc || away w) && d.mem.pend.all fun p => away p.el

def Migr.quiet (d : Dev) (m : Migr) : Bool :=
  rangeQuiet d m.cid m.va m.size .mod none && frameQuiet d m.src m.size .mod && frameQuiet d m.dst m.size .mod

/-- The most migrations at once (R345). -/
def maxMove (d : Dev) : Nat := let v := fld d.leaven.regs.ctl.toNat 15 8; if v = 0 then 1 else min v 64

def started (m : Migr) : Bool := m.phase != .waiting

/-- A migration that is not carried out gives its frame back. -/
def giveUp (d : Dev) (m : Migr) : Dev := giveFrame (dropMigr d m) (poolOf m.tier m.size) m.dst

/-- The migration that a step is about. -/
def onMigr (f : Dev → Migr → Dev) (s : State) : Out :=
  lift (fun d => match d.occ with
    | .migr id => (match d.leaven.migrs.find? (·.id == id) with | some m => f d m | none => d)
    | _ => d) s

/-- The first request that no pin keeps waiting (R335, R336). -/
def nextMigr (d : Dev) : Option Migr :=
  d.leaven.migrs.find? fun m => m.phase == .waiting && (match walk d m.cid m.va with | .ok l => !pinnedLeaf d m.cid l | .error _ => true)

/-- MIGRATION_ENTER: STATE becomes MOVE and the leaf is shot down. A leaf that can no longer move, or an automatic request whose leaf has been
pinned, ends the request; so does a move to another package of a leaf that has become RDUP (R348). -/
def migrEnter (d : Dev) (m : Migr) : Dev :=
  let d := noteRings d
  if m.phase != .waiting then d else
  match walk d m.cid m.va with
  | .error _ => giveUp d m
  | .ok l =>
    if m.task.isNone && pinnedLeaf d m.cid l && l.state != 1 then d
    else if (nextMigr d).map (·.id) != some m.id || (d.leaven.migrs.filter started).length ≥ maxMove d || leafBusy d m.cid l || !hasRoom d 1 then d
    else if l.size != m.size || l.va != m.va || !movable d l || (l.state == 2 && !isLocal d m.dst) then giveUp d m
    else
      let d := setLeaf d l (setState 1)
      let d := startShoot d m.cid l.va (some l.size) false (some m.id)
      putMigr d { m with phase := .enter, src := l.frame, prev := l.state }

def execMigrationEnter (s : State) : Out := onMigr migrEnter s

/-- MIGRATION_COPY_LINE: the next line in ascending order. Where the way to the destination is down the write fails (R339). -/
def migrCopy (d : Dev) (m : Migr) : Dev :=
  let m := if m.phase == .enter && !shooting d m.id then { m with phase := .copy, started := d.now.toNat } else m
  if m.phase != .copy || m.copied * 64 ≥ m.size then d
  else if !wayOpen d (homeKey d m.dst) then putMigr d { m with phase := .abort 1 }
  else putMigr (copyLine d (homeKey d m.src + 64 * m.copied) (homeKey d m.dst + 64 * m.copied)) { m with copied := m.copied + 1 }

def execMigrationCopyLine (s : State) : Out := onMigr migrCopy s

/-- Logged lines of a moved frame are lines of its new one. -/
def moveUndo (src dst n : Nat) (h : Hold) : Hold :=
  { h with undo := h.undo.map fun u => { u with lines := u.lines.map fun l =>
      if src ≤ l.2.1 ∧ l.2.1 < src + n then (l.1, l.2.1 - src + dst, l.2.2.1, l.2.2.2.map fun g => g - src + dst) else l } }

/-- One more completed, or aborted, migration in LVSTAT. -/
def countStat (d : Dev) (hi lo : Nat) : Dev :=
  let v := d.leaven.regs.stat.toNat
  let w := fld v hi lo
  { d with leaven := { d.leaven with regs := { d.leaven.regs with stat := BitVec.ofNat 64 (setFld v hi lo (min (2 ^ 32 - 1) (w + 1))) } } }

/-- The hotness entries of the source frame go to the destination's, and the source's are zeroed. -/
def moveHot (d : Dev) (m : Migr) : Dev :=
  (List.range (m.size / 65536)).foldl (fun d k =>
    let s := frameEntries d (m.src + 65536 * k) 65536
    let t := frameEntries d (m.dst + 65536 * k) 65536
    let v := (s.map (readEntry d)).headD 0
    let d := t.foldl (fun d e => lvPut d e v 4) d
    s.foldl (fun d e => lvPut d e 0 4) d) d

/-- MIGRATION_SWITCH: ports hold new accesses; once the earlier ones are performed at MOD the PTE names the destination and the leaf is shot
down; then the source frame is released (R337). -/
def migrSwitch (d : Dev) (m : Migr) : Dev :=
  match m.phase with
  | .copy => if m.copied * 64 ≥ m.size then putMigr d { m with phase := .switch } else d
  | .switch =>
    if !m.quiet d then d
    else
      let d := setLeafAt d m.cid m.va m.size fun e => setState m.prev (setTier m.tier (setFrame m.dst e))
      let d := { d with holds := d.holds.map fun e => (e.1, moveUndo (homeKey d m.src) (homeKey d m.dst) m.size e.2) }
      putMigr (startShoot d m.cid m.va (some m.size) false (some m.id)) { m with phase := .finish }
  | .finish =>
    if shooting d m.id then d else countStat (postFrame (dropMigr (moveHot d m) m) m.src) 31 0
  | _ => d

def execMigrationSwitch (s : State) : Out := onMigr migrSwitch s

/-- The MIGR that asked is told of an abort; of one that an XLAT caused it is not. -/
def tellAbort (d : Dev) (m : Migr) (c : Nat) : Dev :=
  match m.task with
  | some (i, id) => if c = 3 then d else
      (match getTask d i id with | some t => putTask d i { t with num := t.num ++ [c, m.va] } | none => d)
  | none => d

/-- MIGRATION_ABORT: once everything in flight is performed at MOD the leaf returns to its previous state at the source, is shot down, and the
destination frame returns to its pool (R339). -/
def migrAbort (d : Dev) (m : Migr) : Dev :=
  match m.phase with
  | .abort c =>
    if shooting d m.id || !m.quiet d then d
    else
      let d := setLeafAt d m.cid m.va m.size (setState m.prev)
      putMigr (startShoot d m.cid m.va (some m.size) false (some m.id)) { m with phase := .restore c }
  | .restore c => if shooting d m.id then d else countStat (giveUp (tellAbort d m c) m) 63 32
  | _ => d

def execMigrationAbort (s : State) : Out := onMigr migrAbort s

/-- MIGRATION_DEADLINE: the switch has not begun DEADL·2^12 cycles after the entry. -/
def migrDeadline (d : Dev) (m : Migr) : Dev :=
  let n := fld d.leaven.regs.ctl.toNat 31 16
  if m.phase == .copy && n != 0 && decide (m.started + n * 2 ^ 12 ≤ d.now.toNat) then putMigr d { m with phase := .abort 2 } else d

def execMigrationDeadline (s : State) : Out := onMigr migrDeadline s

/-- SHOOTDOWN_COMPLETE (R334): the accesses held for it are released. -/
def execShootdownComplete (s : State) : Out :=
  lift (fun d => match d.occ with
    | .shoot id => (match d.leaven.shoots.find? (·.id == id) with
      | some x => if shootDone d x then { d with leaven := { d.leaven with shoots := d.leaven.shoots.filter (·.id != id) } } else d
      | none => d)
    | _ => d) s

/-! ### MRDUP `.sys` (R346) -/

def putOp (d : Dev) (o : DupOp) : Dev :=
  { d with leaven := { d.leaven with ops := if d.leaven.ops.any (·.id == o.id) then d.leaven.ops.map (fun x => if x.id == o.id then o else x) else d.leaven.ops ++ [o] } }

def dropOp (d : Dev) (id : Nat) : Dev := { d with leaven := { d.leaven with ops := d.leaven.ops.filter (·.id != id) } }

/-- The members of a copy-set entry; none where LVCST is not valid or N is not 1 to 30. -/
def copySet (d : Dev) (ix : Nat) : Option (List (Nat × Nat)) :=
  let r := d.leaven.regs.cst.toNat
  let a := fld r 51 14 * 2 ^ 14 + 64 * ix
  let n := readHome d a 2
  if !bitAt r 0 || n == 0 || decide (n > 30) then none
  else some ((List.range n).map fun m => let v := readHome d (a + 4 + 2 * m) 2; (fld v 9 0, fld v 15 10))

/-- Other members that are contexts of this package. -/
def localOthers (d : Dev) (cid : Nat) (ms : List (Nat × Nat)) : List Nat := (ms.filter fun m => m.1 == d.pkg && m.2 != cid).map (·.2)

/-- Leaves of the op for the source, and for each other member on this package. -/
def memberLeaf (d : Dev) (c va size : Nat) : Option Leaf :=
  match walk d c va with | .ok l => if l.size = size ∧ l.va = va then some l else none | .error _ => none

/-- The checks and the reservation of `.sys`, and its step 1. -/
def dupStart (d : Dev) (isl : Isle) (t : Task) (p : Packet) : Dev :=
  match askRange d p with
  | .error f => failTask d isl t f
  | .ok ls =>
    let d := noteRings d
    match copySet d (p.lane 4 % 256) with
    | none => refuse d isl t
    | some ms =>
      let others := localOthers d p.cid ms
      if ls.any (leafBusy d p.cid) then d
      else if !ms.contains (d.pkg, p.cid) || ms.dedup.length != ms.length
        || ls.any (fun l => pinnedLeaf d p.cid l || exported d l || decide (l.size = 2 ^ 30) || l.state == 2 || l.state == 4 || !inTier d l) then refuse d isl t
      else if !hasRoom d (ls.length * others.length) && !others.isEmpty then d
      -- a member's leaf that is pinned, or that an operation holds, makes the request wait (R221, R335)
      else if others.any fun c => ls.any fun l => (memberLeaf d c l.va l.size).any fun m => leafBusy d c m || pinnedLeaf d c m then d
      else
        -- members of other packages answer for their own pools and tables (log 8)
        let (no, d) := if ms.any (·.1 != d.pkg) then freeNat 1 d else (0, d)
        let pools := ls.flatMap fun l => others.map fun _ => poolOf (pteTier l.bits) l.size
        match popFrames pools d with
        | none => refuse (purged pools d) isl t
        | some (fs, d') =>
          if no = 1 then refuse d isl t
          else
            let d := ls.foldl (fun d l => startShoot (setLeaf d l (setState 2)) p.cid l.va (some l.size) false (some t.id)) d'
            let sets := ls.map fun l => (⟨[l.pte], ms⟩ : CopySet)
            putTask (putOp d ⟨t.id, false, p.cid, ls.map (fun l => (l.va, l.size)), others, sets, fs, ls.length * others.length, 0⟩) isl { t with phase := 1 }

/-- Step 2 of `.sys` for one leaf and one member: the copy, the member's entry and its old frame. -/
def dupMember (src : Nat) (x : (Nat × Nat) × Nat × Nat) (d : Dev) (id : Nat) : Dev :=
  match memberLeaf d src x.1.1 x.1.2, memberLeaf d x.2.1 x.1.1 x.1.2 with
  | some l, some m =>
    let d := copyLeaf d (homeKey d l.frame) (homeKey d x.2.2) l.size
    let d := setLeaf d m fun e => setState 2 (setTier (pteTier l.bits) (setFrame x.2.2 e))
    startShoot (postFrame d m.frame) x.2.1 m.va (some m.size) false (some id)
  | _, _ => d

/-- MRDUP `.sys`: step 1, then the copies, then the record of its copy sets. -/
def dupWork (d : Dev) (isl : Isle) (t : Task) (p : Packet) : Dev :=
  if t.phase = 0 then dupStart d isl t p
  else match d.leaven.ops.find? (·.id == t.id) with
    | none => d
    | some o =>
      if shooting d t.id then d
      else if t.phase = 1 then
        let xs := List.zip (o.leaves.flatMap fun l => o.others.map fun c => (l, c)) o.frames
        let ms := xs.map fun x => memberLeaf d x.1.2 x.1.1.1 x.1.1.2
        -- a member whose leaf another operation holds, or that is pinned, is waited for (R221, R335)
        if xs.any fun x => (match walk d x.1.2 x.1.1.1 with | .ok l => leafBusy d x.1.2 l (some t.id) || pinnedLeaf d x.1.2 l | .error _ => false) then d
        else if ms.any Option.isNone then
          let d := xs.foldl (fun d x => giveFrame d (poolOf (regionOf d (localOf x.2)).tier x.1.1.2) x.2) d
          refuse (dropOp d t.id) isl t
        else
          let sets := (List.zip o.sets o.leaves).map fun (s, l) =>
            { s with ptes := s.ptes ++ (o.others.filterMap fun c => memberLeaf d c l.1 l.2).map (·.pte) }
          let d := xs.foldl (fun d x => dupMember p.cid (x.1.1, x.1.2, x.2) d t.id) d
          putTask (putOp d { o with sets, owed := 0 }) isl { t with phase := 3 }
      else
        let d := dropOp d t.id
        finishTask { d with leaven := { d.leaven with copysets := d.leaven.copysets ++ o.sets } } isl { t with out := p.done }

/-! ### MRDUP `.mod` (R347) -/

/-- The recorded copy set of a leaf. -/
def setOf (d : Dev) (l : Leaf) : Option CopySet := d.leaven.copysets.find? fun s => s.ptes.contains l.pte

/-- Other members of this package of a leaf's copy set. -/
def leafOthers (d : Dev) (cid : Nat) (l : Leaf) : List Nat :=
  match setOf d l with | some s => localOthers d cid s.members | none => []

/-- A 2 MiB leaf of one member is split: 32 entries with the parent's rights and TIER, all RDUP. -/
def splitLeaf (d : Dev) (c va frame : Nat) : Dev :=
  match memberLeaf d c va (2 ^ 21) with
  | none => giveFrame d splitPool frame
  | some l =>
    let e := readPte d l.pte
    let d := (List.range 32).foldl (fun d s => lvPut d (homeKey d frame + 8 * s) (setState 2 (setFrame (l.frame + s * 2 ^ 16) e)) 8) d
    setLeaf d l fun _ => setFrame frame 0 + 2 * 2 + 1

/-- The record of a split leaf's copy set becomes one for each of its blocks. -/
def splitSet (d : Dev) (l : Leaf) (frames : List Nat) : Dev :=
  match setOf d l with
  | none => d
  | some s =>
    let new := (List.range 32).map fun k => (⟨frames.map fun f => f + 8 * k, s.members⟩ : CopySet)
    { d with leaven := { d.leaven with copysets := d.leaven.copysets.filter (· != s) ++ new } }

/-- The blocks of a leaf that a range covers. -/
def blocksOf (lo hi : Nat) (l : Leaf) : List (Nat × Nat) :=
  if lo ≤ l.va ∧ l.va + l.size ≤ hi then [(l.va, l.size)]
  else (List.range (l.size / 65536)).filterMap fun k =>
    let a := l.va + 65536 * k
    if lo ≤ a ∧ a < hi then some (a, 65536) else none

/-- Steps 1 and 2 of `.mod`: the checks, the splits, and COLL with a shoot-down on every member of this package. -/
def collapseStart (d : Dev) (isl : Isle) (t : Task) (p : Packet) : Dev :=
  let lo := p.pair 0
  let hi := lo + p.pair 2
  match askRange d p with
  | .error f => failTask d isl t f
  | .ok all =>
    let ls := all.filter fun l => l.state != 0
    let dup := ls.filter fun l => l.state == 2
    let part := dup.filter fun l => l.size == 2 ^ 21 && !(decide (lo ≤ l.va) && decide (l.va + l.size ≤ hi))
    let others := (dup.flatMap (leafOthers d p.cid)).dedup
    let held := fun (l : Leaf) (c : Nat) => match walk d c l.va with | .ok m => leafBusy d c m || pinnedLeaf d c m | .error _ => false
    let blocks := dup.flatMap fun l => (blocksOf lo hi l).map fun b => (b, leafOthers d p.cid l)
    let owes := (dup.map fun l => (leafOthers d p.cid l).length * ((blocksOf lo hi l).map fun b => b.2 / 65536).sum).sum
    if (ls.any fun l => l.state == 1 || l.state == 3) || dup.any (fun l => (p.cid :: leafOthers d p.cid l).any (held l)) then d
    else if dup.any fun l => match setOf d l with | some s => !s.members.contains (d.pkg, p.cid) | none => false then refuse d isl t
    else if !dup.isEmpty && (ringFull (noteRings d) || !hasRoom (noteRings d) owes) then noteRings d
    else
      let d := noteRings d
      let jobs := part.map fun l => (l, p.cid :: leafOthers d p.cid l)
      match popFrames (jobs.flatMap fun j => j.2.map fun _ => splitPool) d with
      | none => refuse (purged [splitPool] d) isl t
      | some (fs, d) =>
        let mine := dup.map fun l => (l, p.cid :: leafOthers d p.cid l)
        let (_, d) := jobs.foldl (fun (acc : List Nat × Dev) j =>
          let mine := acc.1.take j.2.length
          let d := splitSet acc.2 j.1 mine
          (acc.1.drop j.2.length, (List.zip j.2 mine).foldl (fun d x => splitLeaf d x.1 j.1.va x.2) d)) (fs, d)
        let d := blocks.foldl (fun d b => (p.cid :: b.2).foldl (fun d c =>
          match memberLeaf d c b.1.1 b.1.2 with | some l => if l.state = 2 then setLeaf d l (setState 3) else d | none => d) d) d
        let d := mine.foldl (fun d m => m.2.foldl (fun d c => startShoot d c m.1.va (some m.1.size) false (some t.id)) d) d
        let (i, d) := freshId d
        let sets := blocks.map fun b => (⟨[], b.2.map fun c => (d.pkg, c)⟩ : CopySet)
        putTask (putOp d ⟨t.id, true, p.cid, blocks.map (·.1), others, sets, [], owes, i⟩) isl { t with phase := 1 }

/-- The blocks of a collapse, each with the other members of its own leaf's copy set. -/
def collapseBlocks (o : DupOp) : List ((Nat × Nat) × List Nat) := (o.leaves.zip o.sets).map fun x => (x.1, x.2.members.map (·.2))

/-- Step 3 of `.mod` for one block: RES on the owner, with EXP set in its frame's entry; the other members name the owner's frame and release
their own. -/
def collapseBlock (o : DupOp) (d : Dev) (x : (Nat × Nat) × List Nat) : Dev :=
  let b := x.1
  match memberLeaf d o.cid b.1 b.2 with
  | none => d
  | some l =>
    let d := setLeaf d l (setState 0)
    let d := (frameEntries d l.frame l.size).foldl (fun d e => lvPut d e (setFld (readEntry d e) 19 19 1) 4) d
    let d := startShoot d o.cid b.1 (some b.2) false (some o.id)
    let d := x.2.foldl (fun d c => match memberLeaf d c b.1 b.2 with
      | some m =>
        if m.state = 3 then
          let d := setLeaf d m fun e => setState 0 (setTier (pteTier l.bits) (setFrame l.frame e))
          let d := startShoot d c b.1 (some b.2) false (some o.id)
          (List.range (b.2 / 65536)).foldl (fun d k => postFrame d (m.frame + 65536 * k)) d
        else d
      | none => d) d
    { d with leaven := { d.leaven with copysets := d.leaven.copysets.filter (fun s => !s.ptes.contains l.pte) } }

/-- Every access in flight to the blocks is performed at SYS. -/
def collapseQuiet (d : Dev) (o : DupOp) : Bool :=
  (collapseBlocks o).all fun x => (o.cid :: x.2).all fun c =>
    rangeQuiet d c x.1.1 x.1.2 .sys (some o.since) && (match memberLeaf d c x.1.1 x.1.2 with | some l => frameQuiet d l.frame x.1.2 .sys | none => true)

/-- MRDUP `.mod`. -/
def collapseWork (d : Dev) (isl : Isle) (t : Task) (p : Packet) : Dev :=
  if t.phase = 0 then collapseStart d isl t p
  else match d.leaven.ops.find? (·.id == t.id) with
    | none => d
    | some o =>
      if shooting d t.id then d
      else if t.phase = 1 then
        if collapseQuiet d o then putTask (putOp ((collapseBlocks o).foldl (collapseBlock o) d) { o with owed := 0 }) isl { t with phase := 3 } else d
      else finishTask (dropOp d t.id) isl { t with out := p.done }

end Sys2Proof.Machine
end

