-- ==== Sys2Proof/Machine/Residency.lean ====
section
/-! DEFINITION. Meanings of the steps of automatic tiering (R342, R343) and of expert residency (R349, R350, R441). -/

namespace Sys2Proof.Machine

/-! ### Hotness (R342) -/

/-- The frame table: where it begins. -/
def frameBase (d : Dev) : Nat := fld d.leaven.regs.ftb.toNat 51 31 * 2 ^ 31

/-- Entries of the frame table that are not zero, by address; the others have no hotness to halve. -/
def liveEntries (d : Dev) : List Nat :=
  let b := frameBase d
  let inside := fun a : Nat => decide (b ≤ a) && decide (a < b + 2 ^ 31)
  let es := (d.mem.cells.map (·.1) ++ d.mem.wlog.flatMap fun w => (List.range w.bytes.length).map (w.addr + ·)).filter inside
  (((es.map fun a => a / 4 * 4).dedup).filter fun e => (regionOf d ((e - b) / 4 * 65536)).isTier)

/-- A decay period: below 0x10000 it acts as 0x10000. -/
def decayPeriod (v : Nat) : Nat := max 0x10000 v

def periodOf (d : Dev) (k : Nat) : Nat :=
  if k < 64 then decayPeriod (fld (d.ctx k).hotdecay.toNat 31 0) else decayPeriod (fld d.leaven.regs.ctl.toNat 63 32)

/-- An entry belongs to owner `k`: a context, or none (64). -/
def ownedBy (v k : Nat) : Bool := if bitAt v 15 then fld v 13 8 == k else k == 64

/-- HOT_DECAY: the counters of one owner's frames are halved at the end of its period. -/
def hotDecayStep (d : Dev) : Dev :=
  match d.occ with
  | .frame k =>
    if k > 64 || !bitAt d.leaven.regs.ftb.toNat 0 || d.now.toNat < d.leaven.decays.getD k 0 + periodOf d k then d
    else
      let es := (liveEntries d).filter fun e => ownedBy (readEntry d e) k
      let d := es.foldl (fun d e => let v := readEntry d e; lvPut d e (setFld v 7 0 (fld v 7 0 / 2)) 4) d
      { d with leaven := { d.leaven with decays := d.leaven.decays.set k d.now.toNat } }
  | _ => d

def execHotDecay (s : State) : Out := lift hotDecayStep s

/-! ### Tiering (R343) -/

/-- HOT of an entry adjusted by its HINT. -/
def biased (bias v : Nat) : Nat :=
  match fld v 17 16 with
  | 1 => min 255 (fld v 7 0 + bias)
  | 2 => fld v 7 0 - bias
  | _ => fld v 7 0

/-- Effective hotness of a leaf. -/
def hotOf (d : Dev) (l : Leaf) : Nat :=
  ((frameEntries d l.frame l.size).map fun e => biased (fld d.leaven.regs.thr.toNat 23 16) (readEntry d e)).foldl max 0

/-- A leaf qualifies for a move to a tier. -/
def qualifies (d : Dev) (l : Leaf) (tier : Nat) : Bool :=
  let thr := d.leaven.regs.thr.toNat
  let mark := d.leaven.regs.wmark.toNat
  let h := hotOf d l
  match pteTier l.bits, tier with
  | 1, 0 | 2, 0 => decide (fld thr 7 0 ≤ h) && decide (0 < poolFill d (poolOf 0 l.size))
  | 0, 1 => decide (h ≤ fld thr 15 8) && decide (poolFill d (poolOf 0 l.size) < fld mark 23 0)
  | 1, 2 => h == 0 && decide (poolFill d (poolOf 1 l.size) < fld mark 47 24)
  | _, _ => false

/-- TIERING_EVALUATION: one candidate leaf starts its move where it qualifies. -/
def tieringStep (d : Dev) : Dev :=
  match d.occ with
  | .leaf cid va tier =>
    match walk d cid va with
    | .error _ => d
    | .ok l =>
      let owner := (frameEntries d l.frame l.size).all fun e => bitAt (readEntry d e) 15 && fld (readEntry d e) 13 8 == cid
      if bitAt d.leaven.regs.ctl.toNat 0 && bitAt d.leaven.regs.ftb.toNat 0 && bitAt d.leaven.regs.auto.toNat cid && owner && qualifies d l tier then
        autoMove (noteRings d) cid l tier
      else d
  | _ => d

def execTieringEvaluation (s : State) : Out := lift tieringStep s

/-! ### Popularity (R350, R441) -/

/-- Sifters of the package that a context's load binds. -/
def boundSifters (d : Dev) (cid : Nat) : List (Nat × Sifter) := d.sifters.filter fun e => e.2.cid == some cid

/-- POPULARITY_DECAY: a resident context's counts are halved at the end of its period. -/
def popularityStep (d : Dev) : Dev :=
  match d.occ with
  | .ctx cid =>
    if (d.graph cid).load.isNone || d.now.toNat < d.leaven.popDecays.getD cid 0 + periodOf d (cid % 64) then d
    else
      { d with
        sifters := d.sifters.map fun e => if e.2.cid == some cid then (e.1, { e.2 with pop := e.2.pop.map fun x => (x.1, x.2 / 2) }) else e
        leaven := { d.leaven with popDecays := d.leaven.popDecays.set cid d.now.toNat } }
  | _ => d

def execPopularityDecay (s : State) : Out := lift popularityStep s

def popularity (d : Dev) (cid x : Nat) : Nat := min 0xFFFF (((boundSifters d cid).map fun e => e.2.pop.getD x 0).sum)

/-! ### Residency actions (R350) -/

/-- Tiles of a directory entry's group. -/
def groupTiles (e : Nat) : List Isle := (List.range (dirG e)).map fun s => ⟨.hearth, dirDie e, dirTile0 e + s⟩

/-- Every tile of the group is bound to the context's resident load, and may take an operation now. -/
def tilesBound (d : Dev) (cid e : Nat) : Bool :=
  (d.graph cid).load.isSome && dirPkg e == d.pkg && (groupTiles e).all fun i => (d.tile i.tileNo).cid == some cid
def tilesFree (d : Dev) (e : Nat) : Bool := (groupTiles e).all fun i => (d.chan i).tasks.all fun u => decide (2 ≤ u.phase)

/-- Each tile of the group accepts a weight-store fill from its slice. -/
def beginFills (d : Dev) (cid x e : Nat) (r : ResEnt) : Dev :=
  let d := (indexed (groupTiles e)).foldl (fun d (s, i) =>
    let (id, d) := freshId d
    d.modChan i fun c => { c with tasks := c.tasks ++ [freshTask id (.fill (r.wva + s * r.slb) (dirWoff e) r.slb x)] }) d
  { d with leaven := { d.leaven with acts := d.leaven.acts ++ [(cid, x, 2)] } }

/-- Leaves of an expert's slices. -/
def sliceLeaves (d : Dev) (cid e : Nat) (r : ResEnt) : List Leaf :=
  (leavesOf d cid (dirG e * r.slb / 65536) r.wva (r.wva + dirG e * r.slb)).filterMap fun l => match l with | .ok l => some l | .error _ => none

/-- Every leaf of the slices that is not in a tier is asked to move there. -/
def moveSlices (d : Dev) (cid x e : Nat) (r : ResEnt) (tier res : Nat) : Dev :=
  let d := (sliceLeaves d cid e r).foldl (fun d l => autoMove d cid l tier) (noteRings d)
  { d with leaven := { d.leaven with acts := d.leaven.acts ++ [(cid, x, res)] } }

def dropAct (d : Dev) (cid x : Nat) : Dev :=
  { d with leaven := { d.leaven with acts := d.leaven.acts.filter fun a => !(a.1 == cid && a.2.1 == x) } }

/-- A move of an expert's slices that no migration serves any longer ends: RES follows where every leaf has switched. -/
def endMove (d : Dev) (cid x e : Nat) (r : ResEnt) (res : Nat) : Dev :=
  if (sliceLeaves d cid e r).any (leafAsked d cid) then d
  else
    let d := dropAct d cid x
    if slicesIn d cid r (dirG e) (if res = 1 then 0 else 1) then writeDir d cid x (setFld e 4 3 res) else d

/-- EXPERT_RESIDENCY_ACTION on one expert of a context. -/
def residencyStep (d : Dev) : Dev :=
  match d.occ with
  | .expert cid x =>
    let e := readDir d cid x
    match resEntry d cid x with
    | none => d
    | some r =>
      if !bitAt d.leaven.regs.ctl.toNat 1 || (boundSifters d cid).isEmpty || decide ((d.hold cid).dirCount ≤ x) || !dirOk e then d
      else match d.leaven.acts.find? fun a => a.1 == cid && a.2.1 == x with
        | some (_, _, 2) => d
        | some (_, _, res) => endMove d cid x e r res
        | none =>
          let p := popularity d cid x
          let thr := d.leaven.regs.thr.toNat
          let hot := fld thr 63 48
          let warm := fld thr 47 32
          if hot ≤ p ∧ dirRes e ≠ 2 ∧ !r.nows ∧ tilesBound d cid e then
            (if tilesFree d e then beginFills d cid x e r else d)
          else if warm ≤ p ∧ dirRes e = 0 then moveSlices d cid x e r 0 1
          else if dirRes e = 2 ∧ p < hot / 2 then writeDir d cid x (setFld e 4 3 (resWithout d cid x e))
          else if dirRes e = 1 ∧ p < warm / 2 then moveSlices d cid x e r 1 0
          else d
  | _ => d

def execExpertResidencyAction (s : State) : Out := lift residencyStep s

/-! ### Weight-store fills -/

/-- A fill of a tile: the slice is read through the context's translation and written at WOFF. One that faults ends with no fault, and its
expert keeps its RES. -/
def fillWork (d : Dev) (isl : Isle) (t : Task) (va off len x : Nat) : Dev :=
  match (d.tile isl.tileNo).cid with
  | none => { dropTask d isl t with leaven := { d.leaven with acts := d.leaven.acts.filter fun a => !(a.2.1 == x && a.2.2 == 2) } }
  | some cid =>
    if tasksHeld d cid then d
    else if off + len > wsSize then dropAct (dropTask d isl t) cid x
    else match vaRead d .leaven 4 cid va len with
      | .ok bs => dropTask (tock (d.modTile isl.tileNo fun y => y.wsWrite off bs)) isl t
      | .error _ => dropAct (dropTask d isl t) cid x

/-- A fill of an expert is still under way. -/
def filling (d : Dev) (cid x : Nat) : Bool :=
  d.chans.any fun e => e.2.tasks.any fun t => match t.kind with
    | .fill _ _ _ y => y == x && (d.tiles.any fun i => i.2.cid == some cid && (tileIsle i.1).key == e.1)
    | _ => false

/-- WEIGHT_STORE_FILL_COMPLETE: the fills of every tile of the group are complete, and RES becomes 2. -/
def fillDone (d : Dev) : Dev :=
  match d.occ with
  | .expert cid x =>
    if d.leaven.acts.contains (cid, x, 2) && !filling d cid x then writeDir (dropAct d cid x) cid x (setFld (readDir d cid x) 4 3 2) else d
  | _ => d

def execWeightStoreFillComplete (s : State) : Out := lift fillDone s

end Sys2Proof.Machine
end

