-- ==== Sys2Proof/Machine/Islands.lean ====
section
/-! DEFINITION. The steps that every island takes: a packet is accepted, a task completes, a result leaves (R239, R243, R272 to R275, R374). -/

namespace Sys2Proof.Machine

/-! ### Accepting a packet -/

/-- The island takes its head packet, or cannot yet. -/
def acceptPacket (d : Dev) (isl : Isle) (p : Packet) : Dev :=
  match isl.kind with
  | .hearth => if tileAccepts d isl p then takePacket d isl p id else d
  | .peel => (match p.instr with | .pdec _ => takePacket d isl p id | _ => copyAccept d isl p)
  | .sifter => (match p.instr with
    | .route _ => if routesOf d isl < 16 then takePacket d isl p id else d
    | _ => takePacket d isl p id)
  | .braid => braidAccept d isl p
  | .rack | .leaven | .coll => takePacket d isl p id

/-- ISLAND_PACKET_ACCEPT. -/
def packetStep (d : Dev) : Dev :=
  match d.occ with
  | .isle isl => (match (d.chan isl).packets with
    | p :: _ => acceptPacket d isl p
    | [] => d)
  | _ => d

def execIslandPacketAccept (s : State) : Out := lift packetStep s

/-! ### Completing a task -/

/-- What an engine does for a task that is under way. -/
def taskWork (d : Dev) (isl : Isle) (t : Task) (p : Packet) : Dev :=
  match p.instr with
  | .mtaskRun _ | .mtaskGo _ | .mtrayFlush _ => d
  | .pcopy _ | .pgath _ | .pscat _ | .pfill _ => if t.phase = 0 then copyWork d isl t p else d
  | .pdec _ => pdecWork d isl t p
  | .route _ => routeWork d isl t p
  | .exdirBase _ | .exdirWrite _ | .exdirInval _ => exdirWork d isl t p
  | .combCfg _ | .combSync _ | .combStat _ => combWork d isl t p
  | .coll _ => collWork d isl t p
  | .rlinv _ => rlinvWork d isl t p
  | .migr _ => migrWork d isl t p
  | .mpin _ | .mpinOff _ => mpinWork d isl t p
  | .mhint _ => mhintWork d isl t p
  | .mrdupSys _ => dupWork d isl t p
  | .mrdupMod _ => collapseWork d isl t p
  | .bgate _ | .bdiag _ | .bswap _ | .bprobNorm _ | .bprobMarg _ | .bprobSamp _ => braidWork d isl t p
  | _ => if t.phase = 0 && !tasksHeld d p.cid then hearthWork d isl t p else d

/-- ENGINE_TASK_COMPLETE: a task goes on as far as it can; one whose work is done emits its tokens once its writes are performed at its scope
(R272 to R274). -/
def taskStep (d : Dev) : Dev :=
  match d.occ with
  | .task isl id => (match getTask d isl id with
    | none => d
    | some t => (match t.kind, t.pk with
      | .fill va off len x, _ => fillWork d isl t va off len x
      | _, some p =>
        let d := { d with opRound := p.round }
        if t.phase = 2 then (if writesDone d (.isle isl t.id) t.scope t.writes then finishTask d isl t else d)
        else taskWork d isl t p
      | _, none => d))
  | _ => d

def execEngineTaskComplete (s : State) : Out := lift (awaitWay taskStep) s

/-! ### Results -/

/-- A result waits for the earlier results of its task, or, in an island's own order, for earlier ones of that order. -/
def resultWaits (rs : List Result) (r : Result) : Bool :=
  rs.any fun x => (r.last && x.task == r.task) || (r.ord && x.ord && x.cid == r.cid)

/-- ISLAND_RESULT_DELIVERY: a token in one of the 64 result slots leaves through the row gateway of a resident load. -/
def resultStep (d : Dev) : Dev :=
  match d.occ with
  | .result isl k =>
    let c := d.chan isl
    (match c.results[k]? with
     | none => d
     | some r =>
       let g := d.graph r.cid
       if k ≥ 64 || g.load.isNone || !(g.st == .resident || g.st == .parked) || g.ending.isSome || resultWaits (c.results.take k) r then d
       else
         let d := d.modChan isl fun c => { c with results := dropNth k c.results }
         islandTry r.cid r.tok.tag (send d .island r.tok))
  | _ => d

def execIslandResultDelivery (s : State) : Out := lift resultStep s

end Sys2Proof.Machine
end

