-- ==== Sys2Proof/Machine/Firing.lean ====
section
/-! DEFINITION. How a span chooses its firing (R401, R402), how the stall records advance (R29, R403), and how the firing at a site is carried out: the record is fetched
from node memory and decoded (R86, R111). -/

namespace Sys2Proof.Config

/-- What moves next where the agenda of the state is empty: the spec leaves the order of concurrent activities open (log 1). -/
opaque pick : Nat → Option Machine.Move

end Sys2Proof.Config

namespace Sys2Proof.Machine

/-- What a site runs: LOOPB's ports have arms of their own (R173, R174). -/
def siteInstr (d : Dev) (f : Focus) : Option Instr :=
  match nodeAt d f.span f.node with
  | some (.loopb n) => (match f.port with | .l => some (.loopb n) | .r => some .loopbRetire | .c => some .loopbExitRequest | .p => some .loopbAdmit)
  | i => i

/-- Instructions that happen only as a firing of a span. -/
def firesOnly (i : Instr) : Bool :=
  (rowOf i).isSome || (match i with | .loopbRetire | .loopbExitRequest | .loopbAdmit => true | _ => false)

/-- Sites of a span where a firing may be ready: each ONCE token's node and tag, with its port where tokens are handled one by one, and
loops that may let an iteration in. -/
def sitesOf (d : Dev) (key : Nat) : List Focus :=
  let p := d.page (pageOfFe key)
  let s := d.span key
  let held := (p.toks.filter fun e => e.tok.dest.key == key && liveAt key e.tok.dest.node e.tok.dest.port e && e.tok.ma == .once).map fun e =>
    (⟨key, e.tok.dest.node, e.tok.tag, if oneByOne d key e.tok.dest.node e.tok.dest.port then e.tok.dest.port else .l⟩ : Focus)
  let loops := s.loops.map fun l => (⟨key, l.node, l.entry.tag, .p⟩ : Focus)
  (held ++ loops).foldr (fun f l => if l.contains f then l else f :: l) []

/-- Firing classes (R401). -/
def fireClass (d : Dev) (f : Focus) : Nat :=
  match siteInstr d f with
  | some i => (match i with
    | .loopbRetire | .loopbExitRequest | .fretn _ | .purge _ | .sink _ | .commitGet _ | .commitSet _ | .doneGraph _ | .doneNext _ | .halt _
    | .trap _ | .brk _ => 0
    | .loopbAdmit | .fcall _ | .launch _ => 2
    | _ => 1)
  | none => 1

/-- SEQ of a firing (R95): of its first ONCE operand, or of the loop's entry token. -/
def siteSeq (d : Dev) (f : Focus) : BitVec 26 :=
  let p := d.page (pageOfFe f.span)
  let s := d.span f.span
  match f.port with
  | .p => ((loopAt s f.node f.tag.frame).map (·.entry.seq)).getD 0
  | _ =>
    let ports := if oneByOne d f.span f.node f.port then [f.port] else [Port.l, .r, .c, .p]
    ((ports.findSome? fun q => onceAt p f.span f.node q f.tag).map (·.seq)).getD 0

/-- A record that decodes to nothing raises ILLOP when the node first becomes ready (R111): the model names the header of the firing's first operand
(DESIGN CHOICE, log 77). -/
def badRecord (f : Focus) (d : Dev) : Dev :=
  match d.cidOf (pageOfFe f.span), (d.span f.span).nodes.find? f.node with
  | some c, some _ =>
    if runs (d.graph c) && hasSpace d f.span (spaceOf d f.span f.node) then
      match operandsOf d f (neededPorts d f) with
      | some o => takeFault d c (some f.tag.frame) .illop
          { hdr := (([Port.l, .r, .c, .p].findSome? o.at).map Token.header).getD 0, loc := locOf d f.span f.node none }
      | none => d
    else d
  | _, _ => d

/-- The state with the firing of a site under way. -/
def focusOn (s : State) (f : Focus) : State := { s with dev := { s.dev with focus := f, occ := .site f } }

/-- The firing of a site, whether it is the span's choice or not. -/
def runSite (ex : Instr → State → Out) (s : State) (f : Focus) : Out :=
  match siteInstr s.dev f with
  | some i => ex i (focusOn s f)
  | none => lift (badRecord f) (focusOn s f)

/-- Whether a step at a site did anything: the page's tokens or the span's own state differ. -/
def moved (f : Focus) (d d' : Dev) : Bool :=
  (d'.page (pageOfFe f.span)).toks != (d.page (pageOfFe f.span)).toks || d'.span f.span != d.span f.span

/-- A ready firing: carrying it out would do something. -/
def readySite (ex : Instr → State → Out) (s : State) (f : Focus) : Bool :=
  match runSite ex s f with
  | .next s' => moved f s.dev s'.dev
  | _ => true

/-- A firing that became ready in a cycle. -/
def markOf (now : Nat) (f : Focus) : ReadyMark := ⟨f.node, f.tag, f.port, now, 0⟩
def siteOf (key : Nat) (m : ReadyMark) : Focus := ⟨key, m.node, m.tag, m.port⟩

/-- The order in which firings became ready: by cycle, and in one cycle by node number, those of one node by port (R402, R25). -/
def ReadyMark.rank (m : ReadyMark) : Nat × Nat := (m.since, m.node * 4 + portCode m.port)
def rankLt (a b : Nat × Nat) : Bool := decide (a.1 < b.1) || (a.1 == b.1 && decide (a.2 < b.2))

/-- The marks of a span brought up to date in a cycle, in the order in which the firings became ready (R402). One that became ready in this cycle before the
firing that the span has performed in it has been passed over once. -/
def freshMarks (ex : Instr → State → Out) (s : State) (key now : Nat) : List ReadyMark :=
  let sp := s.dev.span key
  let ready := (sitesOf s.dev key).filter (readySite ex s)
  let old := sp.marks.filter fun m => ready.contains (siteOf key m)
  let pass := fun m : ReadyMark => { m with passed := if sp.fired == some now && sp.turn.any (rankLt m.rank) then 1 else 0 }
  let new := (ready.filter fun f => !(old.map (siteOf key)).contains f).map fun f => pass (markOf now f)
  sortBy (fun a b : ReadyMark => rankLt a.rank b.rank) (old ++ new)

/-- Of arrivals at unmatched ports of one node that became ready in one cycle, L is taken before R and R before C (R25, R170, R175). -/
def behindPort (d : Dev) (key : Nat) (ms : List ReadyMark) (m : ReadyMark) : Bool :=
  let one := fun x : ReadyMark => (nodeAt d key x.node).any fun i => unmatched i x.port
  ms.any fun x => x.node == m.node && x.since == m.since && one x && one m && decide (portCode x.port < portCode m.port)

/-- The firings whose SEQ precedes or equals that of every other; all of them where there is none (R402, R20). -/
def firstSeqs (d : Dev) (key : Nat) (ms : List ReadyMark) : List ReadyMark :=
  let seq := fun m => siteSeq d (siteOf key m)
  let best := ms.filter fun a => ms.all fun b => seq a == seq b || seqPrecedes (seq a) (seq b)
  if best.isEmpty then ms else best

/-- The next firing by round-robin over node numbers after `last`. -/
def roundRobin (last : Nat) : List ReadyMark → Option ReadyMark
  | [] => none
  | m :: l =>
    let turn := fun m : ReadyMark => (m.node + 1023 - last) % 1024
    some (l.foldl (fun a b => if turn b < turn a then b else a) m)

/-- The firing that a span performs among its ready ones (R402): one passed over 64 times, or the choice by class, SEQ and round-robin. -/
def chosen (d : Dev) (key : Nat) (ms : List ReadyMark) : Option ReadyMark :=
  match ms.find? (·.passed ≥ 64) with
  | some m => some m
  | none =>
    let cls := fun m : ReadyMark => fireClass d (siteOf key m)
    let k := (ms.map cls).foldl min 2
    let cs := ms.filter (cls · == k)
    roundRobin (((d.span key).rr[k]?).getD 0) (firstSeqs d key (cs.filter fun m => !behindPort d key cs m))

/-- After a firing: the ready firings that it passed over, and the round-robin of its class. -/
def noteFired (f : Focus) (k : Nat) (ms : List ReadyMark) (d : Dev) : Dev :=
  let older := ms.takeWhile fun m => siteOf f.span m != f
  let newer := (ms.drop older.length).drop 1
  d.modSpan f.span fun s =>
    { s with marks := older.map (fun m => { m with passed := m.passed + 1 }) ++ newer, last := f.node, rr := modNth (fun _ => f.node) k s.rr
             turn := (ms.drop older.length).head?.map ReadyMark.rank }

def isFar (i : Option Instr) : Bool := match i with | some (.far _) => true | _ => false

/-- The ready firings among which a span chooses. A span with one site needs no choice. -/
def candidates (ex : Instr → State → Out) (s : State) (f : Focus) : List ReadyMark :=
  if sitesOf s.dev f.span == [f] then [markOf s.dev.now.toNat f] else freshMarks ex s f.span s.dev.now.toNat

/-- A SPAN FIRES at a site, where the site is its choice and it has not fired in this cycle. FAR does
not match: its tokens are forwarded beside the firings (R103). -/
def fireStep (ex : Instr → State → Out) (f : Focus) (s : State) : Out :=
  if s.dev.tripped then .next s
  else if isFar (siteInstr s.dev f) then runSite ex s f
  else if (s.dev.span f.span).fired == some s.dev.now.toNat then .next s
  else
    let ms := candidates ex s f
    if ((chosen s.dev f.span ms).map (siteOf f.span)) == some f then
      match runSite ex s f with
      | .next s' => .next { s' with dev := noteFired f (fireClass s.dev f) ms s'.dev }
      | o => o
    else .next s

/-! ### The end of a cycle: stall records (R29, R403) -/

/-- Tags of ONCE tokens held at a node. -/
def tagsAt (d : Dev) (key node : Nat) : List Tag :=
  ((d.page (pageOfFe key)).toks.filter fun e => e.tok.dest.key == key && e.tok.dest.node == node && e.tok.ma == .once && !e.parked).map (·.tok.tag)

/-- The islands that a load binds. -/
def boundIsles (d : Dev) (cid : Nat) : List Isle :=
  ⟨.coll, 4, cid⟩ :: ((d.graph cid).load.map fun l => l.gws.flatMap (·.isles)).getD []

/-- An island operation of a node waits as its description says (reason 4): a push for room in its tray, a COLL, BSWAP or BPROB for its COID, a ROUTE for its Rack,
for a directory entry, for a credit entry or for room in the dispatch buffer (R253, R280, R292, R297, R298, R425, R430, R431). -/
def packetWaits (d : Dev) (isl : Isle) (p : Packet) : Bool :=
  match p.instr with
  | .mtrayPush _ => (match (d.tile isl.tileNo).trays[p.trayNo]? with
    | some y => y.thr != 0 && decide (y.thr ≤ y.filling.rows.length) && y.other.firing
    | none => false)
  | .route _ => decide (16 ≤ routesOf d isl)
  | _ => false

def taskWaits (d : Dev) (isl : Isle) (t : Task) : Bool :=
  match t.pk with
  | none => false
  | some p => match p.instr with
    | .coll _ => t.phase == 0 && (coidOf d isl t).any (coidBusy d p.cid)
    | .bswap _ | .bprobNorm _ | .bprobMarg _ | .bprobSamp _ =>
      t.phase == 4 && (match readSvd d isl p with | .ok v => coidBusy d p.cid v.coid | .error _ => false)
    | .route _ =>
      if t.phase = 0 then (match routeScores d isl p with
        | .ok (s, _) => let (kk, xs) := routeExperts p s; (neededRanks d p.cid isl.unitNo kk xs).any fun x => (cachedDir d p.cid isl.unitNo x).isNone
        | .error _ => false)
      else if t.phase = 1 then d.emsgs.any fun e => e.msg.mk_ == 3 && e.msg.tag == p.tag && e.msg.seq == p.seq && e.msg.rdie == (RouteRow.of t.num).rdie
        && e.msg.rix == (RouteRow.of t.num).rix && (match e.dst with | .isle r => (takesManifest (d.rack r.unitNo) e.msg).isNone | .ext _ => false)
      else t.phase == 3 && (dispatchRow isl p (RouteRow.of t.num) d).isNone
    | _ => false

/-- Nodes of a span whose island operations wait. -/
def islandStalls (d : Dev) (cid key : Nat) : List Nat :=
  (boundIsles d cid).flatMap fun i =>
    ((d.chan i).packets.filter fun p => p.span == key && packetWaits d i p).map (·.node)
    ++ ((d.chan i).tasks.filter fun t => (t.pk.any fun p => p.span == key) && taskWaits d i t).filterMap fun t => t.pk.map (·.node)

/-- A LOOPB has iterations left, and its window or the space behind it holds them back (R173). -/
def loopStalls (d : Dev) (cid key : Nat) : List Nat :=
  (d.span key).loops.filterMap fun l => match nodeAt d key l.node with
    | some (.loopb n) =>
      if l.exit.isNone && (l.n == loopUnbounded || decide (l.adm < l.n)) && !d.parkedFrame cid l.frame
        && (decide (l.adm < l.upto) || (nextBatch l n).isNone || ((d.graph cid).st == .resident && (d.graph cid).preempt.isNone)) then some l.node else none
    | _ => none

/-- A whole set of operands of a tag waits behind an ordered sink's X, or behind 16 pending waits of a WAITL: the reasons 1 and 4 that their
descriptions name (R97, R192). -/
def ownReason (d : Dev) (cid key node : Nat) (i : Instr) (n : NodeRec) (tags : List Tag) : Option Nat :=
  match i with
  | .sink _ =>
    if n.seq && tags.all (fun t => (operandsOf d ⟨key, node, t, .l⟩ (portsOf i n)).any fun o => sinkHolds (sinkOf (d.span key) node) o.seq) then some 1 else none
  | .waitl _ => if 16 ≤ ((d.hold cid).waits.filter fun w => w.span == key && w.node == node).length then some 4 else none
  | _ => none

/-- Why a node that holds waiting operands did not fire (R403): operand or predicate; space, or another firing of the span; the reason that its
description names for its own wait; its port; its channel. A node that holds sticky tokens alone lacks an operand: reason 1 (DESIGN CHOICE, log 77). -/
def stallReason (d : Dev) (cid key node : Nat) : Nat :=
  let p := d.page (pageOfFe key)
  let lacks := fun t : Tag => (neededPorts d ⟨key, node, t, .l⟩).filter fun q => (operandAt p key node q t).isNone
  let tags := tagsAt d key node
  let one := p.toks.any fun e => e.tok.dest.key == key && e.tok.dest.node == node && liveAt key node e.tok.dest.port e && oneByOne d key node e.tok.dest.port
  let whole := tags.filter fun t => !oneByOne d key node .l && (lacks t).isEmpty
  if !one && whole.isEmpty then (if tags.any (fun t => lacks t == [.p]) then 5 else 1)
  else if !hasSpace d key (spaceOf d key node) || (d.span key).fired == some d.now.toNat then 2
  else match (nodeAt d key node).bind fun i => (partsOf i).map fun x => (i, x.2.2) with
    | some (i, n) => (match ownReason d cid key node i n whole with
      | some k => k
      | none => if (rowMem i).isSome then 3 else if (rowEngine i).isSome then 4 else 2)
    | none => 2

/-- Nodes of a span that wait and did not fire in this cycle, with the reason (R29): those whose island operations wait; those with an access that
its port has not accepted (R208, log 78); FAR nodes without space (R103); LOOPBs whose iterations are held back; sinks with staged firings; and those that hold
tokens. -/
def stallsOf (d : Dev) (cid key : Nat) : List (Nat × Nat) :=
  let s := d.span key
  let held := ((d.page (pageOfFe key)).toks.filter fun e => e.tok.dest.key == key && !e.parked && e.role == .plain).map fun e => e.tok.dest.node
  let byToken := (held.dedup.filter fun k => (s.nodes.find? k).isSome).map fun k => (k, stallReason d cid key k)
  let all := (islandStalls d cid key).map (fun k => (k, 4))
    ++ (((d.page (pageOfFe key)).accs.filter fun a => a.span == key && a.acc.isNone && a.fault.isNone).map fun a => (a.node, 3))
    ++ (if hasSpace d key 1 then [] else s.farQ.map fun t => (t.dest.node, 2))
    ++ (loopStalls d cid key).map (fun k => (k, 2))
    ++ byToken
    ++ ((s.sinks.filter fun x => !x.stage.isEmpty).map fun x => (x.node, 1))
  (all.foldl (fun (l : List (Nat × Nat)) e => if l.any (·.1 == e.1) then l else l ++ [e]) []).filter fun e => !(s.fired == some d.now.toNat && s.last == e.1)

/-- A cycle's stall records and STALLCNT of a page (R29, R403). -/
def countStalls (d : Dev) (cid pg : Nat) : Dev :=
  let all := (d.spans.filter fun e => pageOfFe e.1 == pg && e.2.anchor).map fun e => (e.1, stallsOf d cid e.1)
  let d := all.foldl (fun (d : Dev) (x : Nat × List (Nat × Nat)) => d.modSpan x.1 fun s =>
    { s with stalls := x.2.foldl (fun t y => t.set y.1 (y.2, min ((s.stalls.getD y.1 (0, 0)).2 + 1) 0xFFFF)) s.stalls }) d
  let seen := (all.flatMap (·.2)).map (·.2)
  d.modPage pg fun p => { p with stall := (indexed p.stall).map fun (k, v) => if seen.contains (k + 1) then min (v + 1) 0xFFF else v }

/-- The marks of every span of the resident loads brought up to date for the cycle that has ended (R402). -/
def freshAll (ex : Instr → State → Out) (s : State) : State :=
  let keys := (s.dev.spans.filter fun e => e.2.anchor).map (·.1)
  { s with dev := keys.foldl (fun d k => d.modSpan k fun sp => { sp with marks := freshMarks ex s k (s.dev.now - 1).toNat }) s.dev }

end Sys2Proof.Machine
end

