-- ==== Sys2Proof/Machine/Clock.lean ====
section
/-! DEFINITION. The end of a cycle: MCYC, charged page-cycles (R394), stall records (R29, R403), and the delays counted in resident cycles
(R186, R254). -/

namespace Sys2Proof.Machine

/-! ### Charging (R394) -/

/-- An access for which a page is charged: accepted and not yet performed, or waiting in a stream queue of its page; one that a fault holds is not. -/
def chargesFor (d : Dev) (p : Page) (a : Access) : Bool :=
  if a.acc.isSome then !heldBack d p a && !a.perfAt d a.scope else a.qpos.isSome && decide (a.port < 4) && a.fault.isNone

/-- A page of a resident load is charged in this cycle; the cycles of a relocation are not (R385). -/
def isCharged (d : Dev) (c pg : Nat) : Bool :=
  let p := d.page pg
  let g := d.graph c
  !(g.reloc && g.draining) && (p.charged || p.accs.any (chargesFor d p))

def satPred (w : Word64) : Word64 := if w = BitVec.intMin 64 then w else w - 1

/-- One page-cycle: PGCYCLES, DEFICIT and the graph's own total advance; DEFICIT at 0 or below calls for a decision (R395). -/
def chargePage (d : Dev) (c pg : Nat) : Dev :=
  let d := d.modPage pg fun p => { p with cycles := p.cycles + 1 }
  let old := (d.ctx c).deficit
  let d := d.modCtx c fun x => { x with deficit := satPred old }
  let d := d.modGraph c fun g => { g with spent := (g.spent + 1) % 2 ^ 64 }
  if decide (0 < old.toInt) && decide ((satPred old).toInt ≤ 0) then notFree d else d

/-! ### Delays in resident cycles -/

def countTimers (d : Dev) (l : Load) : Dev :=
  { d with spans := d.spans.map fun e =>
      if l.holds (pageOfFe e.1) && !e.2.timers.isEmpty then (e.1, { e.2 with timers := e.2.timers.map fun t => { t with left := t.left - 1 } }) else e }

/-- The side's timer counts a cycle; once the cycle in which it has run out is over, the side is due: a row that came in that cycle is among its rows (R254). -/
def countSide (x : TraySide) : TraySide :=
  match x.left with
  | some 0 => { x with due := true }
  | some (k + 1) => { x with left := some k }
  | none => x

def countTrays (d : Dev) (c : Nat) : Dev :=
  { d with tiles := d.tiles.map fun e =>
      if e.2.cid == some c then (e.1, { e.2 with trays := e.2.trays.map fun y => { y with s0 := countSide y.s0, s1 := countSide y.s1 } }) else e }

/-! ### CLOCK_CYCLE -/

def isLoopb (i : Option Instr) : Bool := match i with | some (.loopb _) => true | _ => false

/-- A batch boundary has come in this cycle (R413): a LOOPB has fired and left no admitted iteration; where no loop of the load is active, every moment is
one (R34). -/
def boundaryCame (d : Dev) (c : Nat) (l : Load) : Bool :=
  atBoundary d c true &&
    (let mine := d.spans.filter fun e => l.holds (pageOfFe e.1)
     mine.all (fun e => e.2.loops.isEmpty)
       || mine.any fun e => e.2.fired == some d.now.toNat && isLoopb (nodeAt d e.1 e.2.last))

/-- The load that a compaction waits for has come to a batch boundary since the request (R387). -/
def notePassed (d : Dev) (c : Nat) : Dev :=
  match d.loader.compact with
  | some k => if k.todo.head? == some c && (d.graph c).reloc && atBoundary d c false then { d with loader := { d.loader with compact := some { k with passed := true } } } else d
  | none => d

/-- What a cycle's end does for one context: nothing unless a load of it is resident. -/
def cycleCtx (d : Dev) (c : Nat) : Dev :=
  match (d.graph c).load with
  | none => d
  | some l =>
    let d := (l.pages.filter (isCharged d c)).foldl (fun d pg => chargePage d c pg) d
    let d := l.pages.foldl (fun d pg => countStalls d c pg) d
    let d := countTrays (countTimers d l) c
    let d := l.pages.foldl (fun d pg => d.modPage pg fun p => if p.charged then { p with charged := false } else p) d
    let d := if (d.graph c).skip && boundaryCame d c l then d.modGraph c fun g => { g with skip := false } else d
    let d := notePassed d c
    islandTry c ⟨BitVec.ofNat 6 c, 0, 0⟩ d

def execClockCycle (s : State) : Out :=
  lift (fun d =>
    let d := (d.graphs.map (·.1)).foldl cycleCtx d
    { d with now := d.now + 1 }) s

end Sys2Proof.Machine
end

