-- ==== Sys2Proof/Machine/Registers.lean ====
section
/-! DEFINITION. Writes to the system registers (R44 to R51, R393, R411), whoever makes them: one operation per scope, shared by WRSR and by the
host's steps. -/

namespace Sys2Proof.Machine

/-! ### The life of a context's enable bit (R50, R51) -/

/-- Setting EN moves a FREE context to IDLE. -/
def setEn (d : Dev) (c : Nat) : Dev :=
  d.modGraph c fun g => if g.st == .free then { g with st := .idle } else g

/-- Clearing EN: an IDLE context is FREE at once; one with a graph ends with cause 2 once it has drained, and an end that the loader received before
is carried out first (R51, R200). -/
def clearEn (d : Dev) (c : Nat) : Dev :=
  match (d.graph c).st with
  | .free => d
  | .idle => (d.modGraph c fun g => { g with st := .free }).modHold c fun h => { h with mail := [], inbound := [] }
  | _ => endGraph d c .kill 0

/-! ### Per-context registers (R47) -/

/-- CTXCFG with its reserved bits clear. -/
def cfgMask (v : Word64) : Word64 := v &&& 0xFFFF0007

/-- A write to a per-context register: the stored value and what follows from it. DEFICIT is read-only. -/
def writeCtx (d : Dev) (c num : Nat) (v : Word64) : Dev :=
  match num with
  | 0x000 =>
    let was := (d.ctx c).en
    let d := d.modCtx c fun x => { x with cfg := cfgMask v }
    if v.getLsbD 0 && !was then setEn d c else if !v.getLsbD 0 && was then clearEn d c else d
  | 0x001 =>
    let d := d.modCtx c fun x => { x with fpctl := v &&& 1 }
    modLoadPages d c fun p => { p with ftz := v.getLsbD 0 }
  | 0x002 => d.modCtx c fun x => { x with ptroot := v &&& 0x3FFFFFFFFFFFF001 }
  | 0x003 => respill (d.modCtx c fun x => { x with spillbase := v &&& 0x3FF000 }) c
  | 0x004 => respill (d.modCtx c fun x => { x with spillsize := v &&& 0x1F }) c
  | 0x005 => d.modCtx c fun x => { x with framebase := v &&& 0x01FFFFFFFFFC0000 }
  | 0x006 => d.modCtx c fun x => { x with trapnode := v &&& 0x07FFFFFD }
  | 0x007 => d.modCtx c fun x => { x with faultq := v &&& 0x01FFFFFFFFFFF00F }
  | 0x008 => notFree ((d.modCtx c fun x => { x with prio := v &&& 3 }).modGraph c fun g => { g with newPrio := true })
  | 0x009 => notFree (d.modCtx c fun x => { x with weight := if v &&& 0xFF = 0 then 1 else v &&& 0xFF })
  | 0x00B => d.modCtx c fun x => { x with hotdecay := v &&& 0xFFFFFFFF }
  | _ => d
where
  /-- A PARKED context whose MSFULL has been handled: its tables are rebuilt where they now fit (R411). -/
  respill (d : Dev) (c : Nat) : Dev :=
    let g := d.graph c
    let base := fld (d.ctx c).spillbase.toNat 21 12 * 2 ^ 12
    let logn := fld (d.ctx c).spillsize.toNat 4 0
    if g.st == .parked && g.msfull.isNone && g.ending.isNone && decide (6 ≤ logn) && decide (logn ≤ 14) && tablesFit d c base logn then enlarge d c base logn
    else d

/-! ### Per-page and per-die registers (R49) -/

/-- A write to a per-page register; one of a page that no load holds is ignored (R196). -/
def writePage (d : Dev) (pg num : Nat) (v : Word64) : Dev :=
  if (d.page pg).cid.isNone then d
  else match num with
    | 0x102 => d.modPage pg fun p => { p with cycles := v }
    | 0x103 => d.modPage pg fun p => { p with stall := [0, 0, 0, 0, 0] }
    | 0x104 => d.modPage pg fun p => { p with tlb := [], miss := 0 }
    | _ => d

def writeDie (d : Dev) (k num : Nat) (v : Word64) : Dev :=
  match num with
  | 0x200 => d.modDie k fun x => { x with log := x.log.drop 1 }
  | 0x201 => d.modDie k fun x => { x with ovf := v.getLsbD 63, uncorr := fld v.toNat 62 32, corr := fld v.toNat 31 0 }
  | 0x202 => d.modDie k fun x => { x with errwin := v &&& 0xFFFFFFFF0000FFFF }
  | _ => d

/-- The scope of a register number; none where it is not listed (R44). -/
inductive RegScope where
  | ctx | page | die
  deriving DecidableEq, Repr

def regScope (num : Nat) : Option RegScope :=
  if num ≤ 0x00B then some .ctx else if 0x100 ≤ num ∧ num ≤ 0x104 then some .page else if 0x200 ≤ num ∧ num ≤ 0x202 then some .die else none

/-- A write to a register of a target: a CID, a page of the package or a die. -/
def writeReg (d : Dev) (num tgt : Nat) (v : Word64) : Dev :=
  match regScope num with
  | some .ctx => writeCtx d tgt num v
  | some .page => writePage d tgt num v
  | some .die => writeDie d tgt num v
  | none => d

/-- What a register of a target reads. -/
def readReg (d : Dev) (num tgt : Nat) : Nat :=
  match regScope num with
  | some .ctx => ((ctxReg (d.ctx tgt) num).map BitVec.toNat).getD 0
  | some .page => (pageReg d tgt num).getD 0
  | some .die => (dieReg d tgt num).getD 0
  | none => 0

end Sys2Proof.Machine
end

