-- ==== Sys2Proof/Machine/System.lean ====
section
/-! DEFINITION. Meanings of the launch, completion, trap and system instructions (R190 to R200). -/

namespace Sys2Proof.Machine

/-! ### Launch and waits (R191, R192) -/

/-- The operands of LAUNCH: the record's VA and the target. -/
def launchOpnds (x : Fire) : Option (Nat × Nat) :=
  match lane64? x.lPay 0, lane32? x.lPay 2 with
  | some va, some c => some (va, c % 64)
  | _, _ => none

/-- LAUNCH reads its record once every earlier access of the page is performed at SYS, and hands it to the loader. -/
def execLaunch (n : NodeRec) (s : State) : Out :=
  lift (fire (.launch n) n
    { ports := portsOf (.launch n) n
      waits := fun x d => (launchOpnds x).isSome && !(d.page x.pg).accs.all fun a => a.acc.isNone || a.perfAt d .sys
      check := fun x d =>
        match launchOpnds x with
        | none => some .illop
        | some (va, _) => match vaRead d (.span x.key) (x.pg / 80) x.cid va 64 with
          | .error e => some e.1
          | .ok _ => none
      addr := fun x _ => ((launchOpnds x).map (·.1)).getD 0
      onFault := fun x d => match launchOpnds x with | some (va, _) => logRefused d (x.pg / 80) x.cid va .rd | none => d
      act := fun x d =>
        match launchOpnds x with
        | none => d
        | some (va, tgt) => match vaRead d (.span x.key) (x.pg / 80) x.cid va 64 with
          | .error _ => d
          | .ok bs =>
            let st := launchStatus d tgt (some x.cid)
            let g := launchGen d tgt st
            let d := countRun (tock (emitData x (lanesThen x.lanes [st, g.toNat, tgt]) d)) (x.pg / 80) x.cid 4 va 64
            if st = 0 then launchNow d tgt (recOf (numOf bs)) else d }) s

/-- WAITL registers a wait (R192). -/
def execWaitl (n : NodeRec) (s : State) : Out :=
  lift (fire (.waitl n) n
    { ports := portsOf (.waitl n) n
      waits := fun x d => decide (16 ≤ ((d.hold x.cid).waits.filter fun w => w.span == x.key && w.node == x.f.node).length)
      check := fun x _ => firstFault' [(lane32? x.lPay 0).isNone, (lane32? x.lPay 1).isNone]
      act := fun x d =>
        let (sq, d) := if x.dests.isEmpty then (x.o.seq, d) else takeSeq x d
        let t := mkTok x sq .data 0 (List.replicate x.lanes Lane.none)
        d.modHold x.cid fun h => { h with waits := h.waits ++
          [⟨x.key, x.f.node, (lane32? x.lPay 0).getD 0 % 64, BitVec.ofNat 32 ((lane32? x.lPay 1).getD 0), x.dests.map fun t' => { t with dest := t' }, d.now.toNat⟩] } }) s
where
  firstFault' (l : List Bool) : Option FCode := if l.any id then some .illop else none

/-- The completion of generation g, or of a later one, releases a wait (R192): from the cycle after the firing on. -/
def waitDone (d : Dev) (w : Wait) : Bool := decide (((d.graph w.cid).gen - w.g).toNat < 2 ^ 31) && decide (w.since < d.now.toNat)

/-- WAITL_RELEASE: status and cause of g, or 0 and 4 where a later generation has completed. -/
def execWaitlRelease (s : State) : Out :=
  lift (fun d =>
    match d.occ with
    | .wait c k =>
      match (d.hold c).waits[k]? with
      | some w =>
        let g := d.graph c
        if !waitDone d w || g.ending.isSome || g.st == .stopped then d
        else
          let tg := d.graph w.cid
          let vals := if tg.gen = w.g then [tg.status.toNat, tg.cause.toNat, w.g.toNat] else [0, 4, w.g.toNat]
          let toks := w.toks.map fun t => { t with payload := lanesThen t.payload.length vals }
          let here := (g.st == .resident || g.st == .parked)
          if here && !hasSpace d w.span toks.length then d
          else
            let d := d.modHold c fun h => { h with waits := dropNth k h.waits }
            if here then toks.foldl (fun d t => send d (.span w.span) t) d
            else d.modHold c fun h => { h with toks := h.toks ++ toks }
      | none => d
    | _ => d) s

/-! ### DONE, HALT, TRAP, BRK, YIELD (R193, R195, R197, R199) -/

def lane0 (x : Fire) : Nat := (lane32? x.lPay 0).getD 0

def execDoneGraph (n : NodeRec) (s : State) : Out :=
  lift (fire (.doneGraph n) n
    { ports := portsOf (.doneGraph n) n, act := fun x d => endGraph d x.cid .graph (BitVec.ofNat 32 (lane0 x)) }) s

def execDoneNext (n : NodeRec) (s : State) : Out :=
  lift (fire (.doneNext n) n
    { ports := portsOf (.doneNext n) n, act := fun x d => endGraph d x.cid .next (BitVec.ofNat 32 (lane0 x)) }) s

/-- TRAP traps its frame with CODE and lane 0 of L (R195, R407). -/
def execTrap (n : NodeRec) (s : State) : Out :=
  lift (fire (.trap n) n
    { ports := portsOf (.trap n) n, act := fun x d => fireFault x .trap d 0 (fld x.lit 15 0) (lane0 x) }) s

/-- BRK traps its frame likewise and sets the context's breakpoint flag (R195, R476). -/
def execBrk (n : NodeRec) (s : State) : Out :=
  lift (fire (.brk n) n
    { ports := portsOf (.brk n) n
      act := fun x d =>
        let d := fireFault x .brk d 0 (fld x.lit 15 0) (lane0 x)
        { d with glob := { d.glob with brkst := d.glob.brkst ||| BitVec.ofNat 64 (2 ^ x.cid) } } }) s

def execYield (n : NodeRec) (s : State) : Out :=
  lift (fire (.yield n) n
    { ports := portsOf (.yield n) n
      act := fun x d => notFree ((emitL x d).modGraph x.cid fun g => { g with yielded := true }) }) s

def execHalt (n : NodeRec) (s : State) : Out :=
  lift (fire (.halt n) n
    { ports := portsOf (.halt n) n, act := fun x d => haltGraph d x.cid (BitVec.ofNat 32 (fld x.lit 15 0)) }) s

/-! ### RDSR and WRSR (R45, R196) -/

/-- The target of a register node: with OTHER, named by R lane 0; else the node's own context, page or die. None where a page does not exist or the
lane is invalid. -/
def regTarget (x : Fire) (sc : RegScope) : Option Nat :=
  if bitAt x.lit 12 then
    match lane32? x.rPay 0 with
    | none => none
    | some v => match sc with
      | .ctx => some (fld v 5 0)
      | .page => if fld v 6 0 ≤ 79 then some (fld v 9 8 * 80 + fld v 6 0) else none
      | .die => some (fld v 9 8)
  else match sc with
    | .ctx => some x.cid
    | .page => some x.pg
    | .die => some (x.pg / 80)

/-- What a register node is refused for: an unlisted register, a target that is none, or a privilege (R44, R45, R196). -/
def regFault (x : Fire) (d : Dev) (wr : Bool) : Option FCode :=
  let num := fld x.lit 11 0
  match regScope num with
  | none => some .illop
  | some sc =>
    if !(d.ctx x.cid).priv && (bitAt x.lit 12 || sc == .die || (wr && num != 1)) then some .priv
    else if (regTarget x sc).isNone || (wr && (lane64? x.lPay 0).isNone) then some .illop
    else none

def regOf (x : Fire) : Nat × Nat :=
  let num := fld x.lit 11 0
  (num, match regScope num with | some sc => (regTarget x sc).getD 0 | none => 0)

/-- A 64-bit value in lanes 0 and 1. -/
def emit64 (x : Fire) (v : Nat) (d : Dev) : Dev := emitData x (lanesThen x.lanes [v % 2 ^ 32, v / 2 ^ 32 % 2 ^ 32]) d

def execRdsr (n : NodeRec) (s : State) : Out :=
  lift (fire (.rdsr n) n
    { ports := portsOf (.rdsr n) n
      check := fun x d => regFault x d false
      act := fun x d => emit64 x (readReg d (regOf x).1 (regOf x).2) d }) s

/-- WRSR writes the register and emits its value after the write. -/
def execWrsr (n : NodeRec) (s : State) : Out :=
  lift (fire (.wrsr n) n
    { ports := portsOf (.wrsr n) n
      check := fun x d => regFault x d true
      act := fun x d =>
        let d := writeReg d (regOf x).1 (regOf x).2 (BitVec.ofNat 64 ((lane64? x.lPay 0).getD 0))
        emit64 x (readReg d (regOf x).1 (regOf x).2) d }) s

/-! ### RESUME: RETURNING FROM A FAULT (R198, R405) -/

/-- The 32 bytes that L gives; an invalid lane reads zero. -/
def resumeIdent (x : Fire) : Nat := ((List.range 8).map fun j => (lane32? x.lPay j).getD 0 * 2 ^ (32 * j)).sum

/-- The context that the record's HDR names. -/
def resumeCid (x : Fire) : Nat := fld (resumeIdent x) 191 186

/-- The outstanding fault that these bytes identify. -/
def resumeFault (x : Fire) (d : Dev) : Option FaultRec :=
  (d.graph (resumeCid x)).faults.find? fun r => r.ident == resumeIdent x && decide (r.fid ≠ 0)

/-- The accesses that a fault holds are issued again: at once where the load is resident, at the restore otherwise. -/
def reissueFault (d : Dev) (c fid : Nat) : Dev :=
  match (d.graph c).load, (d.graph c).save with
  | some l, _ =>
    l.pages.foldl (fun d pg => ((d.page pg).accs.filter fun a => a.fault == some fid).foldl (fun d a => reissue d pg a) d) d
  | none, some _ => modSave d c fun s =>
      { s with pages := s.pages.map fun e =>
          (e.1, { e.2 with accs := e.2.accs.map fun a => if a.fault == some fid then { a with fault := none, retry := true } else a }) }
  | none, none => d

/-- A fault holds an access of a port, of a load resident or saved. -/
def holdsAccess (d : Dev) (c fid : Nat) : Bool :=
  let has := fun p : Page => p.accs.any fun a => a.fault == some fid
  match (d.graph c).load, (d.graph c).save with
  | some l, _ => l.pages.any fun p => has (d.page p)
  | none, some s => s.pages.any fun e => has e.2
  | none, none => false

/-- A retry of an XLAT that was kept with its L token (R220): the token of the record's header, at the place of its LOC, and the other operands of its
tag become live, so that the XLAT fires again, whatever else its frame still waits for. -/
def wakeXlat (r : FaultRec) (p : Page) : Page :=
  let here := fun e : Entry => p.px * 8 + e.tok.dest.fe % 8 == fld r.loc 7 0 && p.py * 8 + e.tok.dest.fe / 8 == fld r.loc 15 8 && e.tok.dest.node == fld r.loc 25 16
  match p.toks.find? fun e => e.parked && here e && e.tok.header == r.hdr with
  | none => p
  | some l =>
    { p with toks := p.toks.map fun e =>
        if here e && (e.tok.tag == l.tok.tag || (e.tok.ma == .sticky && e.tok.tag.frame == l.tok.tag.frame)) then { e with parked := false } else e }

/-- The fault is no longer outstanding; the frame's tokens become live with its last one. -/
def resolveFault (d : Dev) (c : Nat) (r : FaultRec) : Dev :=
  let xlat := r.port && !holdsAccess d c r.fid
  let d := if r.port then modAnyPages d c fun p => queueHeld d p else d
  let d := d.modGraph c fun g => { g with faults := g.faults.filter (·.fid != r.fid) }
  let d := reissueFault d c r.fid
  match r.frame with
  | some f => if !d.parkedFrame c f then reviveFrame d c f else if xlat then modAnyPages d c (wakeXlat r) else d
  | none => d

/-- Every outstanding fault of the frame is resolved, its tokens and held accesses go, and it joins the pool; with frame 0 the pins go (R221). -/
def killFrame (d : Dev) (c : Nat) (frame : BitVec 14) : Dev :=
  let d := killTokens d c frame
  let d := d.modGraph c fun g => { g with faults := g.faults.filter fun r => !(r.frame == some frame) }
  if frame = 0 then d.modHold c fun h => { h with pins := [] }
  else d.modGraph c fun g => { g with pool := g.pool ++ [frame] }

/-- What each action does to the fault it names, and the status it emits. -/
def resumeWith (act : Nat) (x : Fire) (d : Dev) : Dev :=
  let c := resumeCid x
  let (st, d) := match resumeFault x d with
    | none => (1, d)
    | some r =>
      if act = 0 then (if r.port then (0, resolveFault d c r) else (2, d))
      else if act = 1 then (if r.port || r.frame.isNone then (2, d) else (0, resolveFault d c r))
      else match r.frame with
        | some f => (0, killFrame d c f)
        | none => (2, d)
  emitData x (lanesThen x.lanes [st]) d

def execResumeRetry (n : NodeRec) (s : State) : Out :=
  lift (fire (.resumeRetry n) n { ports := portsOf (.resumeRetry n) n, act := resumeWith 0 }) s
def execResumeRelease (n : NodeRec) (s : State) : Out :=
  lift (fire (.resumeRelease n) n { ports := portsOf (.resumeRelease n) n, act := resumeWith 1 }) s
def execResumeKill (n : NodeRec) (s : State) : Out :=
  lift (fire (.resumeKill n) n { ports := portsOf (.resumeKill n) n, act := resumeWith 2 }) s

end Sys2Proof.Machine
end

