-- ==== Sys2Proof/Machine/RegSteps.lean ====
section
/-! DEFINITION. Meanings of register writes that come from outside a node: the system registers (R44 to R51, R393, R411), the registers of the
control aperture (R345, R442, R464, R475, R476, R526), the host's own registers and windows (R388, R465, R466), and the context commands
(R476). -/

namespace Sys2Proof.Machine

/-! ### Who writes, and when -/

/-- A step of the host, of system software or of another package: nothing is accepted before the images run (R471). -/
def booted (f : Dev → Dev) (s : State) : Out := if s.sec.boot = 1 then lift f s else .next s

/-- A target that a register number has: a context, a page or a die. -/
def targetOk (num tgt : Nat) : Bool :=
  match regScope num with
  | some .ctx => decide (tgt < 64)
  | some .page => decide (tgt < 320)
  | some .die => decide (tgt < 5)
  | none => false

/-- A write of a system register from outside, for the registers that a step is about. The tables of the control aperture (R475, R476) give these registers no offset: that
the host reaches them by number and target, beside the aperture, is the model's choice (DESIGN CHOICE, log 83; reads: `regRead`). -/
def regStep (mine : Dev → Nat → Nat → Word64 → Bool) (s : State) : Out :=
  booted (fun d => match d.occ with
    | .reg num tgt v => if targetOk num tgt && mine d num tgt v then writeReg d num tgt v else d
    | _ => d) s

def setsEn (d : Dev) (num tgt : Nat) (v : Word64) : Bool := num == 0 && v.getLsbD 0 && !(d.ctx tgt).en
def clearsEn (d : Dev) (num tgt : Nat) (v : Word64) : Bool := num == 0 && !v.getLsbD 0 && (d.ctx tgt).en
def respills (d : Dev) (num tgt : Nat) (_ : Word64) : Bool := (num == 3 || num == 4) && (d.graph tgt).st == .parked

def execCtxcfgEnSet (s : State) : Out := regStep setsEn s
def execCtxcfgEnClear (s : State) : Out := regStep clearsEn s
def execStallcntWrite (s : State) : Out := regStep (fun _ n _ _ => n == 0x103) s
def execTlbctlWrite (s : State) : Out := regStep (fun _ n _ _ => n == 0x104) s
def execErrlogWrite (s : State) : Out := regStep (fun _ n _ _ => n == 0x200) s
def execPrioWrite (s : State) : Out := regStep (fun _ n _ _ => n == 8) s
def execWeightWrite (s : State) : Out := regStep (fun _ n _ _ => n == 9) s
def execSpillRegisterWrite (s : State) : Out := regStep respills s

/-- A register write that no other step is about. -/
def plainReg (d : Dev) (num tgt : Nat) (v : Word64) : Bool :=
  !setsEn d num tgt v && !clearsEn d num tgt v && !respills d num tgt v && !([0x103, 0x104, 0x200, 8, 9] : List Nat).contains num

/-! ### The control aperture (R475, R526) -/

/-- The write to the control aperture that a step carries out: the host's, once the parts of an earlier one have been; or such a part, or the next that a system context's
store has queued. -/
def ctlOf (d : Dev) : Option (CtlWrite × Dev) :=
  match d.occ, d.host.pieces, d.ctlq with
  | .aperture w, [], _ => some (w, d)
  | .queued, w :: r, _ => some (w, { d with host := { d.host with pieces := r } })
  | .queued, [], w :: r => some (w, { d with ctlq := r })
  | _, _, _ => none

/-- The parts of a write of more than 8 bytes that lie in different registers. -/
def CtlWrite.pieces (w : CtlWrite) : List CtlWrite :=
  (List.range ((w.off + w.size + 7) / 8 - w.off / 8)).map fun k =>
    let a := max w.off ((w.off / 8 + k) * 8)
    let b := min (w.off + w.size) ((w.off / 8 + k + 1) * 8)
    ⟨a, b - a, fld w.val (8 * (b - w.off) - 1) (8 * (a - w.off))⟩

/-- A host write of registers that is longer than one. -/
def CtlWrite.wide (w : CtlWrite) : Bool := decide (8 < w.size) && decide (w.off < 0x800000)

/-- A write covers a register whole. -/
def CtlWrite.whole (w : CtlWrite) : Bool := w.size == 8 && w.off % 8 == 0
def CtlWrite.word (w : CtlWrite) : Word64 := BitVec.ofNat 64 w.val

/-- A write of at most 8 bytes that touches a register and does not cover it whole. -/
def CtlWrite.partly (w : CtlWrite) : Bool :=
  !w.whole && decide (w.off < 0x800000) && decide (w.size ≤ 8) && decide (0 < w.size)
  && (isCtlReg (w.off / 8 * 8) || isCtlReg ((w.off + w.size - 1) / 8 * 8))

/-- A whole write of the registers that a step is about; a queued write leaves the queue. -/
def ctlStep (mine : Dev → CtlWrite → Bool) (act : Dev → CtlWrite → Dev) (s : State) : Out :=
  booted (fun d => match ctlOf d with
    | some (w, d') => if mine d w then act d' w else d
    | none => d) s

def whole (p : Nat → Word64 → Bool) (_ : Dev) (w : CtlWrite) : Bool := w.whole && p w.off w.word

/-! ### Leaven registers (R345) -/

def modLv (d : Dev) (f : LvRegs → LvRegs) : Dev := { d with leaven := { d.leaven with regs := f d.leaven.regs } }

/-- LVSHCMD: ignored while BUSY; else a shoot-down of N pages from LVSHVA, or of every translation of CID. -/
def lvShoot (d : Dev) (w : CtlWrite) : Dev :=
  if d.leaven.shoots.any (·.cmd) then d
  else
    let v := w.val
    let d := modLv d fun r => { r with shcmd := w.word &&& 0x0000013FFFFFFFFF }
    if bitAt v 40 then startShoot d (fld v 37 32) 0 none true none
    else startShoot d (fld v 37 32) (fld d.leaven.regs.shva.toNat 56 16 * 2 ^ 16) (some (fld v 31 0 * 2 ^ 16)) true none

def execLvshcmdRange (s : State) : Out := ctlStep (whole fun o v => o == 0x10038 && !v.getLsbD 40) lvShoot s
def execLvshcmdAll (s : State) : Out := ctlStep (whole fun o v => o == 0x10038 && v.getLsbD 40) lvShoot s
def execLvstatWrite (s : State) : Out := ctlStep (whole fun o _ => o == 0x10058) (fun d _ => modLv d fun r => { r with stat := 0 }) s

/-- The other Leaven registers, with their reserved bits clear. -/
def writeLv (d : Dev) (o : Nat) (v : Word64) : Dev :=
  modLv d fun r =>
    match o with
    | 0x000 => { r with ctl := v &&& 0xFFFFFFFFFFFFFF03 }
    | 0x008 => { r with thr := v &&& 0xFFFFFFFF00FFFFFF }
    | 0x010 => { r with auto := v }
    | 0x018 => { r with ftb := v &&& 0x000FFFFF80000001 }
    | 0x020 => { r with frb := v &&& 0x000FFFFFFFFFF001 }
    | 0x028 => { r with wmark := v &&& 0x0000FFFFFFFFFFFF }
    | 0x030 => { r with shva := v &&& 0x01FFFFFFFFFF0000 }
    | 0x040 => { r with cst := v &&& 0x000FFFFFFFFFC001 }
    | 0x048 => { r with rbt := v &&& 0x000FFFFFFFFFFC01 }
    | 0x050 => { r with xrt := v &&& 0x000FFFFFFFFFFC01 }
    | _ => r

/-! ### Sterabel registers (R464) -/

def port (d : Dev) (k : Nat) : SbPort := d.sb.ports.getD k {}
def putPort (d : Dev) (k : Nat) (p : SbPort) : Dev := { d with sb := { d.sb with ports := d.sb.ports.set k p } }

/-- A port changes state: its lanes follow, and a change is an event (R456, R477). What the retry buffer of a port that goes down holds waits for another port of its
mask (R459). -/
def setPort (d : Dev) (k st lanes : Nat) : Dev :=
  let p := port d k
  let falls := (p.state == 2 || p.state == 3) && st != 2 && st != 3
  let d := putPort d k { p with state := st, lanes, tries := 0, down := if falls then d.now.toNat else p.down }
  let d := if falls then { d with sb := { d.sb with out := d.sb.out.map fun o => if o.at_ == .sent k then { o with at_ := .waiting } else o } } else d
  if p.state = st then d else raiseEvent d 4 ⟨4, 7, k, 0, 0⟩

def isSbpst (o : Nat) : Bool := decide (0x20400 ≤ o) && decide (o < 0x20600) && o % 8 == 0

/-- Any write to SBPST clears its counters. -/
def clearPort (d : Dev) (k : Nat) : Dev := putPort d k { port d k with fecc := 0, crcf := 0, retry := 0 }
def portNo (w : CtlWrite) : Nat := (w.off - 0x20400) / 8

def sbEn (d : Dev) : Bool := d.sb.ctl.getLsbD 0

def execSbpstDisable (s : State) : Out :=
  ctlStep (whole fun o v => isSbpst o && v.toNat % 8 == 4) (fun d w => setPort (clearPort d (portNo w)) (portNo w) 4 0) s

/-- Training starts, unless Sterabel is disabled: then every port is held down. -/
def execSbpstTrain (s : State) : Out :=
  ctlStep (whole fun o v => isSbpst o && v.toNat % 8 == 1)
    (fun d w => let d := clearPort d (portNo w); if sbEn d then setPort d (portNo w) 1 0 else d) s

def execSbpstClearCounters (s : State) : Out :=
  ctlStep (whole fun o v => isSbpst o && v.toNat % 8 != 4 && v.toNat % 8 != 1) (fun d w => clearPort d (portNo w)) s

def execSbidWrite (s : State) : Out :=
  ctlStep (whole fun o _ => o == 0x20008) (fun d w => if sbEn d then d else { d with sb := { d.sb with id := w.word &&& 0x7FF } }) s

/-- SBCTL as stored. -/
def writeSbctl (d : Dev) (v : Word64) : Dev := { d with sb := { d.sb with ctl := v &&& 0x0000FFFFFFFF0001 } }

/-- A change of SBCTL.EN: every port is held down, or the ports are released to train. A disabled port stays so. -/
def execSbctlEnWrite (s : State) : Out :=
  ctlStep (fun d w => w.whole && w.off == 0x20000 && w.word.getLsbD 0 != sbEn d)
    (fun d w =>
      let st := if w.word.getLsbD 0 then 1 else 0
      (List.range 64).foldl (fun d k => if (port d k).state = 4 then d else setPort d k st 0) (writeSbctl d w.word)) s

/-! ### Context commands and breakpoints (R476) -/

/-- The result of a command: done, or not applicable in the context's state. -/
def setRes (d : Dev) (cid cmd res : Nat) : Dev := { d with glob := { d.glob with cmdCid := cid, cmd, cmdRes := res } }

def cmdStep (cmd : Nat) (ok : Dev → Nat → Bool) (act : Dev → Nat → Dev) (s : State) : Out :=
  ctlStep (whole fun o v => o == 0x10 && v.toNat % 8 == cmd)
    (fun d w =>
      let c := fld w.val 37 32
      if ok d c then setRes (act d c) c cmd 0 else setRes d c cmd 1) s

def hasGraph (d : Dev) (c : Nat) : Bool :=
  let g := d.graph c
  (g.st == .queued || g.st == .resident || g.st == .parked) && g.ending.isNone

/-- Pre-empt: a request, for a context that is RESIDENT or PARKED and eligible (R413). -/
def execCtxcmdPreempt (s : State) : Out :=
  cmdStep 1
    (fun d c =>
      let g := d.graph c
      (g.st == .resident || g.st == .parked) && g.ending.isNone && g.preempt.isNone && !g.skip
      && (match g.load with | some l => saveFits d c (captureLoad d c l 1) | none => false))
    (fun d c => { d with loader := { d.loader with asks := if d.loader.asks.contains c then d.loader.asks else d.loader.asks ++ [c] } }) s

def execCtxcmdHalt (s : State) : Out := cmdStep 2 hasGraph (fun d c => haltGraph d c 0) s

/-- Clear a STOPPED context: it completes with cause 1 (R199). -/
def execCtxcmdClear (s : State) : Out :=
  cmdStep 3 (fun d c => (d.graph c).st == .stopped && (d.graph c).ending.isNone)
    (fun d c => endGraph d c .clear ((d.graph c).halt.getD 0)) s

/-- Kill: EN is cleared (R51). -/
def execCtxcmdKill (s : State) : Out :=
  cmdStep 4 (fun d c => (d.ctx c).en) (fun d c => writeCtx d c 0 ((d.ctx c).cfg &&& ~~~(1 : Word64))) s

def execBrkstClear (s : State) : Out :=
  ctlStep (whole fun o _ => o == 8) (fun d w => { d with glob := { d.glob with brkst := d.glob.brkst &&& ~~~w.word } }) s

/-- DBGCTL with EN written 0 and WERR written 1. -/
def execDbgctlWerrClear (s : State) : Out :=
  ctlStep (whole fun o v => o == 0x18 && !v.getLsbD 0 && v.getLsbD 1) (fun d _ => { d with glob := { d.glob with dbgEn := false, dbgWerr := false } }) s

/-! ### The debug window (R482 to R484) -/

def inDebug (o : Nat) : Bool := decide (0x1000000 ≤ o) && decide (o < 0x3000000)

def execDebugWindowWrite (s : State) : Out :=
  ctlStep (fun _ w => inDebug w.off) (fun d w => debugWrite d (w.off - 0x1000000) (bytesOf w.val w.size)) s

/-! ### BAR 0 outside the aperture (R388, R465) -/

/-- Aligned 4-byte granules that a host write covers: offset and bytes. -/
def wordsOf (off : Nat) (bs : List Byte) : List (Nat × List Byte) :=
  (List.range ((off + bs.length + 3) / 4 - off / 4)).filterMap fun k =>
    let o := (off / 4 + k) * 4
    if off ≤ o ∧ o + 4 ≤ off + bs.length then some (o, (bs.drop (o - off)).take 4) else none

def putWord512 (v : BitVec 512) (o : Nat) (bs : List Byte) : BitVec 512 := BitVec.ofNat 512 (setFld v.toNat (8 * o + 31) (8 * o) (natOfBytes bs))

/-- LREC and IREC take the granules of a host write. -/
def windowStore (d : Dev) (off : Nat) (bs : List Byte) : Dev :=
  (wordsOf off bs).foldl (fun d (o, b) =>
    let c := o / 4096
    let r := o % 4096
    if c ≥ 256 then d
    else if r < 0x40 then { d with host := { d.host with wins := d.host.wins.set c (let w := d.host.wins.getD c {}; { w with lrec := putWord512 w.lrec r b }) } }
    else if 0x80 ≤ r ∧ r < 0xC0 then
      { d with host := { d.host with wins := d.host.wins.set c (let w := d.host.wins.getD c {}; { w with irec := putWord512 w.irec (r - 0x80) b }) } }
    else d) d

/-- The channel whose word at `r` a write touches. -/
def touches (off n r : Nat) : Option Nat :=
  (List.range ((off + n) / 4096 + 1 - off / 4096)).findSome? fun k =>
    let o := (off / 4096 + k) * 4096 + r
    if decide (off < o + 4) && decide (o < off + n) && decide (o < 0x100000) then some (o / 4096) else none

/-- The MSI-X table takes a write; pending vectors that it unmasks are sent (PCIe Base Specification). -/
def msixStore (d : Dev) (off : Nat) (bs : List Byte) : Dev :=
  let d := (indexed bs).foldl (fun d (k, b) =>
    if off + k < 0x8000 then { d with host := { d.host with msixTab := setStoreByte d.host.msixTab (off + k) b } } else d) d
  let free := d.host.msixPend.filter fun v => !bitAt (d.host.msixTab.getD (16 * v + 12) 0).toNat 0
  free.foldl (fun d v => sendMsix { d with host := { d.host with msixPend := delNat d.host.msixPend v } } v) d

/-- A host write to BAR 0 outside the aperture, RING and IRING apart. -/
def bar0Store (d : Dev) (off : Nat) (bs : List Byte) : Dev :=
  if off < 0x100000 then windowStore d off bs
  else if off < 0x180000 then msixStore d (off - 0x100000) bs
  else if off ≤ 0x200000 ∧ 0x200008 ≤ off + bs.length then
    { d with host := { d.host with hwbase := BitVec.ofNat 64 (natOfBytes ((bs.drop (0x200000 - off)).take 8)) &&& 0x000FFFFC00000000 } }
  else d

/-- A write to HWBASE or HSTAT that does not cover the register whole (R526). -/
def bar0Partly (off n : Nat) : Bool :=
  ([0x200000, 0x200008] : List Nat).any fun r => decide (off < r + 8) && decide (r < off + n) && !(decide (off ≤ r) && decide (r + 8 ≤ off + n))

/-! ### REGISTER_WRITE and PARTIAL_REGISTER_WRITE -/

/-- Aperture writes that no other step is about. -/
def plainCtl (d : Dev) (w : CtlWrite) : Bool :=
  !inDebug w.off && !w.partly && !w.wide
  && !(w.whole && (w.off == 0x10038 || w.off == 0x10058 || isSbpst w.off || w.off == 0x20008 || w.off == 8
       || (w.off == 0x20000 && w.word.getLsbD 0 != sbEn d) || (w.off == 0x10 && decide (1 ≤ w.val % 8) && decide (w.val % 8 ≤ 4))
       || (w.off == 0x18 && (w.word.getLsbD 0 || w.word.getLsbD 1))))

/-- A register that stores what is written; one that is read only, or reserved, stays as it is. -/
def storeCtl (d : Dev) (w : CtlWrite) : Dev :=
  let v := w.word
  if 0x800000 ≤ w.off then recoverStore d w.off (bytesOf w.val w.size)
  else if !w.whole then d
  else if w.off = 0x10 then setRes d (fld w.val 37 32) (w.val % 8) d.glob.cmdRes
  else if w.off = 0x18 then { d with glob := { d.glob with dbgEn := false } }
  else if w.off = 0x20 then { d with glob := { d.glob with dbgsel := v &&& 0xF380FFFFFFFFFFFF } }
  else if 0x10000 ≤ w.off ∧ w.off < 0x20000 then writeLv d (w.off - 0x10000) v
  else if w.off = 0x20000 then writeSbctl d v
  else if 0x22000 ≤ w.off ∧ w.off < 0x24000 then { d with sb := { d.sb with rt := d.sb.rt.set ((w.off - 0x22000) / 8) v } }
  else if w.off = 0x30000 then { d with rt := { d.rt with sfctl := v &&& 0x1FF } }
  else if w.off = 0x30008 then { d with rt := { d.rt with sfqtb := v &&& 0x000FFFFFFFFFFC01 } }
  else if 0x30040 ≤ w.off ∧ w.off < 0x30080 then { d with rt := { d.rt with rkspb := d.rt.rkspb.set ((w.off - 0x30040) / 8) (v &&& 0x000FFFFFF0000001) } }
  else if w.off = 0x54200 then
    -- a limit outside 1,000 to 5,400 is open
    (let v := w.val % 2 ^ 16
     let (v, d) := if 1000 ≤ v ∧ v ≤ 5400 then (v, d) else freeNat 16 d
     d.modDie 4 fun x => { x with plim := v })
  else d

/-- The function's configuration space (R465, R468): BAR 2 takes a size that it has, 16 GiB to 8 TiB; and system software's extents of a CXL device (R469): one that is added
holds what its device's memory holds. -/
def configure (d : Dev) (c : HostCfg) : Dev :=
  match c with
  | .barSize n => if 34 ≤ n ∧ n ≤ 43 then { d with host := { d.host with barLog := n } } else d
  | .atomicOps on => { d with host := { d.host with atomicOp := on } }
  | .extent k off len contents =>
    let a := 0x100000000000 + k * 0x040000000000 + off
    if k ≥ 4 ∨ len = 0 ∨ off + len > 0x040000000000 then d
    else match contents with
      | none => { d with mem := { d.mem with gone := if d.mem.gone.contains (a, len) then d.mem.gone else d.mem.gone ++ [(a, len)] } }
      | some cs =>
        if !d.mem.gone.contains (a, len) then d
        else
          let inside := fun x : Nat => decide (a ≤ x) && decide (x < a + len)
          let m := { d.mem with gone := d.mem.gone.filter (· != (a, len)), poison := d.mem.poison.filter (!inside ·), cells := d.mem.cells.filter fun e => !inside e.1 }
          { d with mem := { m with cells := (cs.filter fun e => inside e.1).foldl (fun t e => setCell t e.1 e.2) m.cells } }

/-- REGISTER_WRITE: every write of a register that no other step is about. -/
def registerWrite (d : Dev) : Dev :=
  match d.occ with
  | .config c => configure d c
  | .reg num tgt v => if targetOk num tgt && plainReg d num tgt v then writeReg d num tgt v else d
  | .bar0 off bs =>
    if (touches off bs.length 0x40).isSome || (touches off bs.length 0xC0).isSome || bar0Partly off bs.length then d else bar0Store d off bs
  | _ => match ctlOf d with
    | some (w, d') =>
      if w.wide then { d' with host := { d'.host with pieces := w.pieces ++ d'.host.pieces } }
      else if plainCtl d w then storeCtl d' w else d
    | none => d

/-- Until the three images run, a host write of an ingress channel window is refused; and while verification has failed, the host still reaches the recovery buffer (R471,
R472). -/
def earlyWrite (failed : Bool) (d : Dev) : Dev :=
  match d.occ with
  | .aperture w => if failed && decide (0x800000 ≤ w.off) && decide (w.off < 0x1000000) then storeCtl d w else d
  | .bar0 off bs =>
    if decide (off < 0x100000) && !bs.isEmpty && (touches off bs.length 0x40).isNone && (touches off bs.length 0xC0).isNone then raiseEvent d 4 ⟨3, 8, 0, 0, 0⟩ else d
  | _ => d

def execRegisterWrite (s : State) : Out := if s.sec.boot = 1 then lift registerWrite s else lift (earlyWrite (s.sec.boot == 2)) s

/-- A dropped write is an event of KIND 3 of the I/O die (R526). -/
def dropWrite (d : Dev) (addr : Nat) : Dev := raiseEvent d 4 ⟨3, 8, 0, addr, 0⟩

def execPartialRegisterWrite (s : State) : Out :=
  booted (fun d => match d.occ with
    | .bar0 off bs =>
      if bar0Partly off bs.length && (touches off bs.length 0x40).isNone && (touches off bs.length 0xC0).isNone then dropWrite (bar0Store d off bs) 0 else d
    | _ => match ctlOf d with
      | some (w, d') => if w.partly then dropWrite d' (0x200000000000 + w.off) else d
      | none => d) s

end Sys2Proof.Machine
end

