-- ==== Sys2Proof/Machine/Errors.lean ====
section
/-! DEFINITION. Meanings of the steps of errors and sensors: the event arbiters (R477 to R480), lasting faults and spares (R481), poison
containment (R351), rollback containment (R353), throttling and trips (R486, R487). -/

namespace Sys2Proof.Machine

/-! ### Lasting faults (R481) -/

def errCount (x : DieSt) : Nat := fld x.errwin.toNat 15 0
def errSpan (x : DieSt) : Nat := fld x.errwin.toNat 63 32 * 2 ^ 16

def Tracked.isOf (t : Tracked) (e : Event) : Bool := t.src == e.src && t.idx == e.idx && t.unit == e.unit

def lastTime (t : Tracked) : Nat := (t.times.getLast?).getD 0

/-- The tracked sources without the one whose last event is oldest. -/
def dropOldest (l : List Tracked) : List Tracked :=
  match l with
  | [] => []
  | t :: r => (let old := r.foldl (fun a b => if lastTime b < lastTime a then b else a) t; removeFirst (· == old) l)

/-- An event of KIND 1 or 2 is recorded for its source; at most 64 sources are tracked. -/
def trackEvent (l : List Tracked) (e : Event) (now : Nat) : List Tracked :=
  match l.find? (·.isOf e) with
  | some _ => l.map fun t => if t.isOf e then { t with times := (t.times ++ [now]).drop (t.times.length + 1 - 65535) } else t
  | none => (if l.length ≥ 64 then dropOldest l else l) ++ [⟨e.src, e.idx, e.unit, [now]⟩]

/-- COUNT events of the source lie within the window. -/
def isLasting (x : DieSt) (e : Event) : Bool :=
  match x.tracked.find? (·.isOf e) with
  | none => false
  | some t =>
    let n := errCount x
    let ts := t.times.drop (t.times.length - n)
    n != 0 && ts.length == n && decide ((ts.getLast?).getD 0 ≤ (ts.head?).getD 0 + errSpan x)

/-- A port degrades, or is disabled where it is degraded already. -/
def degradePort (d : Dev) (k : Nat) : Dev :=
  match (port d k).state with
  | 2 => setPort d k 3 2
  | 3 => setPort d k 4 0
  | _ => d

/-- What the event of a promotion says, and the source taken offline. Whether a spare is left is open. -/
def promote (d : Dev) (die : Nat) (e : Event) : Dev :=
  let d := d.modDie die fun x => { x with tracked := x.tracked.map fun t => if t.isOf e then { t with times := [] } else t }
  let ev : Event := { e with kind := 5, addr := 0 }
  match e.src with
  | 0 | 1 | 3 | 4 =>
    let (spare, d) := freeNat 1 d
    if spare = 1 then (raiseEvent d die ev).modDie die fun x => { x with remaps := x.remaps ++ [ev] }
    else raiseEvent d die { ev with addr := if e.src ≤ 1 then e.addr else e.unit * 64 }
  | 5 => { raiseEvent d die ev with offTiles := insNat d.offTiles (die * 48 + e.idx) }
  | 6 => (raiseEvent d die ev).modPage (die * 80 + e.idx) fun p => { p with offline := true }
  | 7 => degradePort (raiseEvent d die ev) e.idx
  | _ => raiseEvent d die ev

/-! ### The arbiter (R477, R480) -/

/-- An event takes the die's next number; ERRCNT and the log follow in the same step. -/
def logEvent (x : DieSt) (e : Event) (now : Nat) : DieSt :=
  let x := { x with num := (x.num + 1) % 2 ^ 32, at_ := some now
                    log := if x.log.length < 16 then x.log ++ [⟨e, now, x.num⟩] else x.log
                    ovf := x.ovf || decide (16 ≤ x.log.length)
                    corr := if e.kind = 1 then min (x.corr + 1) (2 ^ 32 - 1) else x.corr
                    uncorr := if e.kind = 2 then min (x.uncorr + 1) (2 ^ 31 - 1) else x.uncorr }
  if e.kind = 1 ∨ e.kind = 2 then { x with tracked := trackEvent x.tracked e now } else x

/-- The event at place `k` of those that a die has received; events of one source, which the repair unit is part of (R481), keep their order. -/
def arbitrate (d : Dev) (die k : Nat) : Dev :=
  let x := d.die die
  match x.events[k]? with
  | none => d
  | some e =>
    if die ≥ 5 ∨ x.at_ == some d.now.toNat ∨ (x.events.take k).any (fun f => f.src == e.src && f.idx == e.idx && f.unit == e.unit) then d
    else
      let y := logEvent { x with events := dropNth k x.events } e d.now.toNat
      let d := d.modDie die fun _ => y
      if (e.kind == 1 || e.kind == 2) && isLasting y e then promote d die e else d

def execEventArbitration (s : State) : Out := lift (fun d => match d.occ with | .die die k => arbitrate d die k | _ => d) s

/-- The copy of a row or line to its spare ends. -/
def execSpareRemapComplete (s : State) : Out :=
  lift (fun d => match d.occ with | .die die k => d.modDie die fun x => { x with remaps := dropNth k x.remaps } | _ => d) s

/-! ### Uncorrectable errors (R351) -/

/-- The poison of a range becomes visible to every party; the bytes stay. -/
def poisonHome (m : Mem) (a n : Nat) : Mem :=
  if m.wlog.isEmpty then { m with poison := setPoison m.poison a n (granules a n) false }
  else (applyEl m .leaven a (homeBytes m a n) (granules a n) false (some .sys)).2

/-- A migration whose destination holds an address has failed there (R340). -/
def abortAt (d : Dev) (a : Nat) : Dev :=
  { d with leaven := { d.leaven with migrs := d.leaven.migrs.map fun m =>
      if (m.phase == .copy || m.phase == .switch) && decide (homeKey d m.dst ≤ a) && decide (a < homeKey d m.dst + m.size) then { m with phase := .abort 1 }
      else m } }

def poisonTok (e : Entry) : Entry := { e with tok := { e.tok with poi := true } }

/-- An error has met tokens that a page holds: they are poisoned, or, under rollback containment, the context rolls back (R351, R353). -/
def poisonToks (d : Dev) (pg : Nat) (hit : Nat → Entry → Bool) : Dev :=
  let cid := (d.cidOf pg).getD 64
  if !(indexed (d.page pg).toks).any (fun e => hit e.1 e.2) then d
  else if rollsBack d cid then meetError d cid
  else d.modPage pg fun p => { p with toks := (indexed p.toks).map fun e => if hit e.1 e.2 then poisonTok e.2 else e.2 }

/-- The tokens of a spill table whose entries an error meets. -/
def poisonTable (d : Dev) (pg off : Nat) : Dev :=
  let n := tableEntry d pg
  let base := (d.page pg).spillBase
  poisonToks d pg fun _ e => match e.place with
    | .table i => decide (base + i * n ≤ off) && decide (off < base + (i + 1) * n)
    | _ => false

/-- The place of an error is poisoned; an event follows on the die that found it. The die and stack of a tier's address are open. -/
def errorAt (d : Dev) (at_ : ErrAt) (uncorr : Bool) (unit : Nat) : Dev :=
  let kind := if uncorr then 2 else 1
  match at_ with
  | .tier pa =>
    let r := regionOf d pa
    if !r.isTier || decide (2 ^ 52 ≤ pa) then d
    else
      let d := if uncorr then abortAt { d with mem := poisonHome d.mem (pa / 4 * 4) 4 } pa else d
      match r with
      | .cxl k => raiseEvent d 4 ⟨kind, 2, k, pa, pa / 8192⟩
      | .hbm => (let (die, d) := freeNat 2 d; let (ix, d) := freeNat 10 d; raiseEvent d die ⟨kind, 0, ix, pa, pa / 8192⟩)
      | _ => (let (die, d) := freeNat 3 d; let (ix, d) := freeNat 10 d; raiseEvent d (die % 5) ⟨kind, 1, ix, pa, pa / 8192⟩)
  | .store pg off =>
    if pg ≥ 320 ∨ off ≥ 2 ^ 22 then d
    else
      let d := if uncorr then poisonTable (d.modPage pg fun p => { p with poison := (granules off 1).foldl insNat p.poison }) pg off else d
      raiseEvent d (pg / 80) ⟨kind, 3, pg % 80, 0, off / 64⟩
  | .weight t off =>
    if t ≥ 192 ∨ off ≥ 2 ^ 24 then d
    else
      let d := if uncorr then d.modTile t fun x => { x with wsPoison := insNat x.wsPoison (off / 64 * 64) } else d
      raiseEvent d (t / 48) ⟨kind, 4, t % 48, 0, off / 64⟩
  | .array t => if t ≥ 192 then d else raiseEvent d (t / 48) ⟨kind, 5, t % 48, 0, unit⟩
  | .node pg =>
    if pg ≥ 320 then d
    else
      let held := (indexed (d.page pg).toks).filter fun e => e.2.place == .store
      let d := if uncorr ∧ !held.isEmpty then poisonToks d pg (fun k _ => some k == (held[unit % held.length]?).map (·.1)) else d
      raiseEvent d (pg / 80) ⟨kind, 6, pg % 80, 0, unit⟩
  | .other die src ix =>
    if die ≥ 5 ∨ src < 7 ∨ src > 12 ∨ ix ≥ 1024 then d else raiseEvent d die ⟨kind, src, ix, 0, unit⟩

def execUncorrectableError (s : State) : Out :=
  lift (fun d => match d.occ with | .err a u k => errorAt d a u k | _ => d) s

/-! ### Rollback (R353) -/

/-- A logged line takes its old contents and poison again. -/
def restoreLine (d : Dev) (l : BitVec 16 × Nat × List Byte × List Nat) : Dev :=
  let key := l.2.1
  if 2 ^ 60 ≤ key then
    let o := key % 2 ^ 22
    d.modPage ((key - 2 ^ 60) / 2 ^ 22) fun p => (let q := p.write o l.2.2.1 false; { q with poison := l.2.2.2.foldl insNat q.poison })
  else
    let d := writeHome d .leaven key l.2.2.1 true
    { d with mem := l.2.2.2.foldl (fun m g => poisonHome m g 4) d.mem }

/-- The frames of a context are parked just where a fault of theirs is outstanding. -/
def reparkAll (d : Dev) (c : Nat) (l : Load) : Dev :=
  let frames := ((l.pages.flatMap fun pg => (d.page pg).toks.map fun e => e.tok.tag.frame)).dedup
  frames.foldl (fun d f => if d.parkedFrame c f then parkFrame d c f else unparkFrame d c f) d

/-- The states of the last complete cut are put back and the tokens recorded for it arrive again (R381): what the page stores, the pages' counters and the ports' work order hold now stays. -/
def restoreCut (d : Dev) (c : Nat) (u : Undo) (cut : Cut) (l : Load) : Dev :=
  let keep := cut.save.pages.map fun e =>
    let now := d.page (l.die * 80 + (l.row + e.1 / 16) * 10 + l.col + e.1 % 16)
    (e.1, { e.2 with store := now.store, poison := now.poison, cycles := now.cycles, stall := now.stall, offline := now.offline, score := []
                     accs := e.2.accs.map fun a => if (d.graph c).faults.any (fun r => some r.fid == a.fault) then a else { a with fault := none } })
  let d := putLoad { d with spans := d.spans.filter fun e => !l.holds (pageOfFe e.1) } c { cut.save with pages := keep } l
  let us := unitsOfLoad d l
  let d := us.foldl (fun d k => d.modSpan k fun sp =>
    { sp with rnd := { sp.rnd with recorded := [], inputs := sp.rnd.inputs.map fun e => (e.1, some (sp.rnd.round - 1)) } }) d
  let n := match us with | k :: _ => (d.span k).rnd.round | [] => 0
  let d := d.modGraph c fun g => { g with pool := cut.pool, islRound := n, ldrRound := n, draining := false, forced := false }
  let d := d.modHold c fun h => { h with
    waits := cut.waits
    undo := some { u with tries := u.tries + 1, hit := false, lines := [], used := 0, begun := [] } }
  raiseEvent (cut.recs.foldl takeIn (reparkAll d c l)) l.die ⟨8, 10, c, 0, 0⟩

/-- ROLLBACK: once a read has met an error, firing stops; when the issued engine tasks are done, the log and the cut are restored. -/
def rollbackStep (d : Dev) (c : Nat) : Dev :=
  let g := d.graph c
  match (d.hold c).undo, g.load with
  | some u, some l =>
    if !u.hit || g.ending.isSome || !(g.st == .resident || g.st == .parked) then d
    else match u.cut with
      | none => d.modHold c fun h => { h with undo := some { u with hit := false } }
      | some cut =>
        if !rollsBack d c then
          -- containment by poison has come into force meanwhile
          (d.modGraph c fun g => { g with draining := false }).modHold c fun h => { h with undo := some { u with hit := false } }
        else if !g.draining then d.modGraph c fun g => { g with draining := true, forced := false }
        else if engineBusy d c then d
        else
          let d := dropNet (dropResults d c) c
          let d := u.lines.reverse.foldl restoreLine d
          restoreCut d c u cut l
  | _, _ => d

def execRollback (s : State) : Out := lift (fun d => match d.occ with | .ctx c => rollbackStep d c | _ => d) s

/-! ### Sensors (R486, R487) -/

/-- The limits of sensor `k` of a die: throttle and trip, in the sensor's unit; none where the die has no such sensor. -/
def sensorLimits (d : Dev) (die k : Nat) : Option (Int × Option Int) :=
  match k with
  | 0 => if die < 5 then some (800, some 920) else none
  | 1 => if die < 4 then some (720, some 800) else if die = 4 then some ((d.die 4).plim, none) else none
  | 2 => if die < 4 then some (720, some 800) else none
  | _ => none

def setSensor (d : Dev) (die k : Nat) (v : Int) (hot : Bool) : Dev :=
  let was := (((d.die die).throttle)[k]?).getD false
  let d := d.modDie die fun x => { x with sensors := modNth (fun _ => v) k x.sensors, throttle := modNth (fun _ => hot) k x.throttle }
  if was == hot then d else raiseEvent d die ⟨10, 12, k, 0, 0⟩

def execThrottleStart (s : State) : Out :=
  lift (fun d => match d.occ with
    | .sensor die k v => (match sensorLimits d die k with
      | some (t, trip) => if decide (t ≤ v) && (trip.map fun x => decide (v < x)).getD true then setSensor d die k v true else d
      | none => d)
    | _ => d) s

def execThrottleEnd (s : State) : Out :=
  lift (fun d => match d.occ with
    | .sensor die k v => (match sensorLimits d die k with
      | some (t, _) => if v < t then setSensor d die k v false else d
      | none => d)
    | _ => d) s

/-- THERMAL_TRIP: every kind of work stops until a cold reset. -/
def execThermalTrip (s : State) : Out :=
  lift (fun d => match d.occ with
    | .sensor die k v => (match sensorLimits d die k with
      | some (_, some t) =>
        if v < t ∨ d.tripped then d
        else
          let d := d.modDie die fun x => { x with sensors := modNth (fun _ => v) k x.sensors, throttle := modNth (fun _ => true) k x.throttle }
          { raiseEvent d die ⟨10, 12, k, 0, 0⟩ with tripped := true }
      | _ => d)
    | _ => d) s

end Sys2Proof.Machine
end

