-- ==== Sys2Proof/Machine/Float.lean ====
section
/-! DEFINITION. Meanings of the floating-point instructions, conversions, complex and dot products (R140 to R148). -/

namespace Sys2Proof.Machine

/-- R140: Floating-point add, rounded once by RNE. -/
def execFadd (n : NodeRec) (s : State) : Out := lift (arith (.fadd n) n resFadd) s

/-- R140: Floating-point subtract. -/
def execFsub (n : NodeRec) (s : State) : Out := lift (arith (.fsub n) n resFsub) s

/-- R140: Floating-point multiply. -/
def execFmul (n : NodeRec) (s : State) : Out := lift (arith (.fmul n) n resFmul) s

/-- R140: Fused multiply-add l*r+c, rounded once. -/
def execFfma (n : NodeRec) (s : State) : Out := lift (arith (.ffma n) n resFfma) s

/-- R140: Fused multiply-subtract l*r-c, rounded once. -/
def execFfms (n : NodeRec) (s : State) : Out := lift (arith (.ffms n) n resFfms) s

/-- R141: Floating-point minimum with NaN and signed-zero rules. -/
def execFmin (n : NodeRec) (s : State) : Out := lift (arith (.fmin n) n resFmin) s

/-- R141: Floating-point maximum with NaN and signed-zero rules. -/
def execFmax (n : NodeRec) (s : State) : Out := lift (arith (.fmax n) n resFmax) s

/-- R140: Floating-point absolute value. -/
def execFabs (n : NodeRec) (s : State) : Out := lift (arith (.fabs n) n resFabs) s

/-- R140: Floating-point negate. -/
def execFneg (n : NodeRec) (s : State) : Out := lift (arith (.fneg n) n resFneg) s

/-- R140: Mask of floating-point equality. -/
def execFcmpeq (n : NodeRec) (s : State) : Out := lift (arith (.fcmpeq n) n resFcmpeq) s

/-- R140: Mask of floating-point less-than. -/
def execFcmplt (n : NodeRec) (s : State) : Out := lift (arith (.fcmplt n) n resFcmplt) s

/-- R140: Mask of floating-point less-or-equal. -/
def execFcmple (n : NodeRec) (s : State) : Out := lift (arith (.fcmple n) n resFcmple) s

/-- R140: Mask of an unordered comparison (either operand NaN). -/
def execFcmpun (n : NodeRec) (s : State) : Out := lift (arith (.fcmpun n) n resFcmpun) s

/-- R142: Correctly rounded reciprocal. -/
def execFrcp (n : NodeRec) (s : State) : Out := lift (arith (.frcp n) n resFrcp) s

/-- R142: Correctly rounded reciprocal square root. -/
def execFrsq (n : NodeRec) (s : State) : Out := lift (arith (.frsq n) n resFrsq) s

/-- R142: Correctly rounded square root. -/
def execFsqrt (n : NodeRec) (s : State) : Out := lift (arith (.fsqrt n) n resFsqrt) s

/-- R140: Correctly rounded division. -/
def execFdiv (n : NodeRec) (s : State) : Out := lift (arith (.fdiv n) n resFdiv) s

/-- R142: Correctly rounded 2^l. -/
def execFexp2 (n : NodeRec) (s : State) : Out := lift (arith (.fexp2 n) n resFexp2) s

/-- R142: Correctly rounded log2(l). -/
def execFlog2 (n : NodeRec) (s : State) : Out := lift (arith (.flog2 n) n resFlog2) s

/-- R142: Correctly rounded sin(pi*l). -/
def execFsin (n : NodeRec) (s : State) : Out := lift (arith (.fsin n) n resFsin) s

/-- R142: Correctly rounded cos(pi*l). -/
def execFcos (n : NodeRec) (s : State) : Out := lift (arith (.fcos n) n resFcos) s

/-- R142: Correctly rounded tanh(l). -/
def execFtanh (n : NodeRec) (s : State) : Out := lift (arith (.ftanh n) n resFtanh) s

/-- R143: Rounds to an integral value in the same format by RM. -/
def execFrnd (n : NodeRec) (s : State) : Out := lift (arith (.frnd n) n resFrnd) s

/-- R144: Classifies the raw operand into a one-hot class mask. -/
def execFclass (n : NodeRec) (s : State) : Out := lift (arith (.fclass n) n resFclass) s

/-- R145: Computes l*2^k with k read from r, rounded once. -/
def execFscale (n : NodeRec) (s : State) : Out := lift (arith (.fscale n) n resFscale) s

/-- R146: Converts between floating-point formats, placing elements by PART. -/
def execCvtf (n : NodeRec) (s : State) : Out := lift (arith (.cvtf n) n resCvtf) s

/-- R146: Converts floating-point to integer. -/
def execCvtfi (n : NodeRec) (s : State) : Out := lift (arith (.cvtfi n) n resCvtfi) s

/-- R146: Converts integer to floating-point. -/
def execCvtif (n : NodeRec) (s : State) : Out := lift (arith (.cvtif n) n resCvtif) s

/-- R147: Complex C64 multiply, each part rounded once. -/
def execCmul (n : NodeRec) (s : State) : Out := lift (arith (.cmul n) n resCmul) s

/-- R147: Complex C64 fused multiply-add. -/
def execCfma (n : NodeRec) (s : State) : Out := lift (arith (.cfma n) n resCfma) s

/-- R148: Two-element dot product per lane into FP32. -/
def execDot2 (n : NodeRec) (s : State) : Out := lift (arith (.dot2 n) n resDot2) s

/-- R148: Four-element FP8 or INT8 dot product per lane. -/
def execDot4 (n : NodeRec) (s : State) : Out := lift (arith (.dot4 n) n resDot4) s

end Sys2Proof.Machine
end

