-- ==== Sys2Proof/Machine/HostSteps.lean ====
section
/-! DEFINITION. Meanings of the host's steps: RING and IRING (R388 to R391), what BAR 0 reads (R388, R465, R526), BAR 2 (R312, R321, R466), and
the Function Level Reset (R465). -/

namespace Sys2Proof.Machine

/-- A refused host access is an event of KIND 3 on the I/O die (R466, R480). -/
def hostRefused (d : Dev) (addr : Nat) : Dev := raiseEvent d 4 ⟨3, 8, 0, addr, 0⟩

/-! ### Ingress channel windows -/

def modWin (d : Dev) (c : Nat) (f : Window → Window) : Dev := { d with host := { d.host with wins := d.host.wins.set c (f (d.host.wins.getD c {})) } }

/-- RING on channel `c`: the record is checked and, where it may, the graph is launched (R390). -/
def ringOn (d : Dev) (c : Nat) : Dev :=
  let v := (d.host.wins.getD c {}).lrec.toNat
  let tgt := c / 4
  let st := if fld v 261 256 ≠ tgt then 4 else launchStatus d tgt none
  let g := launchGen d tgt st
  let d := modWin d c fun w => { w with lstat := st, lgen := g }
  if st = 0 then launchNow d tgt (recOf v) else d

/-- The token of an inject record, its destination in load coordinates (R391). A reserved MA is open. -/
def injectTok (d : Dev) (cid v : Nat) : Token × Dev :=
  let ma := fld v 55 48
  let (free, d) := if ma ≤ 1 then (ma, d) else freeNat 1 d
  ({ tag := ⟨BitVec.ofNat 6 cid, 0, BitVec.ofNat 16 (fld v 47 32)⟩, seq := 0, ma := if free = 1 then .sticky else .once, poi := false, cls := .data, lvl := 0
     payload := (List.range 8).map fun j => if bitAt v (56 + j) then Lane.some (fld v (256 + 32 * j + 31) (256 + 32 * j)) else .none
     dest := ⟨0, fld v 22 20 * 16 + fld v 26 23, fld v 16 14 * 8 + fld v 19 17, fld v 13 4, portOf (fld v 3 2)⟩ }, d)

/-- IRING on channel `c`: the token enters the context's inbound queue, or goes to its resident load; the loader injects nothing while the context is PARKED (R410). ISTAT follows the context's state alone. -/
def iringOn (d : Dev) (c : Nat) : Dev :=
  let cid := c / 4
  let g := d.graph cid
  let live := g.st == .queued || g.st == .resident || g.st == .parked
  let st := if !live then 1 else if (d.hold cid).inbound.length ≥ 64 then 3 else 0
  let d := modWin d c fun w => { w with istat := st }
  if st ≠ 0 then d
  else
    let (t, d) := injectTok d cid (d.host.wins.getD c {}).irec.toNat
    if g.st == .resident && g.load.isSome && g.ending.isNone then deliverInbound cid d t else d.modHold cid fun h => { h with inbound := h.inbound ++ [t] }

/-- A host write that touches RING or IRING of a channel, at `r` of its window: what it stores beside, then the launches and injections. -/
def ringWrite (d : Dev) (off : Nat) (bs : List Byte) : Dev :=
  let d := windowStore d off bs
  let d := match touches off bs.length 0x40 with | some c => ringOn d c | none => d
  match touches off bs.length 0xC0 with | some c => iringOn d c | none => d

/-- Before the images run, or once their verification has failed, the windows are refused (R471, R472). -/
def windowStep (mine : Nat → Nat → Bool) (s : State) : Out :=
  match s.dev.occ with
  | .bar0 off bs =>
    if !mine off bs.length then .next s
    else if s.sec.boot = 1 then lift (fun d => ringWrite d off bs) s
    else lift (fun d => hostRefused d 0) s
  | _ => .next s

def execRing (s : State) : Out := windowStep (fun off n => (touches off n 0x40).isSome) s
def execIring (s : State) : Out := windowStep (fun off n => (touches off n 0xC0).isSome && (touches off n 0x40).isNone) s

/-! ### Reads of BAR 0 -/

/-- The fields of a launch record and of an inject record: their reserved bits are kept, for the check of the record, and read zero (R9, R389, R391). -/
def lrecFields : BitVec 512 := BitVec.ofNat 512 (0xFFFFFFFFFFFFFFF8 + 0x000FFFFFFFFF0000 * 2 ^ 64 + 0xFFFFFFFFFFFF0000 * 2 ^ 128 + 0xFFFFFFFFFFFFFFE0 * 2 ^ 192 + 0xFFFF013F * 2 ^ 256)
def irecFields : BitVec 512 := BitVec.ofNat 512 (0xFFFFFFFF07FFFFFC + (2 ^ 256 - 1) * 2 ^ 256)

/-- A byte of an ingress channel window; what is not listed reads zero, RING and IRING too (R388). -/
def windowByte (w : Window) (o : Nat) : Nat :=
  let at_ := fun (base v : Nat) => fld v (8 * (o - base) + 7) (8 * (o - base))
  if o < 0x40 then at_ 0 (w.lrec &&& lrecFields).toNat
  else if o < 0x48 then 0
  else if o < 0x4C then at_ 0x48 w.lstat
  else if o < 0x50 then at_ 0x4C w.lgen.toNat
  else if o < 0x54 then at_ 0x50 w.cstatus.toNat
  else if o < 0x58 then at_ 0x54 w.ccause.toNat
  else if o < 0x5C then at_ 0x58 w.cgen.toNat
  else if o < 0x80 then 0
  else if o < 0xC0 then at_ 0x80 (w.irec &&& irecFields).toNat
  else if 0xC4 ≤ o ∧ o < 0xC8 then at_ 0xC4 w.istat
  else 0

/-- A byte of the MSI-X pending bits: vector `v` is bit `v mod 8` of byte `v / 8` (PCIe Base Specification). -/
def pendByte (d : Dev) (o : Nat) : Nat := ((List.range 8).map fun k => if d.host.msixPend.contains (8 * o + k) then 2 ^ k else 0).sum

/-- A byte of BAR 0 (R465): windows, MSI-X table and pending bits, HWBASE, HSTAT, and the control aperture. -/
def bar0Byte (d : Dev) (boot o : Nat) : Shown :=
  if 0x1000000 ≤ o ∧ o < 0x4000000 then ctlByte d (o - 0x1000000)
  else .fixed (
    if o < 0x100000 then windowByte (d.host.wins.getD (o / 4096) {}) (o % 4096)
    else if o < 0x108000 then (d.host.msixTab.getD (o - 0x100000) 0).toNat
    else if o < 0x180000 then 0
    else if o < 0x180100 then pendByte d (o - 0x180000)
    else if o < 0x200000 then 0
    else if o < 0x200008 then fld d.host.hwbase.toNat (8 * (o % 8) + 7) (8 * (o % 8))
    else if o = 0x200008 then boot
    else 0)

/-- Where the port serves no more than HSTAT and the recovery buffer: before the images run, and once their verification has failed (R471, R472). -/
def bar0Open (boot o : Nat) : Bool :=
  boot == 1 || (decide (0x200008 ≤ o) && decide (o < 0x200010)) || (boot != 0 && decide (0x1800000 ≤ o) && decide (o < 0x2000000))

/-- Bytes of BAR 0; a read changes nothing but the moment of free values (R526). -/
def bar0Bytes (d : Dev) (boot o : Nat) : Nat → List Byte × Dev
  | 0 => ([], d)
  | n + 1 =>
    let (b, d) := (bar0Byte d boot o).settle d
    let r := bar0Bytes d boot (o + 1) n
    (BitVec.ofNat 8 b :: r.1, r.2)

/-- A host read of BAR 0, answered or refused. -/
def bar0Read (d : Dev) (boot off n : Nat) : Dev :=
  if (List.range n).all (fun k => bar0Open boot (off + k)) then
    let r := bar0Bytes d boot off n
    { r.2 with host := { r.2.host with replies := r.2.host.replies ++ [.data r.1 false] } }
  else hostRefused { d with host := { d.host with replies := d.host.replies ++ [.abort] } } 0

/-! ### BAR 2 -/

/-- Sizes of the elements of an access (R312): 4 bytes unless it has 8 or 16. -/
def elSize (n : Nat) : Nat := if n = 8 ∨ n = 16 then n else 4

/-- Write elements of an outside party, each aligned to its size, performed by the caller's level. A line that they write whole counts as such (R329). -/
def writeWords (d : Dev) (owner : Party) (a : Nat) (bs : List Byte) (poi : Bool) (el : Nat) (level : Option Scope) : Dev :=
  let el := elSize el
  let cut := el - a % el
  let parts := (a, bs.take cut) :: (List.range ((bs.length - cut + el - 1) / el)).map fun k => (a + cut + el * k, ((bs.drop cut).drop (el * k)).take el)
  parts.foldl (fun d (x : Nat × List Byte) =>
    if x.2.isEmpty then d
    else
      let line := x.1 / 64 * 64
      (applyBoth d owner x.1 x.2 (poiOf poi x.1 x.2.length) (decide (a ≤ line) && decide (line + 64 ≤ a + bs.length)) level).2) d

/-- BAR 2 reaches the tiers below 0x2000_0000_0000. -/
def bar2Ok (d : Dev) (a n : Nat) : Bool :=
  (regionOf d a).isTier && (regionOf d (a + n - 1)).isTier && regionOf d a == regionOf d (a + n - 1)

/-- A host read or write of device memory. Writes are applied in order, each performed at SYS before the next (R321). -/
def bar2Access (d : Dev) (off : Nat) (acc : HostAcc) : Dev :=
  let a := d.host.hwbase.toNat + off
  match acc with
  | .atomic => d
  | .read n =>
    if n = 0 then d
    else if bar2Ok d a n then
      let r := readEl d.mem .host a n
      let d := countHot d a
      { d with host := { d.host with replies := d.host.replies ++ [.data r.1 r.2.1] } }
    else hostRefused { d with host := { d.host with replies := d.host.replies ++ [.abort] } } a
  | .write bs ep =>
    if bs.isEmpty then d
    else if bar2Ok d a bs.length then writeWords (countHot d a) .host a bs ep 4 (some .sys)
    else hostRefused d a

/-- A host AtomicOp is an Unsupported Request, wherever it goes (R465). -/
def unsupportedOp (d : Dev) : Dev := { d with host := { d.host with replies := d.host.replies ++ [.unsupported] } }

/-- A host read of a system register of a context, a page or a die (R45). The spec gives these registers no offset in the host's BARs: that the host reads and writes them by number
and target is the model's choice (DESIGN CHOICE, log 83). -/
def regRead (d : Dev) (num tgt : Nat) : Dev :=
  if targetOk num tgt then
    { d with host := { d.host with replies := d.host.replies ++ [.data (bytesOf ((sysReg d num tgt tgt tgt).getD 0) 8) false] } }
  else d

/-- HOST_BAR2_ACCESS; the host's reads of BAR 0 and of system registers, for which the opcode table has no row of their own, are this step's too (log 81). -/
def execHostBar2Access (s : State) : Out :=
  match s.dev.occ with
  | .bar2 _ .atomic | .bar0Atomic _ => lift unsupportedOp s
  | .regRead num tgt => if s.sec.boot = 1 then lift (fun d => regRead d num tgt) s else .next s
  | .bar0Read off n => lift (fun d => bar0Read d s.sec.boot.toNat off n) s
  | .bar2 off acc =>
    if s.sec.boot = 1 then (if off < 2 ^ s.dev.host.barLog then lift (fun d => bar2Access d off acc) s else .next s)
    else lift (fun d =>
      let d := match acc with | .read _ => { d with host := { d.host with replies := d.host.replies ++ [.abort] } } | _ => d
      hostRefused d (d.host.hwbase.toNat + off)) s
  | _ => .next s

/-! ### Function Level Reset -/

/-- EN of every context is cleared and every window returns to its reset values. -/
def flr (d : Dev) : Dev :=
  let d := (List.range 64).foldl (fun d c => if (d.ctx c).en then writeCtx d c 0 ((d.ctx c).cfg &&& ~~~(1 : Word64)) else d) d
  { d with host := { d.host with wins := [] } }

def execFunctionLevelReset (s : State) : Out := lift flr s

end Sys2Proof.Machine
end

