-- ==== Sys2Proof/Machine/Integer.lean ====
section
/-! DEFINITION. Meanings of the integer, logic and address instructions (R131 to R139). -/

namespace Sys2Proof.Machine

/-- R131: Copies the L token unchanged, including its class and LVL. -/
def execId (n : NodeRec) (s : State) : Out := lift (arith (.id n) n resId) s

/-- R131: Emits the literal, taken by FMT, in every lane with all lanes valid. -/
def execConst (n : NodeRec) (s : State) : Out := lift (arith (.const n) n resConst) s

/-- R131: Integer element add that wraps. -/
def execAdd (n : NodeRec) (s : State) : Out := lift (arith (.add n) n resAdd) s

/-- R131: Integer element subtract that wraps. -/
def execSub (n : NodeRec) (s : State) : Out := lift (arith (.sub n) n resSub) s

/-- R131: Saturating integer add that counts sat. -/
def execAdds (n : NodeRec) (s : State) : Out := lift (arith (.adds n) n resAdds) s

/-- R131: Saturating integer subtract that counts sat. -/
def execSubs (n : NodeRec) (s : State) : Out := lift (arith (.subs n) n resSubs) s

/-- R131: Integer negate. -/
def execNeg (n : NodeRec) (s : State) : Out := lift (arith (.neg n) n resNeg) s

/-- R131: Signed integer absolute value. -/
def execAbs (n : NodeRec) (s : State) : Out := lift (arith (.abs n) n resAbs) s

/-- R131: Integer multiply giving the low half. -/
def execMul (n : NodeRec) (s : State) : Out := lift (arith (.mul n) n resMul) s

/-- R131: Integer multiply giving the high half of the 2n-bit product. -/
def execMulh (n : NodeRec) (s : State) : Out := lift (arith (.mulh n) n resMulh) s

/-- R131: Integer multiply-add l*r+c. -/
def execMad (n : NodeRec) (s : State) : Out := lift (arith (.mad n) n resMad) s

/-- R132: Integer quotient truncated towards zero, with no fault on division by zero. -/
def execDiv (n : NodeRec) (s : State) : Out := lift (arith (.div n) n resDiv) s

/-- R132: Integer remainder with the sign of the dividend. -/
def execRem (n : NodeRec) (s : State) : Out := lift (arith (.rem n) n resRem) s

/-- R131: Integer minimum. -/
def execMin (n : NodeRec) (s : State) : Out := lift (arith (.min n) n resMin) s

/-- R131: Integer maximum. -/
def execMax (n : NodeRec) (s : State) : Out := lift (arith (.max n) n resMax) s

/-- R131: Bitwise and. -/
def execAnd (n : NodeRec) (s : State) : Out := lift (arith (.and n) n resAnd) s

/-- R131: Bitwise or. -/
def execOr (n : NodeRec) (s : State) : Out := lift (arith (.or n) n resOr) s

/-- R131: Bitwise exclusive or. -/
def execXor (n : NodeRec) (s : State) : Out := lift (arith (.xor n) n resXor) s

/-- R131: Bitwise not. -/
def execNot (n : NodeRec) (s : State) : Out := lift (arith (.not n) n resNot) s

/-- R131: Bitwise l and not r. -/
def execAndn (n : NodeRec) (s : State) : Out := lift (arith (.andn n) n resAndn) s

/-- R133: Shift left by r modulo n. -/
def execShl (n : NodeRec) (s : State) : Out := lift (arith (.shl n) n resShl) s

/-- R133: Logical shift right. -/
def execShr (n : NodeRec) (s : State) : Out := lift (arith (.shr n) n resShr) s

/-- R133: Arithmetic shift right. -/
def execSar (n : NodeRec) (s : State) : Out := lift (arith (.sar n) n resSar) s

/-- R133: Rotate left within n bits. -/
def execRol (n : NodeRec) (s : State) : Out := lift (arith (.rol n) n resRol) s

/-- R131: Count leading zero bits. -/
def execClz (n : NodeRec) (s : State) : Out := lift (arith (.clz n) n resClz) s

/-- R131: Count one bits. -/
def execPopc (n : NodeRec) (s : State) : Out := lift (arith (.popc n) n resPopc) s

/-- R131: Reverse the bit order of each element. -/
def execBrev (n : NodeRec) (s : State) : Out := lift (arith (.brev n) n resBrev) s

/-- R135: Extracts a bit field given by the literal, sign- or zero-extended. -/
def execBfx (n : NodeRec) (s : State) : Out := lift (arith (.bfx n) n resBfx) s

/-- R135: Inserts the low bits of r into a field of l. -/
def execBfi (n : NodeRec) (s : State) : Out := lift (arith (.bfi n) n resBfi) s

/-- R131: Selects l where c is nonzero, and r otherwise. -/
def execSel (n : NodeRec) (s : State) : Out := lift (arith (.sel n) n resSel) s

/-- R131: Mask of integer equality. -/
def execCmpeq (n : NodeRec) (s : State) : Out := lift (arith (.cmpeq n) n resCmpeq) s

/-- R131: Mask of integer inequality. -/
def execCmpne (n : NodeRec) (s : State) : Out := lift (arith (.cmpne n) n resCmpne) s

/-- R131: Mask of less-than, with signedness by FMT. -/
def execCmplt (n : NodeRec) (s : State) : Out := lift (arith (.cmplt n) n resCmplt) s

/-- R131: Mask of less-or-equal, with signedness by FMT. -/
def execCmple (n : NodeRec) (s : State) : Out := lift (arith (.cmple n) n resCmple) s

/-- R131: Mask of unsigned less-than. -/
def execCmpltn (n : NodeRec) (s : State) : Out := lift (arith (.cmpltn n) n resCmpltn) s

/-- R131: Mask of unsigned less-or-equal. -/
def execCmplen (n : NodeRec) (s : State) : Out := lift (arith (.cmplen n) n resCmplen) s

/-- R134: Add with carry-in; the sum goes to DSTA and the carry to DSTB. -/
def execAddc (n : NodeRec) (s : State) : Out := lift (arith (.addc n) n resAddc) s

/-- R134: Subtract with borrow-in; the difference goes to DSTA and the borrow to DSTB. -/
def execSubb (n : NodeRec) (s : State) : Out := lift (arith (.subb n) n resSubb) s

/-- R136: Forms the 64-bit address l + r*2^SH + DISP. -/
def execLea (n : NodeRec) (s : State) : Out := lift (arith (.lea n) n resLea) s

/-- R137: Emits a chosen field of the firing's tag in every lane. -/
def execTagv (n : NodeRec) (s : State) : Out := lift (arith (.tagv n) n resTagv) s

/-- R131: Integer clamp min(max(l, r), c). -/
def execClamp (n : NodeRec) (s : State) : Out := lift (arith (.clamp n) n resClamp) s

/-- R138: Computes hash32 of each lane with seed r. -/
def execHash (n : NodeRec) (s : State) : Out := lift (arith (.hash n) n resHash) s

/-- R139: Stateless 32-bit random draw by WEYL or MIX. -/
def execRnd (n : NodeRec) (s : State) : Out := lift (arith (.rnd n) n resRnd) s

/-- Why FAR cannot forward: its record, written by WRNODE, is not that of a valid node, or its target is no anchor of the load (R103, R111). -/
def farTarget (n : NodeRec) (key : Nat) (d : Dev) : Except FCode Dest :=
  let lit := n.lit.toNat
  if (nodeCause (.far n) n (lanesOf (d.span key).wid)).isSome then .error .illop
  else resolveXY d key (fld lit 24 18) (fld lit 17 12) (fld lit 11 2) (portOf (fld lit 1 0))

/-- FAR forwards the oldest token that arrived on its L port to the literal's target, unchanged but for its destination (R103). It is no
firing: the node does not match. A token that it cannot forward is parked with its frame. -/
def execFar (n : NodeRec) (s : State) : Out :=
  lift (fun d =>
    let f := d.focus
    match (d.span f.span).farQ.find? (fun t => t.dest.node == f.node) with
    | none => d
    | some t =>
      if !hasSpace d f.span 1 then d
      else match farTarget n f.span d with
        | .ok x => send (d.modSpan f.span fun sp => { sp with farQ := removeFirst (fun t => t.dest.node == f.node) sp.farQ }) (.span f.span) { t with dest := x }
        | .error e =>
          takeFault d ((d.cidOf (pageOfFe f.span)).getD 0) (some t.tag.frame) e { hdr := t.header, loc := locOf d f.span f.node none }) s

end Sys2Proof.Machine
end

