-- ==== Sys2Proof/Machine/LaneFam.lean ====
section
/-! DEFINITION. Meanings of the lane instructions (R159 to R165). -/

namespace Sys2Proof.Machine

/-- R159: Broadcasts one unit of L to every unit. -/
def execBcast (n : NodeRec) (s : State) : Out := lift (arith (.bcast n) n resBcast) s

/-- R159: Shuffles L lanes by the indices in R. -/
def execShuf (n : NodeRec) (s : State) : Out := lift (arith (.shuf n) n resShuf) s

/-- R160: Permutes units by a fixed pattern. -/
def execPerm (n : NodeRec) (s : State) : Out := lift (arith (.perm n) n resPerm) s

/-- R161: Reduces units by a fixed pairwise tree. -/
def execRed (n : NodeRec) (s : State) : Out := lift (arith (.red n) n resRed) s

/-- R162: Inclusive or exclusive serial prefix fold over units. -/
def execScan (n : NodeRec) (s : State) : Out := lift (arith (.scan n) n resScan) s

/-- R159: Emits BASE+j in lane j. -/
def execLaneid (n : NodeRec) (s : State) : Out := lift (arith (.laneid n) n resLaneid) s

/-- R163: Splits a token into two half-width tokens. -/
def execSplit (n : NodeRec) (s : State) : Out := lift (arith (.split n) n resSplit) s

/-- R163: Joins two half-width tokens into one. -/
def execJoin (n : NodeRec) (s : State) : Out := lift (arith (.join n) n resJoin) s

/-- R164: Applies a lane mask from R to the validity of L. -/
def execVmaskSet (n : NodeRec) (s : State) : Out := lift (arith (.vmaskSet n) n resVmaskSet) s

/-- R164: Emits L's valid bits as a mask. -/
def execVmaskGet (n : NodeRec) (s : State) : Out := lift (arith (.vmaskGet n) n resVmaskGet) s

/-- R165: Packs the kept units to the front and reports their count. -/
def execCompact (n : NodeRec) (s : State) : Out := lift (arith (.compact n) n resCompact) s

/-- R165: Scatters L units into the positions that R marks. -/
def execExpand (n : NodeRec) (s : State) : Out := lift (arith (.expand n) n resExpand) s

end Sys2Proof.Machine
end

