-- ==== Sys2Proof/Machine/Links.lean ====
section
/-! DEFINITION. Meanings of the link steps: flits and training (R455 to R459), deadlines (R459, R462, R468, R470), requests of other packages
(R460, R461), and a CXL link that goes down (R470). -/

namespace Sys2Proof.Machine

/-! ### Flits (R456, R459) -/

def sat16 (n : Nat) : Nat := min n 0xFFFF

/-- The end-to-end layer: flits of one source, destination and channel are delivered in order, once each. -/
def flitKey (f : Flit) : Nat := (f.src * 1024 + f.dst) * 4 + f.vc

/-- Deliver a flit and those that came early and now are next; others wait, and duplicates are discarded. -/
def deliverFlits : Nat → Sterabel → Flit → Sterabel
  | 0, b, _ => b
  | n + 1, b, f =>
    let k := flitKey f
    let e := b.expect.getD k 0
    if f.eseq < e then b
    else if f.eseq > e then (if b.early.contains f then b else { b with early := b.early ++ [f] })
    else
      let b := { b with given := b.given ++ [f], expect := b.expect.set k (e + 1) }
      match b.early.find? fun g => flitKey g == k && g.eseq == e + 1 with
      | some g => deliverFlits n { b with early := b.early.filter (· != g) } g
      | none => b

/-- Corrected errors of a line: an event for each; of its four lanes which one is open (R477, R481). -/
def lineErrors (d : Dev) (k : Nat) : Nat → Dev
  | 0 => d
  | n + 1 => let (lane, d) := freeNat 2 d; lineErrors (raiseEvent d 4 ⟨1, 7, k, 0, lane⟩) k n

/-- A port that cannot go on goes down, and retrains (R456). -/
def retrain (d : Dev) (k : Nat) : Dev := setPort (setPort d k 0 0) k 1 0

/-- A flit is refused and will be replayed; the refusal of its eighth replay takes the port down. What follows a refused flit is refused too, and is no replay of it. -/
def refuseFlit (d : Dev) (k : Nat) (crc mine : Bool) : Dev :=
  let p := port d k
  let p := { p with crcf := if crc then sat16 (p.crcf + 1) else p.crcf, tries := if mine then p.tries + 1 else p.tries }
  let d := putPort d k p
  let d := if crc then lineErrors d k 1 else d
  if p.tries > 8 then retrain d k else d

/-- The peer of a port has taken the flits before a link number: the package keeps those of its own until their destination acknowledges them (R456, R459). -/
def takenTo (d : Dev) (k n : Nat) : Dev :=
  let taken := fun o : OutFlit => o.at_ == .sent k && decide (o.flit.lseq < n)
  if d.sb.out.any taken then
    putPort { d with sb := { d.sb with out := (d.sb.out.map fun o => if taken o then { o with at_ := .taken } else o).filter fun o => o.own || o.at_ != .taken } } k
      { port d k with replays := 0 }
  else d

/-- FLIT_RECEIVE: a port that is up checks CRC and link number. A flit for another package is forwarded. -/
def flitStep (d : Dev) : Dev :=
  match d.occ with
  | .flit k corrected f =>
    let p := port d k
    if k ≥ 64 || !(p.state == 2 || p.state == 3) then d
    else
      let d := lineErrors (putPort d k { p with fecc := sat16 (p.fecc + corrected) }) k corrected
      if !f.crcOk || f.lseq != p.next then refuseFlit d k (!f.crcOk) (f.lseq == p.next)
      else
        let d := takenTo (putPort d k { port d k with next := p.next + 1, tries := 0 }) k f.ack
        if f.dst = d.pkg then { d with sb := deliverFlits (d.sb.early.length + 1) d.sb f }
        else { d with sb := { d.sb with out := d.sb.out ++ [⟨f, .waiting, false⟩] } }
  | _ => d

/-! ### The sending side (R456, R457, R459) -/

/-- The first flit of a channel that may leave by a port: the mask of its destination has the port, and the port has a credit. -/
def readyFlit (d : Dev) (k vc : Nat) : Option OutFlit :=
  if ((port d k).credit[vc]?).getD 0 = 0 then none
  else d.sb.out.find? fun o => o.at_ == .waiting && o.flit.vc == vc && bitAt (d.sb.rt.getD o.flit.dst 0).toNat k

/-- The channel that a port serves: RSP where it has a flit ready and the last flit was not RSP, else REQ, EXP and COLL in turn (R457). -/
def servedVc (d : Dev) (k : Nat) : Option Nat :=
  let p := port d k
  let has := fun vc => (readyFlit d k vc).isSome
  let turns := match p.turn with | 0 => [2, 3, 0] | 2 => [3, 0, 2] | _ => [0, 2, 3]
  if has 1 && p.lastVc != 1 then some 1
  else match turns.find? has with
    | some vc => some vc
    | none => if has 1 then some 1 else none

/-- A port that is up sends its next flit, which stays in its retry buffer. -/
def sendNext (d : Dev) (k : Nat) : Dev :=
  let p := port d k
  if !(p.state == 2 || p.state == 3) then d
  else match (servedVc d k).bind fun vc => (readyFlit d k vc).map fun o => (vc, o) with
    | none => d
    | some (vc, o) =>
      let f := { o.flit with lseq := p.sendNo, ack := p.next }
      let f := { f with crc := crc32 f.covered }
      let out := match firstIdx (· == o) d.sb.out with | some i => modNth (fun _ => { o with flit := f, at_ := .sent k }) i d.sb.out | none => d.sb.out
      putPort { d with sb := { d.sb with out } } k
        { p with sendNo := p.sendNo + 1, credit := modNth (· - 1) vc p.credit, lastVc := vc, turn := if vc = 1 then p.turn else vc }

/-- The peer refuses a flit: the port replays its retry buffer from that flit on. A flit that has been replayed eight times and is refused again takes the port
down, and what its retry buffer holds leaves by other ports of its mask. -/
def replayFrom (d : Dev) (k n : Nat) : Dev :=
  let d := takenTo d k n
  let again := (d.sb.out.filter fun o => o.at_ == .sent k).length
  let p := port d k
  if again = 0 || !(p.state == 2 || p.state == 3) then d
  else if p.replays ≥ 8 then retrain d k
  else putPort d k { p with replays := p.replays + 1, retry := sat16 (p.retry + again) }

/-- What reaches a port beside a flit. -/
def portStep (d : Dev) : Dev :=
  match d.occ with
  | .portAct k a =>
    if k ≥ 64 then d
    else match a with
      | .refused n => replayFrom d k n
      | .credit vc n => putPort d k { port d k with credit := modNth (· + n) vc (port d k).credit }
      | .arrived dst vc n => { d with sb := { d.sb with out := d.sb.out.filter fun o => !(o.own && o.flit.dst == dst && o.flit.vc == vc && decide (o.flit.eseq ≤ n)) } }
      | .send => sendNext d k
  | _ => flitStep d

def execFlitReceive (s : State) : Out := booted portStep s

/-- PORT_TRAINING_COMPLETE: up on four lanes, degraded on two, or down; the peer's number is learned (R456, R464). -/
def trainStep (d : Dev) : Dev :=
  match d.occ with
  | .port k st lanes peer =>
    if k < 64 && (port d k).state == 1 && sbEn d && ((st == 2 && lanes == 4) || (st == 3 && lanes == 2) || (st == 0 && lanes == 0)) then
      let d := setPort d k st lanes
      if st = 0 then d else putPort d k { port d k with peer := peer % 1024, next := 0, sendNo := 0, replays := 0, credit := [0, 0, 0, 0] }
    else d
  | _ => d

def execPortTrainingComplete (s : State) : Out := lift trainStep s

/-! ### Deadlines -/

/-- An accepted access of a page, not held by a fault, that the occasion names. -/
def openAcc (d : Dev) : Option (Nat × Access) :=
  match d.occ with
  | .arrive pg id => ((d.page pg).accs.find? fun a => a.id == id && a.acc.isSome && a.fault.isNone).map fun a => (pg, a)
  | _ => none

/-- A write whose place a test admits is not performed at SYS. -/
def openAt (d : Dev) (t : Nat → Bool) (w : Nat) : Bool :=
  d.mem.wlog.any (fun x => x.id == w && !x.at .sys && t x.addr) || d.mem.pend.any fun p => p.el.id == w && t p.el.addr

/-- A part of an access, a message on its way (R230) and the write-backs of a FLUSH (R227) included, that is not yet served, or whose write is not performed at SYS, at a
place that a test admits. -/
def openPart (d : Dev) (a : Access) (t : Nat → Bool) : Option Elem :=
  a.els.find? fun e => !elDone d.mem a.party .sys e &&
    ((match e.pa with | some k => t k | none => false) || (a.kind == .flush && (match e.st with | .wrote ws => ws.any (openAt d t) | _ => false)))

def toRemote (k : Nat) : Bool := decide (k ≥ 2 ^ 52)
def toCxl (d : Dev) (k : Nat) : Bool := !toRemote k && (match regionOf d k with | .cxl _ => true | _ => false)
def toHost (d : Dev) (k : Nat) : Bool := !toRemote k && regionOf d k == .hostWin

/-- The work of a task is done and it waits for its writes: its `since` is the cycle in which it made them. -/
def Task.waitsWrites (t : Task) : Bool := t.phase == 2 || t.phase == 3

/-- A task's write to another package or to a CXL expander that is not acknowledged. -/
def openWrite (d : Dev) (t : Task) : Bool := t.waitsWrites && t.writes.any (openAt d fun k => toRemote k || toCxl d k)

/-- RESPONSE_TIMEOUT (R462, R470): the access's port is held; an engine task is abandoned. -/
def responseTimeout (d : Dev) : Dev :=
  match respDeadline d with
  | none => d
  | some n =>
    match d.occ with
    | .task isl id => (match getTask d isl id with
      | some t => if openWrite d t && t.since.any (fun x => decide (x + n ≤ d.now.toNat)) then abandonTask d isl t ⟨.timeout, 0, 0⟩ else d
      | none => d)
    | _ => match openAcc d with
      | some (pg, a) => (match openPart d a fun k => toRemote k || toCxl d k with
        | some e => if a.since + n ≤ d.now.toNat then portFault d pg a .timeout e.va else d
        | none => d)
      | none => d

def execResponseTimeout (s : State) : Out := lift responseTimeout s

/-- A task's write that waits for a route which is dead (R459, R464). -/
def waitsForRoute (d : Dev) (t : Task) : Bool :=
  t.waitsWrites && t.writes.any (openAt d fun k => toRemote k && t.since.any (routeDead d (k / 2 ^ 52 - 1)))

/-- ROUTE_LINK_TIMEOUT: LINKF is raised against an access that waits for the route; a task is abandoned. -/
def routeTimeout (d : Dev) : Dev :=
  match d.occ with
  | .task isl id => (match getTask d isl id with
    | some t => if waitsForRoute d t then abandonTask d isl t ⟨.linkf, 0, 0⟩ else d
    | none => d)
  | _ => match openAcc d with
  | some (pg, a) => (match openPart d a fun k => toRemote k && routeDead d (k / 2 ^ 52 - 1) a.since with
    | some e => portFault d pg a .linkf e.va
    | none => d)
  | none => d

def execRouteLinkTimeout (s : State) : Out := lift routeTimeout s

/-- COMPLETION_TIMEOUT: a read of the host window gets no completion (R468). -/
def completionTimeout (d : Dev) : Dev :=
  match openAcc d with
  | some (pg, a) =>
    (match (a.els.find? fun e => e.st == .todo && (match e.pa with | some k => toHost d k | none => false)) with
     | some e => if isRead a.kind then portFault d pg a .timeout e.va else d
     | none => d)
  | none => d

def execCompletionTimeout (s : State) : Out := lift completionTimeout s

/-- Tasks whose writes to a place that a test admits are not performed, by island. -/
def openTasks (d : Dev) (t : Nat → Bool) : List (Isle × Task) :=
  d.chans.flatMap fun e => (e.2.tasks.filter fun u => u.waitsWrites && u.writes.any (openAt d t)).map fun u => (isleOf e.1, u)

/-- CXL_PORT_LINK_DOWN: the link is down, and accesses under way to its range raise LINKF; so do tasks whose writes are under way there. -/
def cxlDown (d : Dev) : Dev :=
  match d.occ with
  | .cxl k =>
    if (d.mem.cxl[k]?).map (·.1) = some true then
      let mine := fun a : Nat => !toRemote a && regionOf d a == .cxl k
      let d' := raiseEvent { d with mem := { d.mem with cxl := modNth (fun x => (false, x.2)) k d.mem.cxl } } 4 ⟨4, 2, k, 0, 0⟩
      let d' := (openTasks d mine).foldl (fun d x => abandonTask d x.1 x.2 ⟨.linkf, 0, 0⟩) d'
      d.pages.foldl (fun acc e => (e.2.accs.filter fun a => a.acc.isSome && a.fault.isNone).foldl (fun acc a =>
        match openPart d a mine with
        | some x => portFault acc e.1 a .linkf x.va
        | none => acc) acc) d'
    else d
  | _ => d

def execCxlPortLinkDown (s : State) : Out := lift cxlDown s

/-! ### Requests of other packages (R461) -/

/-- The frame table, or the requester's privilege, lets a request reach a local PA. -/
def requestOk (d : Dev) (r : RemReq) : Bool :=
  match regionOf d r.pa with
  | .hole => false
  | g => r.priv || (g.isTier && (match frameEntry d r.pa with
    | some e => let v := readEntry d e; bitAt v 15 && (d.ctx (fld v 13 8)).jobid == r.jobid
    | none => false))

/-- A refused request is an event that names the requester (R461, R480). -/
def refuseRequest (d : Dev) (r : RemReq) : Dev := raiseEvent d 4 ⟨3, 7, r.pkg, r.pa, 0⟩

/-- The message of a request, to a mailbox of this package: it is refused, or waits while the mailbox is full (R230). -/
def requestMsg (d : Dev) (r : RemReq) (cid box : Nat) (m : Msg) : Option Dev :=
  if (d.graph cid).st == .free || (!r.priv && (d.ctx cid).jobid != r.jobid) then some (raiseEvent d 4 ⟨3, 7, r.pkg, 0, 0⟩)
  else
    let q := (d.hold cid).mail.getD box []
    if q.length ≥ 64 then none else some (d.modHold cid fun h => { h with mail := h.mail.set box (q ++ [m]) })

/-- What an atomic of a request writes: the host window's goes to the host; a register of the aperture takes none (R467, R468, R526). -/
def requestAtomic (d : Dev) (r : RemReq) (n : Nat) (write : Nat → Option Nat) : Dev :=
  match regionOf d r.pa with
  | .control =>
    let (bs, d) := ctlRead d (r.pa - 0x200000000000) n
    (match write (natOfBytes bs) with | some v => ctlAtomic d (r.pa - 0x200000000000) n v | none => d)
  | .hostWin => d
  | _ => match write (natOfBytes (homeBytes d.mem r.pa n)) with
    | some v => writeWords d (.ext r.pkg) r.pa (bytesOf v n) (homePoi d.mem r.pa n) n none
    | none => d

/-- What a served request does at the home of its location. An answer goes to another package. -/
def requestServe (d : Dev) (r : RemReq) : Dev :=
  let d := if (regionOf d r.pa).isTier then countHot d r.pa else d
  match r.kind with
  | .read _ => d
  | .write el bs poi =>
    if regionOf d r.pa == .control then { d with ctlq := d.ctlq ++ [⟨r.pa - 0x200000000000, bs.length, natOfBytes bs⟩] }
    else writeWords d (.ext r.pkg) r.pa bs poi el none
  | .atom f op v ftz => requestAtomic d r (fmtBits f / 8) fun old => some (atomicNew op old v f ftz).1
  | .cas f c v => requestAtomic d r (fmtBits f / 8) fun old => if old = c then some v else none
  | .msend _ _ _ => d

/-- REMOTE_REQUEST_ARRIVAL: served, or refused with an event of KIND 3 that names the requester; either way a response leaves (R460). -/
def requestStep (d : Dev) : Dev :=
  match d.occ with
  | .request r =>
    let answer := fun d : Dev => sendFlit d vcRsp r.pkg
    if !sbEn d then d
    else match r.kind with
      | .msend cid box m => (match requestMsg d r cid box m with | some d => answer d | none => d)
      | _ => answer (if requestOk d r then requestServe d r else refuseRequest d r)
  | _ => d

def execRemoteRequestArrival (s : State) : Out := booted requestStep s

end Sys2Proof.Machine
end

