-- ==== Sys2Proof/Machine/Digest.lean ====
section
/-! DEFINITION. SHA-384 (FIPS 180-4) and the verification of ECDSA signatures over NIST P-384 (FIPS 186-5), which R471 to R474 and R482 name
(log 47: both standards are outside the spec). -/

namespace Sys2Proof.Machine

/-! ### SHA-384 -/

def shaK : List Nat :=
  [0x428a2f98d728ae22, 0x7137449123ef65cd, 0xb5c0fbcfec4d3b2f, 0xe9b5dba58189dbbc] ++
  [0x3956c25bf348b538, 0x59f111f1b605d019, 0x923f82a4af194f9b, 0xab1c5ed5da6d8118] ++
  [0xd807aa98a3030242, 0x12835b0145706fbe, 0x243185be4ee4b28c, 0x550c7dc3d5ffb4e2] ++
  [0x72be5d74f27b896f, 0x80deb1fe3b1696b1, 0x9bdc06a725c71235, 0xc19bf174cf692694] ++
  [0xe49b69c19ef14ad2, 0xefbe4786384f25e3, 0x0fc19dc68b8cd5b5, 0x240ca1cc77ac9c65] ++
  [0x2de92c6f592b0275, 0x4a7484aa6ea6e483, 0x5cb0a9dcbd41fbd4, 0x76f988da831153b5] ++
  [0x983e5152ee66dfab, 0xa831c66d2db43210, 0xb00327c898fb213f, 0xbf597fc7beef0ee4] ++
  [0xc6e00bf33da88fc2, 0xd5a79147930aa725, 0x06ca6351e003826f, 0x142929670a0e6e70] ++
  [0x27b70a8546d22ffc, 0x2e1b21385c26c926, 0x4d2c6dfc5ac42aed, 0x53380d139d95b3df] ++
  [0x650a73548baf63de, 0x766a0abb3c77b2a8, 0x81c2c92e47edaee6, 0x92722c851482353b] ++
  [0xa2bfe8a14cf10364, 0xa81a664bbc423001, 0xc24b8b70d0f89791, 0xc76c51a30654be30] ++
  [0xd192e819d6ef5218, 0xd69906245565a910, 0xf40e35855771202a, 0x106aa07032bbd1b8] ++
  [0x19a4c116b8d2d0c8, 0x1e376c085141ab53, 0x2748774cdf8eeb99, 0x34b0bcb5e19b48a8] ++
  [0x391c0cb3c5c95a63, 0x4ed8aa4ae3418acb, 0x5b9cca4f7763e373, 0x682e6ff3d6b2b8a3] ++
  [0x748f82ee5defb2fc, 0x78a5636f43172f60, 0x84c87814a1f0ab72, 0x8cc702081a6439ec] ++
  [0x90befffa23631e28, 0xa4506cebde82bde9, 0xbef9a3f7b2c67915, 0xc67178f2e372532b] ++
  [0xca273eceea26619c, 0xd186b8c721c0c207, 0xeada7dd6cde0eb1e, 0xf57d4f7fee6ed178] ++
  [0x06f067aa72176fba, 0x0a637dc5a2c898a6, 0x113f9804bef90dae, 0x1b710b35131c471b] ++
  [0x28db77f523047d84, 0x32caab7b40c72493, 0x3c9ebe0a15c9bebc, 0x431d67c49c100d4c] ++
  [0x4cc5d4becb3e42b6, 0x597f299cfc657e2a, 0x5fcb6fab3ad6faec, 0x6c44198c4a475817]

/-- The chaining value at the start. -/
def shaIv : List Nat :=
  [0xcbbb9d5dc1059ed8, 0x629a292a367cd507, 0x9159015a3070dd17, 0x152fecd8f70e5939,
   0x67332667ffc00b31, 0x8eb44a8768581511, 0xdb0c2e0d64f98fa7, 0x47b5481dbefa4fa4]

def rotr64 (x n : Nat) : Nat := x / 2 ^ n + x % 2 ^ n * 2 ^ (64 - n)
def add64 (l : List Nat) : Nat := l.sum % 2 ^ 64

/-- The message schedule, newest word first, with `n` words still to come. -/
def shaExtend : Nat → List Nat → List Nat
  | 0, w => w
  | n + 1, w =>
    let at_ := fun k : Nat => (w[k]?).getD 0
    let s0 := rotr64 (at_ 14) 1 ^^^ rotr64 (at_ 14) 8 ^^^ (at_ 14 / 2 ^ 7)
    let s1 := rotr64 (at_ 1) 19 ^^^ rotr64 (at_ 1) 61 ^^^ (at_ 1 / 2 ^ 6)
    shaExtend n (add64 [at_ 15, s0, at_ 6, s1] :: w)

/-- One round on the eight working words. -/
def shaRound (v : List Nat) (kw : Nat × Nat) : List Nat :=
  match v with
  | [a, b, c, d, e, f, g, h] =>
    let ch := (e &&& f) ^^^ ((2 ^ 64 - 1 - e) &&& g)
    let t1 := add64 [h, rotr64 e 14 ^^^ rotr64 e 18 ^^^ rotr64 e 41, ch, kw.1, kw.2]
    let maj := (a &&& b) ^^^ (a &&& c) ^^^ (b &&& c)
    let t2 := add64 [rotr64 a 28 ^^^ rotr64 a 34 ^^^ rotr64 a 39, maj]
    [add64 [t1, t2], a, b, c, add64 [d, t1], e, f, g]
  | _ => v

/-- A number from bytes, the first the most significant. -/
def natOfBE (bs : List Byte) : Nat := bs.foldl (fun a b => a * 256 + b.toNat) 0

def shaBlock (h : List Nat) (blk : List Byte) : List Nat :=
  let w := (shaExtend 64 ((chunks 8 16 blk).map natOfBE).reverse).reverse
  List.zipWith (fun x y => add64 [x, y]) h ((shaK.zip w).foldl shaRound h)

def shaPad (m : List Byte) : List Byte :=
  m ++ [0x80] ++ List.replicate ((239 - m.length % 128) % 128) 0 ++ (bytesOf (8 * m.length) 16).reverse

def sha384 (m : List Byte) : BitVec 384 :=
  let p := shaPad m
  BitVec.ofNat 384 ((((chunks 128 (p.length / 128) p).foldl shaBlock shaIv).take 6).foldl (fun a x => a * 2 ^ 64 + x) 0)

/-- The 48 bytes of a digest, the most significant first. -/
def digestBytes (d : BitVec 384) : List Byte := (bytesOf d.toNat 48).reverse

/-! ### ECDSA over P-384 -/

def p384 : Nat := 2 ^ 384 - 2 ^ 128 - 2 ^ 96 + 2 ^ 32 - 1
def p384b : Nat := 0xB3312FA7E23EE7E4988E056BE3F82D19181D9C6EFE8141120314088F5013875AC656398D8A2ED19D2A85C8EDD3EC2AEF
def p384n : Nat := 0xFFFFFFFFFFFFFFFFFFFFFFFFFFFFFFFFFFFFFFFFFFFFFFFFC7634D81F4372DDF581A0DB248B0A77AECEC196ACCC52973
def p384g : Nat × Nat :=
  (0xAA87CA22BE8B05378EB1C71EF320AD746E1D3B628BA79B9859F741E082542A385502F25DBF55296C3A545E3872760AB7,
   0x3617DE4A96262C6F5D9E98BF9292DC29F8F41DBD289A147CE9DA3113B5F0B8C00A60B1CE1D7E819D7A431D7C90EA0E5F)

/-- `a ^ e mod m`, where `e` is below `2 ^ n`. -/
def powMod (m : Nat) : Nat → Nat → Nat → Nat
  | 0, _, _ => 1
  | n + 1, a, e => (if e % 2 = 1 then a else 1) * powMod m n (a * a % m) (e / 2) % m

/-- The inverse modulo a prime of 384 bits. -/
def invMod (m a : Nat) : Nat := powMod m 384 (a % m) (m - 2)

/-- Points of the curve; none is the point at infinity. -/
def ecAdd (p q : Option (Nat × Nat)) : Option (Nat × Nat) :=
  match p, q with
  | none, q => q
  | p, none => p
  | some (x1, y1), some (x2, y2) =>
    if x1 = x2 ∧ (y1 + y2) % p384 = 0 then none
    else
      let l := if x1 = x2 then (3 * x1 * x1 + p384 - 3) * invMod p384 (2 * y1) % p384
        else (y2 + p384 - y1) * invMod p384 (x2 + p384 - x1) % p384
      let x3 := (l * l + 2 * p384 - x1 - x2) % p384
      some (x3, (l * (x1 + p384 - x3) + p384 - y1) % p384)

/-- `k` times a point, where `k` is below `2 ^ n`. -/
def ecMul : Nat → Nat → Option (Nat × Nat) → Option (Nat × Nat)
  | 0, _, _ => none
  | n + 1, k, p => ecAdd (if k % 2 = 1 then p else none) (ecMul n (k / 2) (ecAdd p p))

def onCurve (q : Nat × Nat) : Bool :=
  decide (q.1 < p384) && decide (q.2 < p384) && (q.2 * q.2 % p384 == (q.1 ^ 3 + (p384 - 3) * q.1 + p384b) % p384)

/-- A signature (r in the high half, s in the low one) verifies under a public key (x in the high half) for a digest. -/
def ecdsaOk (key : BitVec 768) (digest : BitVec 384) (sig : BitVec 768) : Bool :=
  let q := (key.toNat / 2 ^ 384, key.toNat % 2 ^ 384)
  let r := sig.toNat / 2 ^ 384
  let s := sig.toNat % 2 ^ 384
  let w := invMod p384n s
  onCurve q && decide (0 < r) && decide (r < p384n) && decide (0 < s) && decide (s < p384n) &&
    (match ecAdd (ecMul 384 (digest.toNat * w % p384n) (some p384g)) (ecMul 384 (r * w % p384n) (some q)) with
     | some (x, _) => x % p384n == r
     | none => false)

end Sys2Proof.Machine
end

