-- ==== Sys2Proof/Machine/Trust.lean ====
section
/-! DEFINITION. Meanings of the steps of the security processor: cold reset and firmware verification (R471, R472, R485), measurement (R473,
R482), and attestation (R474). These are the steps that act on its state. -/

namespace Sys2Proof.Machine

/-- A step of the security processor on its own state and the package's. -/
def secure (f : Dev → Sec → Dev × Sec) (s : State) : Out := let r := f s.dev s.sec; .next { s with dev := r.1, sec := r.2 }

/-! ### Measurement slots (R473) -/

/-- The value of a slot after extension with a digest. -/
def extendWith (slot d : BitVec 384) : BitVec 384 := sha384 (digestBytes slot ++ digestBytes d)

/-- A slot is written by extension alone; slot 14 is never written. -/
def extendSlot (x : Sec) (k : Nat) (d : BitVec 384) : Sec :=
  if k = 14 then x else { x with slots := modNth (extendWith · d) k x.slots }

/-- MEASUREMENT_EXTEND: system software extends one of slots 4–13. -/
def execMeasurementExtend (s : State) : Out :=
  secure (fun d x => match d.occ with
    | .slot k v => if x.boot = 1 ∧ 4 ≤ k ∧ k ≤ 13 then (d, extendSlot x k v) else (d, x)
    | _ => (d, x)) s

/-- DBGCTL_ENABLE: each write of 1 to EN extends slot 15 (R482). A blown debug fuse keeps EN at 0. -/
def execDbgctlEnable (s : State) : Out :=
  secure (fun d x => match ctlOf d with
    | some (w, d') =>
      if x.boot = 1 ∧ (w.whole && w.off == 0x18 && w.word.getLsbD 0) then
        ({ d' with glob := { d'.glob with dbgEn := !Config.debugFuse, dbgWerr := d'.glob.dbgWerr && !w.word.getLsbD 1 } },
         extendSlot x 15 (sha384 (bytesOf d.now.toNat 8)))
      else (d, x)
    | none => (d, x)) s

/-! ### Firmware (R471, R472) -/

/-- An image runs only where its length, digest, version, key and signature are right. -/
def imageOk (i : Firmware) : Bool :=
  let h := sha384 (i.header ++ i.body)
  let kh := sha384 ((bytesOf i.key.toNat 96).reverse)
  i.length == i.body.length && i.digest == h && decide (Config.minVersion ≤ i.version)
  && (List.range 4).any (fun k => Config.keyHash k == kh && !Config.keyRevoked k)
  && ecdsaOk i.key h i.sig

/-- The images from the `k`-th on are verified in order; each that runs extends its slot. The last brings slot 3 and BOOT 1, a failure BOOT 2. -/
def verifyFrom (x : Sec) : Nat → List Firmware → Sec
  | k, [] => if k ≥ 3 then { extendSlot x 3 Config.fuseDigest with boot := 1 } else { x with boot := 2, failed := k }
  | k, i :: r =>
    if k ≥ 3 then { extendSlot x 3 Config.fuseDigest with boot := 1 }
    else if imageOk i then verifyFrom (extendSlot x k i.digest) (k + 1) r
    else { x with boot := 2, failed := k }

/-- The verification of an image has failed: an event, whose KIND the spec leaves open (R472). -/
def noteFailure (d : Dev) (x : Sec) : Dev :=
  if x.boot = 2 then (let (k, d) := freeNat 4 d; raiseEvent d 4 ⟨1 + k % 10, 11, 0, 0, 0⟩) else d

/-- Memory after a cold reset: HBM and LPDDR are zero with poison clear; CXL memory keeps what it holds. -/
def coldMem (m : Mem) (caps : List Nat) : Mem :=
  let full := m.wlog.foldl (fun (m : Mem) w =>
    { m with cells := setBytes m.cells w.addr w.bytes, poison := setPoison m.poison w.addr w.bytes.length w.poi w.full }) m
  { cells := full.cells.filter fun e => isCxlKey e.1, poison := full.poison.filter isCxlKey, nextId := m.nextId
    cxl := (List.range 4).map fun k => (true, (caps[k]?).getD 0) }

/-- COLD_RESET: every register takes its value after reset, and the images are verified. -/
def execColdReset (s : State) : Out :=
  secure (fun d x => match d.occ with
    | .firmware imgs caps =>
      let x' := verifyFrom {} 0 imgs
      (noteFailure { mem := coldMem d.mem caps, ids := d.ids, tick := d.tick, occ := d.occ } x', x')
    | _ => (d, x)) s

/-- The bytes of an image. The spec names its parts and gives no layout: their order and sizes are the model's (DESIGN CHOICE, log 84). -/
def Firmware.bytes (i : Firmware) : List Byte :=
  bytesOf i.version 4 ++ bytesOf i.length 8 ++ bytesOf i.header.length 4 ++ i.header ++ bytesOf i.digest.toNat 48 ++ bytesOf i.key.toNat 96 ++ bytesOf i.sig.toNat 96 ++ i.body

/-- The recovery buffer holds an image from its start on (R472). -/
def inRecovery (d : Dev) (i : Firmware) : Bool := (indexed i.bytes).all fun e => d.host.recovery.getD e.1 0 == e.2

/-- RECOVERY_VERIFY: the host asks for the verification of the replacement image that it has written to the recovery buffer, during which BOOT is 3; then boot resumes, with
the images after it, or fails again. -/
def execRecoveryVerify (s : State) : Out :=
  secure (fun d x => match d.occ with
    | .firmware imgs _ =>
      if x.boot = 3 ∧ imgs.head?.any (inRecovery d) then (let x' := verifyFrom x x.failed imgs; (noteFailure d x', x'))
      else (d, x)
    | .none => if x.boot = 2 then (d, { x with boot := 3 }) else (d, x)
    | _ => (d, x)) s

/-! ### Attestation (R474) -/

/-- The bytes of a key, a number of 96 bytes with its high byte first. -/
def keyBytes (k : BitVec 768) : List Byte := (bytesOf k.toNat 96).reverse

/-- The chain in certificate slot 0: the identity certificate, which Dunuisia signs, and the alias certificate, which the identity key signs. -/
def certChain (slots : List (BitVec 384)) : List Cert :=
  let a := Config.aliasKey (slots.take 4)
  [⟨Config.identityKey, Config.makerSig⟩, ⟨a, Config.identitySign (sha384 (keyBytes a))⟩]

/-- The alias key's signature of a response: of its slots and the nonce. What else of the exchange SPDM has it cover, the spec does not say (DESIGN CHOICE, log 28). -/
def signResponse (slots shown : List (BitVec 384)) (nonce : BitVec 256) : BitVec 768 :=
  Config.aliasSign (slots.take 4) (sha384 (shown.flatMap digestBytes ++ bytesOf nonce.toNat 32))

/-- The answer to a request after the negotiation has come as far as `n` (1 version, 2 capabilities, 3 algorithms), and how far it is then.
Error codes: 0x01 invalid request, 0x04 unexpected request, 0x07 unsupported request. -/
def spdmAnswer (slots : List (BitVec 384)) (n : Nat) (r : SpdmReq) : SpdmReply × Nat :=
  match r with
  | .getVersion => (.version, 1)
  | .getCapabilities => if n < 1 then (.error 4, n) else (.capabilities, 2)
  | .negotiate ec sha => if n < 2 then (.error 4, n) else if ec && sha then (.algorithms, 3) else (.error 1, n)
  | .getDigests => if n < 3 then (.error 4, n) else (.digests, n)
  | .getCertificate k => if n < 3 then (.error 4, n) else if k = 0 then (.certificate (certChain slots), n) else (.error 1, n)
  | .challenge k nonce => if n < 3 then (.error 4, n) else if k = 0 then (.challenge slots nonce (signResponse slots slots nonce), n) else (.error 1, n)
  | .getMeasurements sel signed nonce =>
    if n < 3 then (.error 4, n)
    else
      let answer := fun shown => (SpdmReply.measurements shown nonce (if signed then some (signResponse slots shown nonce) else none), n)
      if sel = 0 then answer []
      else if sel = 0xFF then answer slots
      else if sel ≤ 16 then answer (slots[sel - 1]?).toList
      else (.error 1, n)
  | .keyExchange | .other => (.error 7, n)

def execSpdmRequest (s : State) : Out :=
  secure (fun d x => match d.occ with
    | .spdm r =>
      if x.boot = 1 then (let a := spdmAnswer x.slots x.spdm r; (d, { x with spdm := a.2, replies := x.replies ++ [a.1] })) else (d, x)
    | _ => (d, x)) s

end Sys2Proof.Machine
end

