-- ==== Sys2Proof/Machine/Dispatch.lean ====
section
/-! DEFINITION. The meaning of each instruction, arm by arm. -/

namespace Sys2Proof.Machine

def exec (i : Instr) (s : State) : Host.Outcome State Fault Refusal :=
  match i with
  | .id n => Sys2Proof.Machine.execId n s
  | .const n => Sys2Proof.Machine.execConst n s
  | .add n => Sys2Proof.Machine.execAdd n s
  | .sub n => Sys2Proof.Machine.execSub n s
  | .adds n => Sys2Proof.Machine.execAdds n s
  | .subs n => Sys2Proof.Machine.execSubs n s
  | .neg n => Sys2Proof.Machine.execNeg n s
  | .abs n => Sys2Proof.Machine.execAbs n s
  | .mul n => Sys2Proof.Machine.execMul n s
  | .mulh n => Sys2Proof.Machine.execMulh n s
  | .mad n => Sys2Proof.Machine.execMad n s
  | .div n => Sys2Proof.Machine.execDiv n s
  | .rem n => Sys2Proof.Machine.execRem n s
  | .min n => Sys2Proof.Machine.execMin n s
  | .max n => Sys2Proof.Machine.execMax n s
  | .and n => Sys2Proof.Machine.execAnd n s
  | .or n => Sys2Proof.Machine.execOr n s
  | .xor n => Sys2Proof.Machine.execXor n s
  | .not n => Sys2Proof.Machine.execNot n s
  | .andn n => Sys2Proof.Machine.execAndn n s
  | .shl n => Sys2Proof.Machine.execShl n s
  | .shr n => Sys2Proof.Machine.execShr n s
  | .sar n => Sys2Proof.Machine.execSar n s
  | .rol n => Sys2Proof.Machine.execRol n s
  | .clz n => Sys2Proof.Machine.execClz n s
  | .popc n => Sys2Proof.Machine.execPopc n s
  | .brev n => Sys2Proof.Machine.execBrev n s
  | .bfx n => Sys2Proof.Machine.execBfx n s
  | .bfi n => Sys2Proof.Machine.execBfi n s
  | .sel n => Sys2Proof.Machine.execSel n s
  | .cmpeq n => Sys2Proof.Machine.execCmpeq n s
  | .cmpne n => Sys2Proof.Machine.execCmpne n s
  | .cmplt n => Sys2Proof.Machine.execCmplt n s
  | .cmple n => Sys2Proof.Machine.execCmple n s
  | .cmpltn n => Sys2Proof.Machine.execCmpltn n s
  | .cmplen n => Sys2Proof.Machine.execCmplen n s
  | .addc n => Sys2Proof.Machine.execAddc n s
  | .subb n => Sys2Proof.Machine.execSubb n s
  | .lea n => Sys2Proof.Machine.execLea n s
  | .far n => Sys2Proof.Machine.execFar n s
  | .tagv n => Sys2Proof.Machine.execTagv n s
  | .clamp n => Sys2Proof.Machine.execClamp n s
  | .hash n => Sys2Proof.Machine.execHash n s
  | .rnd n => Sys2Proof.Machine.execRnd n s
  | .fadd n => Sys2Proof.Machine.execFadd n s
  | .fsub n => Sys2Proof.Machine.execFsub n s
  | .fmul n => Sys2Proof.Machine.execFmul n s
  | .ffma n => Sys2Proof.Machine.execFfma n s
  | .ffms n => Sys2Proof.Machine.execFfms n s
  | .fmin n => Sys2Proof.Machine.execFmin n s
  | .fmax n => Sys2Proof.Machine.execFmax n s
  | .fabs n => Sys2Proof.Machine.execFabs n s
  | .fneg n => Sys2Proof.Machine.execFneg n s
  | .fcmpeq n => Sys2Proof.Machine.execFcmpeq n s
  | .fcmplt n => Sys2Proof.Machine.execFcmplt n s
  | .fcmple n => Sys2Proof.Machine.execFcmple n s
  | .fcmpun n => Sys2Proof.Machine.execFcmpun n s
  | .frcp n => Sys2Proof.Machine.execFrcp n s
  | .frsq n => Sys2Proof.Machine.execFrsq n s
  | .fsqrt n => Sys2Proof.Machine.execFsqrt n s
  | .fdiv n => Sys2Proof.Machine.execFdiv n s
  | .fexp2 n => Sys2Proof.Machine.execFexp2 n s
  | .flog2 n => Sys2Proof.Machine.execFlog2 n s
  | .fsin n => Sys2Proof.Machine.execFsin n s
  | .fcos n => Sys2Proof.Machine.execFcos n s
  | .ftanh n => Sys2Proof.Machine.execFtanh n s
  | .frnd n => Sys2Proof.Machine.execFrnd n s
  | .fclass n => Sys2Proof.Machine.execFclass n s
  | .fscale n => Sys2Proof.Machine.execFscale n s
  | .cvtf n => Sys2Proof.Machine.execCvtf n s
  | .cvtfi n => Sys2Proof.Machine.execCvtfi n s
  | .cvtif n => Sys2Proof.Machine.execCvtif n s
  | .cmul n => Sys2Proof.Machine.execCmul n s
  | .cfma n => Sys2Proof.Machine.execCfma n s
  | .dot2 n => Sys2Proof.Machine.execDot2 n s
  | .dot4 n => Sys2Proof.Machine.execDot4 n s
  | .amax n => Sys2Proof.Machine.execAmax n s
  | .scaleq n => Sys2Proof.Machine.execScaleq n s
  | .qnt n => Sys2Proof.Machine.execQnt n s
  | .dqnt n => Sys2Proof.Machine.execDqnt n s
  | .pack n => Sys2Proof.Machine.execPack n s
  | .unpack n => Sys2Proof.Machine.execUnpack n s
  | .stat n => Sys2Proof.Machine.execStat n s
  | .ssum n => Sys2Proof.Machine.execSsum n s
  | .cvtsDec n => Sys2Proof.Machine.execCvtsDec n s
  | .cvtsEnc n => Sys2Proof.Machine.execCvtsEnc n s
  | .bcast n => Sys2Proof.Machine.execBcast n s
  | .shuf n => Sys2Proof.Machine.execShuf n s
  | .perm n => Sys2Proof.Machine.execPerm n s
  | .red n => Sys2Proof.Machine.execRed n s
  | .scan n => Sys2Proof.Machine.execScan n s
  | .laneid n => Sys2Proof.Machine.execLaneid n s
  | .split n => Sys2Proof.Machine.execSplit n s
  | .join n => Sys2Proof.Machine.execJoin n s
  | .vmaskSet n => Sys2Proof.Machine.execVmaskSet n s
  | .vmaskGet n => Sys2Proof.Machine.execVmaskGet n s
  | .compact n => Sys2Proof.Machine.execCompact n s
  | .expand n => Sys2Proof.Machine.execExpand n s
  | .steer n => Sys2Proof.Machine.execSteer n s
  | .merge n => Sys2Proof.Machine.execMerge n s
  | .carry n => Sys2Proof.Machine.execCarry n s
  | .loopb n => Sys2Proof.Machine.execLoopb n s
  | .lexit n => Sys2Proof.Machine.execLexit n s
  | .fan n => Sys2Proof.Machine.execFan n s
  | .sink n => Sys2Proof.Machine.execSink n s
  | .gate n => Sys2Proof.Machine.execGate n s
  | .ord n => Sys2Proof.Machine.execOrd n s
  | .fcall n => Sys2Proof.Machine.execFcall n s
  | .fretn n => Sys2Proof.Machine.execFretn n s
  | .stick n => Sys2Proof.Machine.execStick n s
  | .purge n => Sys2Proof.Machine.execPurge n s
  | .eos n => Sys2Proof.Machine.execEos n s
  | .eosw n => Sys2Proof.Machine.execEosw n s
  | .round n => Sys2Proof.Machine.execRound n s
  | .tagset n => Sys2Proof.Machine.execTagset n s
  | .tagget n => Sys2Proof.Machine.execTagget n s
  | .timer n => Sys2Proof.Machine.execTimer n s
  | .cntr n => Sys2Proof.Machine.execCntr n s
  | .seqsIter n => Sys2Proof.Machine.execSeqsIter n s
  | .seqsLane n => Sys2Proof.Machine.execSeqsLane n s
  | .commitGet n => Sys2Proof.Machine.execCommitGet n s
  | .commitSet n => Sys2Proof.Machine.execCommitSet n s
  | .launch n => Sys2Proof.Machine.execLaunch n s
  | .waitl n => Sys2Proof.Machine.execWaitl n s
  | .doneGraph n => Sys2Proof.Machine.execDoneGraph n s
  | .doneNext n => Sys2Proof.Machine.execDoneNext n s
  | .trap n => Sys2Proof.Machine.execTrap n s
  | .brk n => Sys2Proof.Machine.execBrk n s
  | .rdsr n => Sys2Proof.Machine.execRdsr n s
  | .wrsr n => Sys2Proof.Machine.execWrsr n s
  | .yield n => Sys2Proof.Machine.execYield n s
  | .resumeRetry n => Sys2Proof.Machine.execResumeRetry n s
  | .resumeRelease n => Sys2Proof.Machine.execResumeRelease n s
  | .resumeKill n => Sys2Proof.Machine.execResumeKill n s
  | .halt n => Sys2Proof.Machine.execHalt n s
  | .ld n => Sys2Proof.Machine.execLd n s
  | .st n => Sys2Proof.Machine.execSt n s
  | .lds n => Sys2Proof.Machine.execLds n s
  | .sts n => Sys2Proof.Machine.execSts n s
  | .ldg n => Sys2Proof.Machine.execLdg n s
  | .stg n => Sys2Proof.Machine.execStg n s
  | .atom n => Sys2Proof.Machine.execAtom n s
  | .cas n => Sys2Proof.Machine.execCas n s
  | .atomf n => Sys2Proof.Machine.execAtomf n s
  | .atoms n => Sys2Proof.Machine.execAtoms n s
  | .xlat n => Sys2Proof.Machine.execXlat n s
  | .ldp n => Sys2Proof.Machine.execLdp n s
  | .stp n => Sys2Proof.Machine.execStp n s
  | .sbar n => Sys2Proof.Machine.execSbar n s
  | .fence n => Sys2Proof.Machine.execFence n s
  | .flush n => Sys2Proof.Machine.execFlush n s
  | .inval n => Sys2Proof.Machine.execInval n s
  | .bind n => Sys2Proof.Machine.execBind n s
  | .bindUnbind n => Sys2Proof.Machine.execBindUnbind n s
  | .msend n => Sys2Proof.Machine.execMsend n s
  | .mrecv n => Sys2Proof.Machine.execMrecv n s
  | .pref n => Sys2Proof.Machine.execPref n s
  | .ldnode n => Sys2Proof.Machine.execLdnode n s
  | .wrnode n => Sys2Proof.Machine.execWrnode n s
  | .mtaskRun n => Sys2Proof.Machine.execMtaskRun n s
  | .mtaskDef n => Sys2Proof.Machine.execMtaskDef n s
  | .mtaskGo n => Sys2Proof.Machine.execMtaskGo n s
  | .mzero n => Sys2Proof.Machine.execMzero n s
  | .mdrainTok n => Sys2Proof.Machine.execMdrainTok n s
  | .mdrainMem n => Sys2Proof.Machine.execMdrainMem n s
  | .mdrainRoute n => Sys2Proof.Machine.execMdrainRoute n s
  | .mwload n => Sys2Proof.Machine.execMwload n s
  | .mtrayCfg n => Sys2Proof.Machine.execMtrayCfg n s
  | .mtrayPush n => Sys2Proof.Machine.execMtrayPush n s
  | .mtrayFlush n => Sys2Proof.Machine.execMtrayFlush n s
  | .mwait n => Sys2Proof.Machine.execMwait n s
  | .mscale n => Sys2Proof.Machine.execMscale n s
  | .mconv n => Sys2Proof.Machine.execMconv n s
  | .mstat n => Sys2Proof.Machine.execMstat n s
  | .route n => Sys2Proof.Machine.execRoute n s
  | .exdirBase n => Sys2Proof.Machine.execExdirBase n s
  | .exdirWrite n => Sys2Proof.Machine.execExdirWrite n s
  | .exdirInval n => Sys2Proof.Machine.execExdirInval n s
  | .combCfg n => Sys2Proof.Machine.execCombCfg n s
  | .combSync n => Sys2Proof.Machine.execCombSync n s
  | .combStat n => Sys2Proof.Machine.execCombStat n s
  | .pcopy n => Sys2Proof.Machine.execPcopy n s
  | .pgath n => Sys2Proof.Machine.execPgath n s
  | .pscat n => Sys2Proof.Machine.execPscat n s
  | .pfill n => Sys2Proof.Machine.execPfill n s
  | .pdec n => Sys2Proof.Machine.execPdec n s
  | .coll n => Sys2Proof.Machine.execColl n s
  | .rlinv n => Sys2Proof.Machine.execRlinv n s
  | .migr n => Sys2Proof.Machine.execMigr n s
  | .mpin n => Sys2Proof.Machine.execMpin n s
  | .mpinOff n => Sys2Proof.Machine.execMpinOff n s
  | .mrdupSys n => Sys2Proof.Machine.execMrdupSys n s
  | .mrdupMod n => Sys2Proof.Machine.execMrdupMod n s
  | .mhint n => Sys2Proof.Machine.execMhint n s
  | .bgate n => Sys2Proof.Machine.execBgate n s
  | .bswap n => Sys2Proof.Machine.execBswap n s
  | .bdiag n => Sys2Proof.Machine.execBdiag n s
  | .bprobNorm n => Sys2Proof.Machine.execBprobNorm n s
  | .bprobMarg n => Sys2Proof.Machine.execBprobMarg n s
  | .bprobSamp n => Sys2Proof.Machine.execBprobSamp n s
  | .loopbAdmit => Sys2Proof.Machine.execLoopbAdmit s
  | .loopbRetire => Sys2Proof.Machine.execLoopbRetire s
  | .loopbExitRequest => Sys2Proof.Machine.execLoopbExitRequest s
  | .orderedSinkRelease => Sys2Proof.Machine.execOrderedSinkRelease s
  | .markerArrival => Sys2Proof.Machine.execMarkerArrival s
  | .timerDue => Sys2Proof.Machine.execTimerDue s
  | .waitlRelease => Sys2Proof.Machine.execWaitlRelease s
  | .accessAccept => Sys2Proof.Machine.execAccessAccept s
  | .accessPerform => Sys2Proof.Machine.execAccessPerform s
  | .hearthChainComplete => Sys2Proof.Machine.execHearthChainComplete s
  | .trayFire => Sys2Proof.Machine.execTrayFire s
  | .trayTimerExpiry => Sys2Proof.Machine.execTrayTimerExpiry s
  | .pdecPatchEmit => Sys2Proof.Machine.execPdecPatchEmit s
  | .collSrcfree => Sys2Proof.Machine.execCollSrcfree s
  | .collLocaldone => Sys2Proof.Machine.execCollLocaldone s
  | .collAlldone => Sys2Proof.Machine.execCollAlldone s
  | .braidTaskStart => Sys2Proof.Machine.execBraidTaskStart s
  | .engineTaskComplete => Sys2Proof.Machine.execEngineTaskComplete s
  | .islandPacketAccept => Sys2Proof.Machine.execIslandPacketAccept s
  | .islandResultDelivery => Sys2Proof.Machine.execIslandResultDelivery s
  | .tokenArrival => Sys2Proof.Machine.execTokenArrival s
  | .spillInsert => Sys2Proof.Machine.execSpillInsert s
  | .spillLookup => Sys2Proof.Machine.execSpillLookup s
  | .switchCombine => Sys2Proof.Machine.execSwitchCombine s
  | .manifestArrival => Sys2Proof.Machine.execManifestArrival s
  | .dispatchArrival => Sys2Proof.Machine.execDispatchArrival s
  | .contribArrival => Sys2Proof.Machine.execContribArrival s
  | .nullArrival => Sys2Proof.Machine.execNullArrival s
  | .creditArrival => Sys2Proof.Machine.execCreditArrival s
  | .overflowQueueScan => Sys2Proof.Machine.execOverflowQueueScan s
  | .rackRowCommit => Sys2Proof.Machine.execRackRowCommit s
  | .directoryFill => Sys2Proof.Machine.execDirectoryFill s
  | .shootdownComplete => Sys2Proof.Machine.execShootdownComplete s
  | .migrationEnter => Sys2Proof.Machine.execMigrationEnter s
  | .migrationCopyLine => Sys2Proof.Machine.execMigrationCopyLine s
  | .migrationSwitch => Sys2Proof.Machine.execMigrationSwitch s
  | .migrationAbort => Sys2Proof.Machine.execMigrationAbort s
  | .migrationDeadline => Sys2Proof.Machine.execMigrationDeadline s
  | .hotDecay => Sys2Proof.Machine.execHotDecay s
  | .tieringEvaluation => Sys2Proof.Machine.execTieringEvaluation s
  | .expertResidencyAction => Sys2Proof.Machine.execExpertResidencyAction s
  | .popularityDecay => Sys2Proof.Machine.execPopularityDecay s
  | .uncorrectableError => Sys2Proof.Machine.execUncorrectableError s
  | .rollback => Sys2Proof.Machine.execRollback s
  | .faultPost => Sys2Proof.Machine.execFaultPost s
  | .msfullHandling => Sys2Proof.Machine.execMsfullHandling s
  | .loaderDecision => Sys2Proof.Machine.execLoaderDecision s
  | .deficitExhausted => Sys2Proof.Machine.execDeficitExhausted s
  | .loadBlocked => Sys2Proof.Machine.execLoadBlocked s
  | .placement => Sys2Proof.Machine.execPlacement s
  | .preemptionRequest => Sys2Proof.Machine.execPreemptionRequest s
  | .preemptionSave => Sys2Proof.Machine.execPreemptionSave s
  | .forcedPreemption => Sys2Proof.Machine.execForcedPreemption s
  | .relocation => Sys2Proof.Machine.execRelocation s
  | .compaction => Sys2Proof.Machine.execCompaction s
  | .compactionSkip => Sys2Proof.Machine.execCompactionSkip s
  | .loaderImageCheck => Sys2Proof.Machine.execLoaderImageCheck s
  | .contextCompletion => Sys2Proof.Machine.execContextCompletion s
  | .ctxcfgEnSet => Sys2Proof.Machine.execCtxcfgEnSet s
  | .ctxcfgEnClear => Sys2Proof.Machine.execCtxcfgEnClear s
  | .contextFreed => Sys2Proof.Machine.execContextFreed s
  | .stallcntWrite => Sys2Proof.Machine.execStallcntWrite s
  | .tlbctlWrite => Sys2Proof.Machine.execTlbctlWrite s
  | .errlogWrite => Sys2Proof.Machine.execErrlogWrite s
  | .prioWrite => Sys2Proof.Machine.execPrioWrite s
  | .weightWrite => Sys2Proof.Machine.execWeightWrite s
  | .spillRegisterWrite => Sys2Proof.Machine.execSpillRegisterWrite s
  | .registerWrite => Sys2Proof.Machine.execRegisterWrite s
  | .partialRegisterWrite => Sys2Proof.Machine.execPartialRegisterWrite s
  | .lvshcmdRange => Sys2Proof.Machine.execLvshcmdRange s
  | .lvshcmdAll => Sys2Proof.Machine.execLvshcmdAll s
  | .lvstatWrite => Sys2Proof.Machine.execLvstatWrite s
  | .sbpstClearCounters => Sys2Proof.Machine.execSbpstClearCounters s
  | .sbpstDisable => Sys2Proof.Machine.execSbpstDisable s
  | .sbpstTrain => Sys2Proof.Machine.execSbpstTrain s
  | .sbidWrite => Sys2Proof.Machine.execSbidWrite s
  | .ctxcmdPreempt => Sys2Proof.Machine.execCtxcmdPreempt s
  | .ctxcmdHalt => Sys2Proof.Machine.execCtxcmdHalt s
  | .ctxcmdClear => Sys2Proof.Machine.execCtxcmdClear s
  | .ctxcmdKill => Sys2Proof.Machine.execCtxcmdKill s
  | .brkstClear => Sys2Proof.Machine.execBrkstClear s
  | .dbgctlEnable => Sys2Proof.Machine.execDbgctlEnable s
  | .dbgctlWerrClear => Sys2Proof.Machine.execDbgctlWerrClear s
  | .debugWindowWrite => Sys2Proof.Machine.execDebugWindowWrite s
  | .ring => Sys2Proof.Machine.execRing s
  | .iring => Sys2Proof.Machine.execIring s
  | .hostBar2Access => Sys2Proof.Machine.execHostBar2Access s
  | .functionLevelReset => Sys2Proof.Machine.execFunctionLevelReset s
  | .spdmRequest => Sys2Proof.Machine.execSpdmRequest s
  | .measurementExtend => Sys2Proof.Machine.execMeasurementExtend s
  | .recoveryVerify => Sys2Proof.Machine.execRecoveryVerify s
  | .coldReset => Sys2Proof.Machine.execColdReset s
  | .flitReceive => Sys2Proof.Machine.execFlitReceive s
  | .portTrainingComplete => Sys2Proof.Machine.execPortTrainingComplete s
  | .routeLinkTimeout => Sys2Proof.Machine.execRouteLinkTimeout s
  | .remoteRequestArrival => Sys2Proof.Machine.execRemoteRequestArrival s
  | .responseTimeout => Sys2Proof.Machine.execResponseTimeout s
  | .collJoinTimeout => Sys2Proof.Machine.execCollJoinTimeout s
  | .eventArbitration => Sys2Proof.Machine.execEventArbitration s
  | .throttleStart => Sys2Proof.Machine.execThrottleStart s
  | .throttleEnd => Sys2Proof.Machine.execThrottleEnd s
  | .thermalTrip => Sys2Proof.Machine.execThermalTrip s
  | .clockCycle => Sys2Proof.Machine.execClockCycle s
  | .spareRemapComplete => Sys2Proof.Machine.execSpareRemapComplete s
  | .weightStoreFillComplete => Sys2Proof.Machine.execWeightStoreFillComplete s
  | .sbctlEnWrite => Sys2Proof.Machine.execSbctlEnWrite s
  | .completionTimeout => Sys2Proof.Machine.execCompletionTimeout s
  | .cxlPortLinkDown => Sys2Proof.Machine.execCxlPortLinkDown s

end Sys2Proof.Machine
end

