-- ==== Sys2Proof/Machine/Place.lean ====
section
/-! DEFINITION. A small load placed from outside the machine: what stands for the loader where a single record is run (log 45). -/

namespace Sys2Proof.Machine

/-- The root frame's first iteration in context 0. -/
def placedTag : Tag := ⟨0, 0, 0⟩
def placedSite : Focus := ⟨0, 0, placedTag, .l⟩

/-- A data token of zeros on a port of the placed record. -/
def placedTok (q : Port) : Token :=
  { tag := placedTag, seq := 0, ma := .once, poi := false, cls := .data, lvl := 0, payload := List.replicate 8 (Lane.some 0), dest := ⟨0, 0, 0, 0, q⟩ }

def placedLoad : Load := ⟨0, 0, 0, 0, 1, 1, [], 0⟩

def placeRecord (r : Record) (d : Dev) : Dev :=
  { d with
    ctxs := d.ctxs.set 0 { d.ctx 0 with cfg := 3 }
    graphs := d.graphs.set 0 { d.graph 0 with st := .resident, load := some placedLoad }
    pages := d.pages.set 0 { d.page 0 with cid := some 0, w := 1, h := 1, toks := [Port.l, .r, .c, .p].map fun q => ⟨placedTok q, .store, false, .plain⟩ }
    spans := d.spans.set 0 { d.span 0 with anchor := true, nodes := [(0, r)], farQ := [placedTok .l], fired := none } }

end Sys2Proof.Machine
end

