-- ==== Sys2Proof/Machine/Step.lean ====
section
/-! DEFINITION. One step of the machine: what moves next, and what it does. -/

namespace Sys2Proof.Machine

/-- What a move does. A step of the hardware or of an agent outside acts on its occasion; a firing belongs to a span. After a cycle's end the
spans' ready firings are noted (R402). Once a sensor has tripped, no work begins until a cold reset (R487). -/
def moveBy (m : Move) (s : State) : Out :=
  match m with
  | .fire f => fireStep exec f s
  | .step i o =>
    if firesOnly i || (s.dev.tripped && i != .coldReset && i != .eventArbitration && i != .clockCycle) then .next s
    else match exec i { s with dev := { s.dev with occ := o } } with
      | .next s' => .next (if i == .clockCycle then freshAll exec s' else s')
      | x => x

/-- The head of the agenda moves, or, where the agenda is empty, whatever the machine and the agents around it do next (log 1). -/
def step (s : State) : Out :=
  match s.agenda with
  | m :: l => moveBy m { s with agenda := l }
  | [] =>
    let s' := { s with dev := { s.dev with tick := s.dev.tick + 1 } }
    match Config.pick s.dev.tick with
    | some m => moveBy m s'
    | none => .next s'

/-- The state in which a record is the one that fires next: context 0 runs a load of one page with system privilege, the record stands in slot
0 of the span at FE (0,0), tokens of one tag stand on its four ports, and the span moves next. -/
def State.withFetchWord (s : State) (nbits w : Nat) : State :=
  { s with dev := placeRecord (BitVec.ofNat 96 (w % 2 ^ nbits)) s.dev, agenda := [.fire placedSite] }

end Sys2Proof.Machine
end

