-- ==== Sys2Proof/WellFormed.lean ====
section
/-! DEFINITION. Well-formed instructions: node records that a span of a lane count may hold (R109 to R111). A step has no record. -/

namespace Sys2Proof

/-- A node instruction whose codes, literal and destinations its row accepts, in a span of `lanes` lanes (R111). -/
def WellFormed (lanes : Nat) (i : Instr) : Bool :=
  match partsOf i with
  | some (_, _, n) => (Machine.nodeCause i n lanes).isNone
  | none => false

end Sys2Proof
end

