-- ==== Sys2Proof/Safety.lean ====
section
/-! DEFINITION. What counts as a safe run, and the terms in which claims about single steps are stated. -/

namespace Sys2Proof
open Machine

/-- A step that answers a next state. -/
def Goes (s : State) : Prop := ∃ s', Machine.step s = .next s'

/-- A run of `k` steps that each answer a next state. -/
def RunsFor (k : Nat) (s : State) : Prop := ∃ s', Host.Core.run core k s = .next s'

/-- An instruction answers a next state of which something holds. -/
def Leads (i : Instr) (s : State) (P : State → Prop) : Prop := ∃ t, Machine.exec i s = .next t ∧ P t

/-- An instruction answers the next state in which the package is as given and nothing else has changed. -/
def Gives (i : Instr) (s : State) (d : Dev) : Prop := Machine.exec i s = .next { s with dev := d }

/-- The firing under way goes ahead with its own effect (R22, R52, R91, R92, R99, R111): the span's context runs, every port in `ports` holds an
operand, the record is a valid one that the context may execute, what it names exists (R207, R242, R271), no predicate holds the firing back,
every destination exists, and the output queue has space for a token to each of them, those in `extra` (FAN's third, R170) among them. `x` is the firing. -/
structure Ready (i : Instr) (n : NodeRec) (ports : List Port) (extra : List Dst) (d : Dev) (x : Fire) : Prop where
  site : x.f = d.focus
  record : x.n = n
  lanes : x.lanes = lanesOf (d.span d.focus.span).wid
  context : d.cidOf (pageOfFe d.focus.span) = some x.cid
  running : runs (d.graph x.cid) = true
  operands : operandsOf d d.focus ports = some x.o
  valid : nodeCause i n x.lanes = none
  names : namesOk i n d (pageOfFe d.focus.span) x.cid = true
  privilege : privileged i = true → (d.ctx x.cid).priv = true
  predicate : ((x.o.p.map (·.poi)).getD false) = false
  goes : suppresses n x.o = false
  dests : resolveBoth d d.focus.span n = .ok (x.a, x.b)
  space : hasSpace d d.focus.span (named (n.dsta :: n.dstb :: extra)) = true

/-- The package once the firing has taken its operands and has been counted. -/
def taken (x : Fire) (d : Dev) : Dev := begin_ d x.f x.o

end Sys2Proof
end

