-- ==== Sys2Proof/Certificates/Slice0/Obligations.lean ====
section
/-! DEFINITION. The statements for the provers. Each formalises rules of the spec, or says what the model derives from them. -/

namespace Sys2Proof.Claims
open Machine

/-! ### Encoding, steps, and what every step keeps -/

/-- What holds of the security processor in every run (R466, R473): sixteen slots, of which slot 14 is never extended, and a BOOT of 0 to 3. -/
def SecInv (x : Sec) : Prop := x.slots.length = 16 ∧ x.slots[14]? = some 0 ∧ x.boot.toNat ≤ 3

/-- Node instructions whose firing the span chooses from its sites; FAR forwards beside the firings (R103), LOOPB's ports are arms of their own. -/
def plainSite (i : Instr) : Bool := match i with | .far _ | .loopb _ => false | _ => true

end Sys2Proof.Claims

open Sys2Proof Sys2Proof.Machine Sys2Proof.Claims

/-- Every well-formed node instruction, of any lane count, is read back from its record with every field as it was (R86, R89 to R95, R100, R109, R110). -/
def Obligations.DecodeEncode : Prop :=
  ∀ (lanes : Nat) (i : Instr), WellFormed lanes i = true → ∃ r, encode i = some r ∧ decodeRec r = .ok i

/-- Every record that decodes is the record that its instruction encodes to: no bit of it is dropped, and no two records mean the same. -/
def Sys2Proof.Claims.EncodeDecode : Prop := ∀ (r : Record) (i : Instr), decodeRec r = .ok i → encode i = some r

/-- Opcodes 0x00 and 0xFF are refused by name, with any other bits (R111). -/
def Sys2Proof.Claims.IllegalOpcodes : Prop :=
  ∀ r : Record, r >>> 88 = 0x00 ∨ r >>> 88 = 0xFF → decodeRec r = .error .illegalOpcode

/-- R111: Every record that decodes is the record that its instruction encodes to: no bit of it is dropped, and no two records mean the same. Opcodes
0x00 and 0xFF are refused by name, with any other bits. -/
def Obligations.EncodingIsExact : Prop := Claims.EncodeDecode ∧ Claims.IllegalOpcodes

/-- A firing that the span chooses, of a record that decodes to `i`, is `exec i` at that site; around it the step notes what was passed over (R86,
R356, R402). -/
def Sys2Proof.Claims.StepFires : Prop :=
  ∀ (s t : State) (f : Focus) (l : List Move) (w : Record) (i : Instr),
    s.agenda = .fire f :: l → s.dev.tripped = false → (s.dev.span f.span).nodes.find? f.node = some w → decodeRec w = .ok i → plainSite i = true →
    (s.dev.span f.span).fired ≠ some s.dev.now.toNat →
    (chosen s.dev f.span (candidates exec { s with agenda := l } f)).map (siteOf f.span) = some f →
    exec i { s with agenda := l, dev := { s.dev with focus := f, occ := .site f } } = .next t →
    Machine.step s = .next { t with dev := noteFired f (fireClass s.dev f) (candidates exec { s with agenda := l } f) t.dev }

/-- A step of the hardware or of an agent outside is `exec i` on its occasion; the end of a cycle also notes the ready firings (R402). -/
def Sys2Proof.Claims.StepActs : Prop :=
  ∀ (s t : State) (i : Instr) (o : Occ) (l : List Move),
    s.agenda = .step i o :: l → firesOnly i = false → s.dev.tripped = false →
    exec i { s with agenda := l, dev := { s.dev with occ := o } } = .next t →
    Machine.step s = .next (if i = .clockCycle then freshAll exec t else t)

/-- R86, R356, R402: a step runs the instruction that it decodes, and around it notes what R402 asks for: a firing that the span chooses, and a step of
the hardware or of an agent outside. -/
def Obligations.StepsRunTheirInstruction : Prop := Claims.StepFires ∧ Claims.StepActs

/-- A span fires at most once in a cycle: asked again in the cycle of its last firing, it does nothing but for FAR, whose tokens pass beside (R103,
R356). -/
def Sys2Proof.Claims.OneFiringACycle : Prop :=
  ∀ (s : State) (f : Focus) (l : List Move),
    s.agenda = .fire f :: l → (s.dev.span f.span).fired = some s.dev.now.toNat → isFar (siteInstr s.dev f) = false →
    Machine.step s = .next { s with agenda := l }

/-- No step stops the machine (R404, R405): every instruction answers a next state at every state. -/
def Obligations.NoStepStops : Prop := (∀ (i : Instr) (s : State), ∃ t, exec i s = .next t) ∧ ∀ s : State, Goes s

/-- The security processor's invariant holds at reset (R473: each slot starts at zero). -/
def Obligations.SecInvAtReset : Prop := SecInv State.reset.sec ∧ ∀ k < 16, State.reset.sec.slots[k]? = some 0

/-- Every step keeps the security processor's invariant: the slots stay sixteen, slot 14 is never extended, BOOT stays one of its codes. -/
def Obligations.SecInvKept : Prop := ∀ s t : State, SecInv s.sec → Machine.step s = .next t → SecInv t.sec

/-- Only COLD_RESET, RECOVERY_VERIFY, MEASUREMENT_EXTEND, DBGCTL_ENABLE and SPDM_REQUEST act on the security processor's own state. -/
def Obligations.SecOnlyByItsSteps : Prop :=
  ∀ (i : Instr) (s t : State), exec i s = .next t →
    i ≠ .coldReset → i ≠ .recoveryVerify → i ≠ .measurementExtend → i ≠ .dbgctlEnable → i ≠ .spdmRequest → t.sec = s.sec

namespace Sys2Proof.Claims

/-! ### Arithmetic firings -/

/-- An instruction and its result as a function of the operands. -/
abbrev ArithRow := (NodeRec → Instr) × (Args → Res)

/-- The integer, logic and address instructions (R131 to R139) but FAR. -/
def integerRows : List ArithRow :=
  [(.id, resId), (.const, resConst), (.add, resAdd), (.sub, resSub), (.adds, resAdds), (.subs, resSubs), (.neg, resNeg), (.abs, resAbs), 
   (.mul, resMul), (.mulh, resMulh), (.mad, resMad), (.div, resDiv), (.rem, resRem), (.min, resMin), (.max, resMax), (.and, resAnd), 
   (.or, resOr), (.xor, resXor), (.not, resNot), (.andn, resAndn), (.shl, resShl), (.shr, resShr), (.sar, resSar), (.rol, resRol), 
   (.clz, resClz), (.popc, resPopc), (.brev, resBrev), (.bfx, resBfx), (.bfi, resBfi), (.sel, resSel), (.cmpeq, resCmpeq), 
   (.cmpne, resCmpne), (.cmplt, resCmplt), (.cmple, resCmple), (.cmpltn, resCmpltn), (.cmplen, resCmplen), (.addc, resAddc), 
   (.subb, resSubb), (.lea, resLea), (.tagv, resTagv), (.clamp, resClamp), (.hash, resHash), (.rnd, resRnd)]

/-- The floating-point instructions, conversions, complex and dot products (R140 to R148). -/
def floatRows : List ArithRow :=
  [(.fadd, resFadd), (.fsub, resFsub), (.fmul, resFmul), (.ffma, resFfma), (.ffms, resFfms), (.fmin, resFmin), (.fmax, resFmax), 
   (.fabs, resFabs), (.fneg, resFneg), (.fcmpeq, resFcmpeq), (.fcmplt, resFcmplt), (.fcmple, resFcmple), (.fcmpun, resFcmpun), 
   (.frcp, resFrcp), (.frsq, resFrsq), (.fsqrt, resFsqrt), (.fdiv, resFdiv), (.fexp2, resFexp2), (.flog2, resFlog2), (.fsin, resFsin), 
   (.fcos, resFcos), (.ftanh, resFtanh), (.frnd, resFrnd), (.fclass, resFclass), (.fscale, resFscale), (.cvtf, resCvtf), 
   (.cvtfi, resCvtfi), (.cvtif, resCvtif), (.cmul, resCmul), (.cfma, resCfma), (.dot2, resDot2), (.dot4, resDot4)]

/-- The block-format and statistics instructions (R151 to R158) but STAT. -/
def blockRows : List ArithRow :=
  [(.amax, resAmax), (.scaleq, resScaleq), (.qnt, resQnt), (.dqnt, resDqnt), (.pack, resPack), (.unpack, resUnpack), (.ssum, resSsum), 
   (.cvtsDec, resCvtsDec), (.cvtsEnc, resCvtsEnc)]

/-- The lane instructions (R159 to R165). -/
def laneRows : List ArithRow :=
  [(.bcast, resBcast), (.shuf, resShuf), (.perm, resPerm), (.red, resRed), (.scan, resScan), (.laneid, resLaneid), (.split, resSplit), 
   (.join, resJoin), (.vmaskSet, resVmaskSet), (.vmaskGet, resVmaskGet), (.compact, resCompact), (.expand, resExpand)]

def arithRows : List ArithRow := integerRows ++ floatRows ++ blockRows ++ laneRows

/-- The result of an arithmetic firing, with FTZ as the context's pages hold it (R126). -/
def resultOf (e : ArithRow) (d : Dev) (x : Fire) : Res := e.2 (argsOf x (d.page x.pg).ftz)

/-- The package after a firing that goes ahead has taken its operands, emitted a result and counted what it counts. -/
def emitted (x : Fire) (d : Dev) (r : Res) : Dev := addCounts (emit2 x (taken x d) r.clsA r.clsB r.lvl r.a r.b) x.key r.counts

/-- The rows go ahead under the conditions of R22 alone and emit their results. -/
def Completes (rows : List ArithRow) : Prop :=
  ∀ e ∈ rows, ∀ (n : NodeRec) (s : State) (x : Fire), Ready (e.1 n) n (portsOf (e.1 n) n) [] s.dev x →
    Gives (e.1 n) s (emitted x s.dev (resultOf e (taken x s.dev) x))

/-- The tokens that leave for a destination, if any (R99). -/
def flightsTo (x : Fire) (d : Dev) (seq : BitVec 26) (cls : Cls) (lvl : BitVec 3) (p : Payload) (dst : Option Dest) : List Flight :=
  let cut := if cls = .stat then (indexed p).map fun (j, l) => if j < 8 then l else .none else p
  dst.toList.map fun y => ⟨(d.cidOf (pageOfFe y.key)).getD (x.f.tag.cid.toNat), .span x.key, netOf cls,
    { tag := emitTag x.n x.f.tag, seq, ma := .once, poi := x.o.poi, cls, lvl, payload := cut, dest := y }⟩

/-- The destinations that a firing's PRD leaves it (R91). -/
def steered (x : Fire) : Option Dest × Option Dest :=
  if x.n.prd = .steer then (if (x.o.p.map tokTrue).getD false then (x.a, none) else (none, x.b)) else (x.a, x.b)

/-- A page but for the tokens it holds and the mark that it is charged (R394). -/
def pageRest (p : Page) : Page := { p with toks := [], charged := false }

/-- A span but for its count set, sequence counters and the cycle of its last firing. -/
def spanRest (s : Span) : Span := { s with counts := .zero, seqs := [], fired := none }

/-- What an arithmetic instruction leaves as it was: every register of every context, every byte of memory and its poison, the islands, the loader and
the rest of the package; every other span and page; and of its own page and span all but the operands taken and the counts. -/
structure ArithFrame (key : Nat) (d d' : Dev) : Prop where
  whole : d' = { d with spans := d'.spans, pages := d'.pages, net := d'.net }
  spans : ∀ k, k ≠ key → d'.span k = d.span k
  pages : ∀ p, p ≠ pageOfFe key → d'.page p = d.page p
  ownSpan : spanRest (d'.span key) = spanRest (d.span key)
  ownPage : pageRest (d'.page (pageOfFe key)) = pageRest (d.page (pageOfFe key))
  sends : ∃ l, d'.net = d.net ++ l
  memory : ∀ a, (readEl d'.mem .host a 1) = (readEl d.mem .host a 1)

end Sys2Proof.Claims

/-- R131 to R139: every integer, logic and address instruction, once it is ready, takes its operands and emits its result. -/
def Sys2Proof.Claims.IntegerCompletes : Prop := Completes integerRows

/-- R140 to R148: the floating-point instructions, conversions, complex and dot products likewise. -/
def Sys2Proof.Claims.FloatCompletes : Prop := Completes floatRows

/-- R151 to R165: the block-format, statistics and lane instructions likewise. -/
def Sys2Proof.Claims.BlockLaneCompletes : Prop := Completes (blockRows ++ laneRows)

/-- R131 to R148, R151 to R165: a ready firing of each arithmetic, conversion, lane and block node emits its result on its destinations. -/
def Obligations.ArithmeticCompletes : Prop := Claims.IntegerCompletes ∧ Claims.FloatCompletes ∧ Claims.BlockLaneCompletes

/-- What the arithmetic instructions leave unchanged, for every state in which one is ready. -/
def Sys2Proof.Claims.ArithmeticFrame : Prop :=
  ∀ e ∈ arithRows, ∀ (n : NodeRec) (s t : State) (x : Fire), Ready (e.1 n) n (portsOf (e.1 n) n) [] s.dev x → exec (e.1 n) s = .next t →
    t.sec = s.sec ∧ t.agenda = s.agenda ∧ ArithFrame s.dev.focus.span s.dev t.dev

/-- R91, R95, R98, R99: what a ready arithmetic firing sends. The tokens carry one SEQ, the operands' poison and the tag of R93; PRD 3 chooses between
DSTA and DSTB; a sequence source numbers the firings that emit. -/
def Sys2Proof.Claims.ArithmeticEmission : Prop :=
  ∀ e ∈ arithRows, ∀ (n : NodeRec) (s t : State) (x : Fire), Ready (e.1 n) n (portsOf (e.1 n) n) [] s.dev x → exec (e.1 n) s = .next t →
    let r := resultOf e (taken x s.dev) x
    let q := if n.seq then (s.dev.span x.key).seqs.getD x.f.node 0 else x.o.seq
    let ds := steered x
    t.dev.net = s.dev.net ++ flightsTo x s.dev q r.clsA r.lvl r.a ds.1 ++ flightsTo x s.dev q r.clsB r.lvl r.b ds.2 ∧
    (t.dev.span x.key).seqs.getD x.f.node 0 =
      (if n.seq && (ds.1.isSome || ds.2.isSome) then q + 1 else (s.dev.span x.key).seqs.getD x.f.node 0) ∧
    (t.dev.span x.key).counts = (s.dev.span x.key).counts.gather r.counts

/-- R91, R93, R95, R98, R99: What a ready arithmetic firing emits, and what it leaves unchanged: every register, every other span and page, and every
byte of memory. -/
def Obligations.ArithmeticLeavesTheRest : Prop := Claims.ArithmeticFrame ∧ Claims.ArithmeticEmission

/-- R22: a node whose required ports do not all hold a token of the tag, or hold only sticky ones, or whose named destinations do not all have queue
space, does not fire, and nothing changes. -/
def Sys2Proof.Claims.NotReadyNothingHappens : Prop :=
  ∀ e ∈ arithRows, ∀ (n : NodeRec) (s : State),
    (operandsOf s.dev s.dev.focus (portsOf (e.1 n) n) = none ∨ hasSpace s.dev s.dev.focus.span (named [n.dsta, n.dstb]) = false) →
    exec (e.1 n) s = .next s

/-- R22, R103, R356: a firing whose operands are not all there does nothing, and a span fires at most once in a cycle. -/
def Obligations.FiringsThatDoNotBegin : Prop := Claims.OneFiringACycle ∧ Claims.NotReadyNothingHappens

namespace Sys2Proof.Claims

/-! ### Results of arithmetic -/

/-- An element operation of one, two or three operands (R125): a result element where every operand element is present, absent elsewhere. -/
def map1 (f : Nat → Nat) (l : List (Option Nat)) : List (Option Nat) := l.map (Option.map f)
def map2 (f : Nat → Nat → Nat) (l r : List (Option Nat)) : List (Option Nat) :=
  List.zipWith (fun x y => match x, y with | some u, some v => some (f u v) | _, _ => none) l r
def map3 (f : Nat → Nat → Nat → Nat) (l r c : List (Option Nat)) : List (Option Nat) :=
  List.zipWith (fun (xy : Option Nat × Option Nat) z => match xy.1, xy.2, z with | some u, some v, some w => some (f u v w) | _, _, _ => none)
    (List.zip l r) c

/-- Operand payloads of `n` lanes, as many as a span may have. -/
def Sized (a : Args) : Prop :=
  a.n ∈ [8, 16, 32, 64, 128] ∧ a.l.length = a.n ∧ a.r.length = a.n ∧ a.c.length = a.n

/-- The integer formats with their element widths and signedness (R55, R109). -/
def intFormats : List (Fmt × Nat × Bool) :=
  [(.i32, 32, true), (.n32, 32, false), (.i16x2, 16, true), (.n16x2, 16, false), (.i8x4, 8, true), (.n8x4, 8, false), (.i64, 64, true), (.n64, 64, false)]

/-- The value of an `n`-bit pattern, and the pattern of a value wrapped to `n` bits. -/
def rd (n : Nat) (sg : Bool) (p : Nat) : Int := if sg = true ∧ 2 ^ (n - 1) ≤ p then (p : Int) - 2 ^ n else p
def wr (n : Nat) (v : Int) : Nat := (v % 2 ^ n).toNat

/-- A payload holds exactly these elements, both copies alike, and nothing is counted. -/
def Holds (f : Fmt) (r : Res) (es : List (Option Nat)) : Prop := elems f r.a = es ∧ r.b = r.a ∧ r.counts = .zero

end Sys2Proof.Claims

/-- R131, R125: addition, subtraction, multiplication and negation modulo 2^n, the high half of a product, multiply-add, and the smaller and larger of
two, element by element; an element with an absent operand is absent. -/
def Sys2Proof.Claims.IntegerElements : Prop :=
  ∀ f ∈ intFormats, ∀ a : Args, a.fmt = f.1 → Sized a →
    let n := f.2.1
    let v := rd n f.2.2
    let L := elems f.1 a.l
    let R := elems f.1 a.r
    let C := elems f.1 a.c
    Holds f.1 (resAdd a) (map2 (fun x y => (x + y) % 2 ^ n) L R) ∧
    Holds f.1 (resSub a) (map2 (fun x y => (x + 2 ^ n - y) % 2 ^ n) L R) ∧
    Holds f.1 (resMul a) (map2 (fun x y => x * y % 2 ^ n) L R) ∧
    Holds f.1 (resNeg a) (map1 (fun x => (2 ^ n - x) % 2 ^ n) L) ∧
    Holds f.1 (resMulh a) (map2 (fun x y => wr n (v x * v y / 2 ^ n)) L R) ∧
    Holds f.1 (resMad a) (map3 (fun x y z => (x * y + z) % 2 ^ n) L R C) ∧
    Holds f.1 (resMin a) (map2 (fun x y => if v x ≤ v y then x else y) L R) ∧
    Holds f.1 (resMax a) (map2 (fun x y => if v y ≤ v x then x else y) L R)

/-- R131: the bitwise instructions, selection and the comparisons, whose true is all bits set. -/
def Sys2Proof.Claims.LogicElements : Prop :=
  ∀ f ∈ intFormats, ∀ a : Args, a.fmt = f.1 → Sized a →
    let n := f.2.1
    let v := rd n f.2.2
    let mask := fun b : Bool => if b then 2 ^ n - 1 else 0
    let L := elems f.1 a.l
    let R := elems f.1 a.r
    let C := elems f.1 a.c
    Holds f.1 (resAnd a) (map2 (fun x y => x &&& y) L R) ∧
    Holds f.1 (resOr a) (map2 (fun x y => x ||| y) L R) ∧
    Holds f.1 (resXor a) (map2 (fun x y => x ^^^ y) L R) ∧
    Holds f.1 (resNot a) (map1 (fun x => 2 ^ n - 1 - x) L) ∧
    Holds f.1 (resSel a) (map3 (fun x y z => if z = 0 then y else x) L R C) ∧
    Holds f.1 (resCmpeq a) (map2 (fun x y => mask (x == y)) L R) ∧
    Holds f.1 (resCmpne a) (map2 (fun x y => mask (x != y)) L R) ∧
    Holds f.1 (resCmplt a) (map2 (fun x y => mask (decide (v x < v y))) L R) ∧
    Holds f.1 (resCmple a) (map2 (fun x y => mask (decide (v x ≤ v y))) L R) ∧
    Holds f.1 (resCmpltn a) (map2 (fun x y => mask (decide (x < y))) L R) ∧
    Holds f.1 (resCmplen a) (map2 (fun x y => mask (decide (x ≤ y))) L R)

/-- R125, R131: the elements that the integer and logic operations give. -/
def Obligations.IntegerResults : Prop := Claims.IntegerElements ∧ Claims.LogicElements

/-- R132: division truncates towards zero, never faults or counts; by zero it gives all bits set and the dividend; the signed minimum by −1 gives the
minimum with remainder 0; a nonzero remainder has the sign of the dividend. -/
def Obligations.Division : Prop :=
  ∀ f ∈ intFormats, ∀ a : Args, a.fmt = f.1 → Sized a →
    let n := f.2.1
    let v := rd n f.2.2
    let q := fun x y : Nat => if y = 0 then 2 ^ n - 1 else wr n ((v x).tdiv (v y))
    let m := fun x y : Nat => if y = 0 then x else wr n (v x - v y * (v x).tdiv (v y))
    Holds f.1 (resDiv a) (map2 q (elems f.1 a.l) (elems f.1 a.r)) ∧
    Holds f.1 (resRem a) (map2 m (elems f.1 a.l) (elems f.1 a.r)) ∧
    (f.2.2 = true → q (2 ^ (n - 1)) (2 ^ n - 1) = 2 ^ (n - 1) ∧ m (2 ^ (n - 1)) (2 ^ n - 1) = 0) ∧
    (∀ x < 2 ^ n, ∀ y < 2 ^ n, m x y ≠ 0 → (v (m x y) < 0 ↔ v x < 0))

/-- R133: the shift count is the pattern of r modulo n; under ARY 3 an i64 count is LIT sign-extended, so −1 shifts by 63. -/
def Obligations.Shifts : Prop :=
  (∀ f ∈ intFormats, ∀ a : Args, a.fmt = f.1 → Sized a →
    let n := f.2.1
    Holds f.1 (resShl a) (map2 (fun x y => x * 2 ^ (y % n) % 2 ^ n) (elems f.1 a.l) (elems f.1 a.r)) ∧
    Holds f.1 (resShr a) (map2 (fun x y => x / 2 ^ (y % n)) (elems f.1 a.l) (elems f.1 a.r)) ∧
    Holds f.1 (resSar a) (map2 (fun x y => wr n (rd n true x / 2 ^ (y % n))) (elems f.1 a.l) (elems f.1 a.r)) ∧
    Holds f.1 (resRol a) (map2 (fun x y => (x * 2 ^ (y % n) + x / 2 ^ (n - y % n)) % 2 ^ n) (elems f.1 a.l) (elems f.1 a.r))) ∧
  (∀ m ∈ [8, 16, 32, 64, 128], elems .i64 (litPayload .i64 m 0xFFFFFFFF) = List.replicate (m / 2) (some (2 ^ 64 - 1))) ∧
  (2 ^ 64 - 1) % 64 = 63

/-- R134: sum and carry, difference and borrow; only bit 0 of c is used. -/
def Obligations.CarryAndBorrow : Prop :=
  ∀ f ∈ intFormats, ∀ a : Args, a.fmt = f.1 → Sized a →
    let n := f.2.1
    let L := elems f.1 a.l
    let R := elems f.1 a.r
    let C := elems f.1 a.c
    elems f.1 (resAddc a).a = map3 (fun x y z => (x + y + z % 2) % 2 ^ n) L R C ∧
    elems f.1 (resAddc a).b = map3 (fun x y z => if 2 ^ n ≤ x + y + z % 2 then 1 else 0) L R C ∧
    elems f.1 (resSubb a).a = map3 (fun x y z => (x + 2 ^ n + 2 ^ n - y - z % 2) % 2 ^ n) L R C ∧
    elems f.1 (resSubb a).b = map3 (fun x y z => if x < y + z % 2 then 1 else 0) L R C

/-- R138, on every lane of b32 or n32 words: each word is hashed with its seed. -/
def Obligations.HashWords : Prop :=
  ∀ a : Args, Sized a → fmtBits a.fmt = 32 →
    elems a.fmt (resHash a).a = map2 (fun x s =>
      let h0 := x ^^^ s
      let h1 := ((h0 ^^^ (h0 / 2 ^ 16)) * 0x7FEB352D) % 2 ^ 32
      let h2 := ((h1 ^^^ (h1 / 2 ^ 15)) * 0x846CA68B) % 2 ^ 32
      h2 ^^^ (h2 / 2 ^ 16)) (elems a.fmt a.l) (elems a.fmt a.r)

/-- R90: the literal under ARY 3. Every lane is valid; its elements are the 32-bit pattern, or LIT extended to 64 bits. -/
def Sys2Proof.Claims.LiteralOperand : Prop :=
  ∀ m ∈ [8, 16, 32, 64, 128], ∀ lit < 2 ^ 32,
    (∀ f ∈ [Fmt.i32, .n32, .f32, .b32, .i16x2, .n16x2, .i8x4, .n8x4, .bf16x2, .f16x2, .e4m3x4, .e5m2x4], litPayload f m lit = List.replicate m ⟨BitVec.ofNat 32 lit, true⟩) ∧
    elems .i64 (litPayload .i64 m lit) = List.replicate (m / 2) (some (if 2 ^ 31 ≤ lit then 2 ^ 64 - 2 ^ 32 + lit else lit)) ∧
    elems .n64 (litPayload .n64 m lit) = List.replicate (m / 2) (some lit) ∧
    elems .c64 (litPayload .c64 m lit) = List.replicate (m / 2) (some lit) ∧
    elems .f64 (litPayload .f64 m lit) = List.replicate (m / 2) (some (f64OfF32 lit)) ∧
    ((decodeFp fp32 lit).isNan = true → f64OfF32 lit = fp64.canonNan)

/-- R137: TAGV puts a field of the firing's tag, before TGA, or the SEQ of L in every lane. -/
def Sys2Proof.Claims.TagValues : Prop :=
  ∀ a : Args, ∀ k < 4, a.lit = k →
    resTagv a = Res.both (List.replicate a.n
      ⟨if k = 0 then a.tag.iter.setWidth 32 else if k = 1 then a.tag.frame.setWidth 32 else if k = 2 then a.seq.setWidth 32 else a.tag.cid.setWidth 32, true⟩)

/-- R90, R137: the literal as an operand of each format, and TAGV. -/
def Obligations.OperandsAndTags : Prop := Claims.LiteralOperand ∧ Claims.TagValues

/-- R104: the four encodings of the spec decode to the instructions they stand for. -/
def Obligations.DecodedWords : Prop :=
  decodeRec 0x408530000E02001100000010#96 =
    .ok (.fadd { fmt := .f32, ary := .lr, prd := .t, tga := .inc, seq := true, dsta := .to 0 0 14 .l, dstb := .to 1 0 4 .r, lit := 0x10 }) ∧
  decodeRec 0x4284000006000FFC00000000#96 =
    .ok (.fmul { fmt := .f32, ary := .lr, prd := .none, tga := .keep, seq := false, dsta := .to 0 0 6 .l, dstb := .none, lit := 0 }) ∧
  decodeRec 0x030C0E8ABC800FFCFFFFFFFF#96 =
    .ok (.add { fmt := .i32, ary := .lit, prd := .none, tga := .keep, seq := false, dsta := .to (-3) 2 700 .c, dstb := .none, lit := 0xFFFFFFFF }) ∧
  decodeRec 0x28000003FF000FFC00A1400D#96 =
    .ok (.far { fmt := .i32, ary := .l, prd := .none, tga := .keep, seq := false, dsta := .none, dstb := .none, lit := 0x00A1400D })

namespace Sys2Proof.Claims

/-! ### Dataflow control -/

/-- A token as it arrives: a stat token keeps its lanes 0 to 7 only (R370). -/
def arriving (t : Token) : Token := if t.cls = .stat then { t with payload := (indexed t.payload).map fun (j, l) => if j < 8 then l else .none } else t

/-- A token that leaves a span for a destination (R106, R370). -/
def flightTo (d : Dev) (key : Nat) (t : Token) (y : Dest) : Flight :=
  ⟨(d.cidOf (pageOfFe y.key)).getD t.tag.cid.toNat, .span key, netOf t.cls, arriving { t with dest := y }⟩

/-- A token that a firing sends: its destination if it has one, class, LVL, match action, tag, SEQ and payload. -/
structure Sent where
  dst : Option Dest
  cls : Cls
  lvl : BitVec 3
  ma : Ma
  tag : Tag
  seq : BitVec 26
  pay : Payload

/-- The tokens in transit that come of it (R98, R99, R106, R370). -/
def Sent.flights (x : Fire) (d : Dev) (e : Sent) : List Flight :=
  let cut := if e.cls = .stat then (indexed e.pay).map fun (j, l) => if j < 8 then l else .none else e.pay
  e.dst.toList.map fun y => ⟨(d.cidOf (pageOfFe y.key)).getD e.tag.cid.toNat, .span x.key, netOf e.cls,
    { tag := e.tag, seq := e.seq, ma := e.ma, poi := x.o.poi, cls := e.cls, lvl := e.lvl, payload := cut, dest := y }⟩

def lClass (x : Fire) : Cls := (x.o.l.map (·.cls)).getD .data
def lLvl (x : Fire) : BitVec 3 := (x.o.l.map (·.lvl)).getD 0

def lSeq (x : Fire) : BitVec 26 := (x.o.l.map (·.seq)).getD 0

/-- SEQ of a firing's tokens (R95): of its first ONCE operand, or of the node's counter. -/
def seqFor (x : Fire) (d : Dev) : BitVec 26 := if x.n.seq then (d.span x.key).seqs.getD x.f.node 0 else x.o.seq

/-- A token to each of two destinations, alike but for class, LVL and payload. -/
def both (x : Fire) (d : Dev) (ma : Ma) (cls : Cls) (lvl : BitVec 3) (p : Payload) : List Sent :=
  [⟨x.a, cls, lvl, ma, emitTag x.n x.f.tag, seqFor x d, p⟩, ⟨x.b, cls, lvl, ma, emitTag x.n x.f.tag, seqFor x d, p⟩]

/-- The same, where PRD 3 may choose one of the two (R91). -/
def chosen2 (x : Fire) (d : Dev) (cls : Cls) (lvl : BitVec 3) (p : Payload) : List Sent :=
  [⟨(steered x).1, cls, lvl, .once, emitTag x.n x.f.tag, seqFor x d, p⟩, ⟨(steered x).2, cls, lvl, .once, emitTag x.n x.f.tag, seqFor x d, p⟩]

/-- A node that only forwards: what it needs beside R22, which destinations beside DSTA and DSTB, and what it sends. -/
structure Forwarder where
  ctor : NodeRec → Instr
  ports : NodeRec → Focus → List Port
  extra : List Dst := []
  when_ : Fire → Dev → Prop := fun _ _ => True
  sends : Fire → Dev → List Sent

/-- Ports as the record's arity and predicate name them (R89, R91). -/
def own (mk : NodeRec → Instr) : NodeRec → Focus → List Port := fun n _ => portsOf (mk n) n

/-- A lane of an operand that is an integer, or what stands in its place where the lane is invalid (R185, R188). -/
def laneOr {w : Nat} (p : Payload) (k : Nat) (v : BitVec w) : BitVec w :=
  match p[k]? with | some l => if l.ok then l.val.setWidth w else v | none => v

/-- The third destination of FAN, in its literal (R170). -/
def FanThird (x : Fire) (d : Dev) (t : Dst) (c : Option Dest) : Prop :=
  dstOfCode? (fld x.lit 21 0) = some t ∧ dstCause t = none ∧ resolveDst d x.key t = .ok c

def forwarders : List Forwarder :=
  [ { ctor := .gate, ports := own .gate, sends := fun x d => both x d .once (lClass x) (lLvl x) x.lPay },
    { ctor := .stick, ports := own .stick, sends := fun x d => both x d .sticky (lClass x) (lLvl x) x.lPay },
    { ctor := .purge, ports := own .purge, sends := fun x d => both x d .purge (lClass x) (lLvl x) x.lPay },
    { ctor := .ord, ports := own .ord, sends := fun x d => chosen2 x d .data 0 (List.replicate x.lanes ⟨0, false⟩) },
    { ctor := .steer, ports := own .steer, when_ := fun x _ => bitAt x.lit 0 = false, sends := fun x d => chosen2 x d (lClass x) (lLvl x) x.lPay },
    { ctor := .steer, ports := own .steer, when_ := fun x _ => bitAt x.lit 0 = true
      sends := fun (x : Fire) d =>
        let p := (x.o.p.map (·.payload)).getD []
        let side := fun want : Bool => (indexed x.lPay).map fun (j, l) => if laneTrue (laneOf p j) = want then l else ⟨l.val, false⟩
        let one := fun (t : Option Dest) (q : Payload) => (⟨if q.any (·.ok) then t else none, lClass x, lLvl x, .once, emitTag x.n x.f.tag, seqFor x d, q⟩ : Sent)
        [one x.a (side true), one x.b (side false)] },
    { ctor := .merge, ports := fun _ f => [f.port]
      sends := fun x d => match x.o.at x.f.port with
        | some t => both x d .once t.cls t.lvl t.payload
        | none => [] },
    { ctor := .eos, ports := own .eos, sends := fun x d => both x d .once .control (BitVec.ofNat 3 (x.lit % 8)) x.lPay },
    { ctor := .carry, ports := own .carry
      sends := fun (x : Fire) d =>
        let t := { x.f.tag with iter := x.f.tag.iter + BitVec.ofNat 16 (x.lit % 2 ^ 15) }
        [⟨x.a, lClass x, lLvl x, .once, t, seqFor x d, x.lPay⟩, ⟨x.b, lClass x, lLvl x, .once, t, seqFor x d, x.lPay⟩] },
    { ctor := .lexit, ports := own .lexit
      sends := fun x d => [⟨x.a, .control, 0, .once, x.f.tag, seqFor x d, x.lPay⟩, ⟨x.b, .data, 0, .once, x.f.tag, seqFor x d, x.lPay⟩] },
    { ctor := .tagset, ports := own .tagset
      sends := fun (x : Fire) d =>
        let t : Tag := ⟨x.f.tag.cid, if bitAt x.lit 0 then laneOr x.rPay 0 x.f.tag.frame else x.f.tag.frame,
          if bitAt x.lit 1 then laneOr x.rPay 1 x.f.tag.iter else x.f.tag.iter⟩
        let q := if bitAt x.lit 2 then laneOr x.rPay 2 (seqFor x d) else seqFor x d
        [⟨x.a, .data, 0, .once, t, q, x.lPay⟩, ⟨x.b, .data, 0, .once, t, q, x.lPay⟩] },
    { ctor := .tagget, ports := own .tagget
      sends := fun x d => chosen2 x d .data 0
        ([⟨x.f.tag.frame.setWidth 32, true⟩, ⟨x.f.tag.iter.setWidth 32, true⟩, ⟨(lSeq x).setWidth 32, true⟩,
          ⟨x.f.tag.cid.setWidth 32, true⟩] ++ x.lPay.drop 4) },
    { ctor := .seqsLane, ports := own .seqsLane
      sends := fun (x : Fire) _ =>
        let q := laneOr x.lPay 0 x.o.seq
        [⟨x.a, .data, 0, .once, emitTag x.n x.f.tag, q, x.lPay⟩, ⟨x.b, .data, 0, .once, emitTag x.n x.f.tag, q, x.lPay⟩] },
    { ctor := .seqsIter, ports := own .seqsIter
      sends := fun (x : Fire) _ =>
        let q := match lane32? x.rPay 0 with
          | some v => BitVec.ofNat 26 (v + fld x.lit 27 2 * x.f.tag.iter.toNat)
          | none => x.o.seq
        [⟨x.a, .data, 0, .once, emitTag x.n x.f.tag, q, x.lPay⟩, ⟨x.b, .data, 0, .once, emitTag x.n x.f.tag, q, x.lPay⟩] },
    { ctor := .commitGet, ports := own .commitGet, when_ := fun (x : Fire) d => ∃ m : NodeRec, nodeAt d x.key (x.lit % 2 ^ 10) = some (.sink m) ∧
      m.seq = true
      sends := fun (x : Fire) d =>
        let v := (sinkOf (d.span x.key) (x.lit % 2 ^ 10)).x
        chosen2 x d .data 0 (⟨v.setWidth 32, true⟩ :: List.replicate (x.lanes - 1) ⟨0, false⟩) } ]

end Sys2Proof.Claims

/-- R168, R170, R171, R176, R177, R181, R182, R185, R188, R189: the instructions that forward tokens complete whenever they are ready: they take their
operands, send exactly the tokens given, and leave everything else of the package as it was, memory included. -/
def Sys2Proof.Claims.ForwardersComplete : Prop :=
  ∀ e ∈ forwarders, ∀ (n : NodeRec) (s : State) (x : Fire),
    Ready (e.ctor n) n (e.ports n s.dev.focus) e.extra s.dev x → e.when_ x s.dev →
    Leads (e.ctor n) s fun t =>
      t.dev.net = s.dev.net ++ (e.sends x s.dev).flatMap (Sent.flights x s.dev) ∧
      ArithFrame x.key s.dev t.dev ∧ (t.dev.span x.key).counts = (s.dev.span x.key).counts ∧
      (t.dev.page x.pg).toks = ((taken x s.dev).page x.pg).toks ∧ t.sec = s.sec

/-- R170: FAN sends L to DSTA, DSTB and the destination in its literal. -/
def Sys2Proof.Claims.FanCompletes : Prop :=
  ∀ (n : NodeRec) (s : State) (x : Fire) (third : Dst) (c : Option Dest),
    Ready (.fan n) n (portsOf (.fan n) n) [third] s.dev x → FanThird x s.dev third c →
    Leads (.fan n) s fun t =>
      t.dev.net = s.dev.net ++ (both x s.dev .once (lClass x) (lLvl x) x.lPay ++
        [(⟨c, lClass x, lLvl x, .once, emitTag n x.f.tag, seqFor x s.dev, x.lPay⟩ : Sent)]).flatMap (Sent.flights x s.dev) ∧
      ArithFrame x.key s.dev t.dev ∧ t.sec = s.sec

/-- R23, R25, R102: a firing consumes its ONCE operands, each the one that arrived first at its port, and the old values of replaced sticky slots that
were kept for it; sticky tokens stay. -/
def Obligations.FiringConsumes : Prop :=
  ∀ (d : Dev) (f : Focus) (o : Opnds) (ports : List Port), operandsOf d f ports = some o →
    let held := (d.page (pageOfFe f.span)).toks
    let rest := ((consume d f o).page (pageOfFe f.span)).toks
    let olds := [Port.l, .r, .c, .p].filter fun q => (o.at q).isSome && !o.once.contains q && held.any (isOld f.span f.node q f.tag)
    (∀ q ∈ o.once, ∃ t, o.at q = some t ∧ onceAt (d.page (pageOfFe f.span)) f.span f.node q f.tag = some t ∧ t.ma = .once ∧ t.tag = f.tag ∧
      rest.filter (isOnce f.span f.node q f.tag) = (held.filter (isOnce f.span f.node q f.tag)).drop 1) ∧
    o.once ≠ [] ∧ (∀ q ∈ ports, (o.at q).isSome) ∧
    rest.length + o.once.length + olds.length = held.length ∧
    (∀ e ∈ held, e.role = .plain → e.tok.ma ≠ .once → e ∈ rest) ∧
    (∀ e ∈ rest, e ∈ held) ∧ (∀ p, p ≠ pageOfFe f.span → (consume d f o).page p = d.page p)

/-- R103, R111: FAR sends the oldest token on its L port to the literal's target unchanged but for its destination, with no firing. One that it cannot
forward, its record being no valid FAR node or its target no place of the load, takes a fault with the token's frame. -/
def Obligations.FarRelays : Prop :=
  ∀ (n : NodeRec) (s : State) (t : Token),
    let f := s.dev.focus
    let c := (s.dev.cidOf (pageOfFe f.span)).getD 0
    let target := resolveXY s.dev f.span (fld n.lit.toNat 24 18) (fld n.lit.toNat 17 12) (fld n.lit.toNat 11 2) (portOf (fld n.lit.toNat 1 0))
    (s.dev.span f.span).farQ.find? (fun u => u.dest.node == f.node) = some t → hasSpace s.dev f.span 1 = true →
    (∀ y, nodeCause (.far n) n (lanesOf (s.dev.span f.span).wid) = none → target = .ok y → Leads (.far n) s fun u =>
      u.dev.net = s.dev.net ++ [flightTo s.dev f.span t y] ∧
      (u.dev.span f.span).farQ.length + 1 = (s.dev.span f.span).farQ.length ∧
      (u.dev.span f.span).farQ.filter (fun u => u.dest.node == f.node) = ((s.dev.span f.span).farQ.filter (fun u => u.dest.node == f.node)).drop 1 ∧
      { u.dev.span f.span with farQ := [] } = { s.dev.span f.span with farQ := [] } ∧ (∀ k, k ≠ f.span → u.dev.span k = s.dev.span k) ∧
      u.dev = { s.dev with net := u.dev.net, spans := u.dev.spans } ∧ u.sec = s.sec) ∧
    (∀ e, (nodeCause (.far n) n (lanesOf (s.dev.span f.span).wid) ≠ none ∧ e = .illop ∨
        nodeCause (.far n) n (lanesOf (s.dev.span f.span).wid) = none ∧ target = .error e) →
      (s.dev.graph c).ending = none → (s.dev.graph c).st ≠ .stopped → Leads (.far n) s fun u =>
        ∃ r : FaultRec, (u.dev.graph c).faults = (s.dev.graph c).faults ++ [r] ∧ r.code = e ∧ r.frame = some t.tag.frame ∧ r.hdr = t.header ∧
          u.dev.mem = s.dev.mem ∧ u.dev.ctxs = s.dev.ctxs ∧ u.sec = s.sec)

/-- R156: STAT emits the count set in lanes 0 to 4 as a stat token, and clears it unless LIT[0] is 1. -/
def Sys2Proof.Claims.StatCompletes : Prop :=
  ∀ (n : NodeRec) (s : State) (x : Fire), Ready (.stat n) n (portsOf (.stat n) n) [] s.dev x →
    let k := (s.dev.span x.key).counts
    Leads (.stat n) s fun t =>
      t.dev.net = s.dev.net ++ (chosen2 x s.dev .stat 0 (statToken x.lanes k)).flatMap (Sent.flights x s.dev) ∧
      (t.dev.span x.key).counts = (if bitAt x.lit 0 then k else .zero) ∧
      ArithFrame x.key s.dev t.dev ∧ t.sec = s.sec ∧
      (∀ j < 5, (statToken x.lanes k)[j]? = some ⟨BitVec.ofNat 32 (k.toList.getD j 0), true⟩)

/-- R156, R168, R170, R171, R176, R177, R181, R182, R185, R188, R189: forwarding nodes, FAN and STAT emit what they take. -/
def Obligations.ForwardingNodesComplete : Prop := Claims.ForwardersComplete ∧ Claims.FanCompletes ∧ Claims.StatCompletes

namespace Sys2Proof.Claims

/-! ### Sinks, loops, frames, streams, counters, timers -/

/-- The rest of the package: all but spans, pages and the networks. -/
def SameRest (d d' : Dev) : Prop := d' = { d with spans := d'.spans, pages := d'.pages, net := d'.net }

/-- Nothing of other spans and pages changes, and of its own page nothing but tokens, loop area and the mark that it is charged. -/
structure LocalFrame (key : Nat) (d d' : Dev) : Prop where
  rest : SameRest d d'
  spans : ∀ k, k ≠ key → d'.span k = d.span k
  pages : ∀ p, p ≠ pageOfFe key → d'.page p = d.page p
  page : { pageRest (d'.page (pageOfFe key)) with runs := [], stale := [] } = { pageRest (d.page (pageOfFe key)) with runs := [], stale := [] }
  nodes : (d'.span key).nodes = (d.span key).nodes ∧ (d'.span key).counts = (d.span key).counts ∧ (d'.span key).wid = (d.span key).wid

/-- The iterations of the next batch, from `l.adm` to the answer (R173): B of them, cut at N; none where the loop has an exit, has admitted all N, or
where an iteration i − W has not retired. -/
def BatchEnds (l : LoopSt) (n : NodeRec) (last : Nat) : Prop :=
  let w := n.lit.toNat % 2 ^ 15 + 1
  let b := n.lit.toNat / 2 ^ 15 % 2 ^ 15 + 1
  l.exit = none ∧ (l.n = 0xFFFFFFFF ∨ l.adm < l.n) ∧ last = (if l.n = 0xFFFFFFFF then l.adm + b - 1 else min (l.adm + b - 1) (l.n - 1)) ∧
  ∀ j ∈ l.live, last < j + w

/-- The iteration `l.adm` may be admitted now: it is one of the batch under way, or the first of the next, which neither a pre-emption nor an
enlargement of the spill tables stops (R173, R410). `upto` is the end of its batch. -/
def MayAdmit (g : Graph) (l : LoopSt) (n : NodeRec) (upto : Nat) : Prop :=
  (l.adm < l.upto ∧ upto = l.upto) ∨ (l.upto ≤ l.adm ∧ g.st = .resident ∧ g.preempt = none ∧ ∃ last, BatchEnds l n last ∧ upto = last + 1)

/-- After an iteration has retired: the loop goes on as `l`, or it has ended, its completion token leaves for DSTB, and its state and bitmap are freed
(R174, R360). -/
def LoopGoesOn (x : Fire) (l : LoopSt) (d d' : Dev) : Prop :=
  if l.ended = true then
    loopAt (d'.span x.key) x.f.node x.f.tag.frame = none ∧ d'.net = d.net ++ x.b.toList.map (flightTo d x.key (loopDone l x.lanes)) ∧
    ∀ r ∈ (d'.page x.pg).runs, r.1 ≠ l.off
  else loopAt (d'.span x.key) x.f.node x.f.tag.frame = some l ∧ d'.net = d.net ∧ (d'.page x.pg).runs = (d.page x.pg).runs

/-- The bytes that a write of `n` bytes at home key `a` stores beside those: at the destination of a migration that has copied their line (R338), and
in the heat counter of the frame (R342). -/
def alsoStored (d : Dev) (a n b : Nat) : Prop :=
  (∃ m, movedTo d a = some m ∧ m ≤ b ∧ b < m + n) ∨
  ∃ e, frameEntry d a = some e ∧ ((e ≤ b ∧ b < e + 4) ∨ ∃ m, movedTo d e = some m ∧ m ≤ b ∧ b < m + 4)

/-- Accesses that only read change no byte of memory but the heat counters of frames (R342). -/
def HeatOnly (d d' : Dev) : Prop := ∀ b, (∀ a, ¬ alsoStored d a 0 b) → homeBytes d'.mem b 1 = homeBytes d.mem b 1

/-- Memory after bytes are stored at home key `a`: those bytes there, and every other byte as before but for what is stored beside them. -/
structure Stored (d d' : Dev) (a : Nat) (bs : List Byte) : Prop where
  bytes : ∀ k, k < bs.length → ¬ alsoStored d a bs.length (a + k) → homeBytes d'.mem (a + k) 1 = [bs.getD k 0]
  others : ∀ b, (b < a ∨ a + bs.length ≤ b) → ¬ alsoStored d a bs.length b → homeBytes d'.mem b 1 = homeBytes d.mem b 1

/-- The 128-bit link is stored at its place (R178); a leaf in state POISON takes nothing, and a register of the control aperture takes the write. -/
def LinkStored (d d' : Dev) (a : Option Nat) (v : Nat) : Prop :=
  match a with
  | none => ∀ b, homeBytes d'.mem b 1 = homeBytes d.mem b 1
  | some k => if k < 2 ^ 52 ∧ regionOf d k = .control then d'.ctlq = d.ctlq ++ [⟨k - 0x200000000000, 16, natOfBytes (bytesOf v 16)⟩] ∧
    d'.mem.wlog = d.mem.wlog
              else Stored d d' k (bytesOf v 16)

/-- Beside memory, the node's own span and page and the pool, a node that stores changes what a store brings with it and nothing else. -/
structure StoringFrame (key : Nat) (d d' : Dev) : Prop where
  whole : d' = { d with spans := d'.spans, pages := d'.pages, net := d'.net, mem := d'.mem, leaven := d'.leaven, holds := d'.holds, dies := d'.dies
                        graphs := d'.graphs, ctlq := d'.ctlq, tick := d'.tick, opRound := d'.opRound, sb := d'.sb }
  nodes : ∀ k, (d'.span k).nodes = (d.span k).nodes ∧ (d'.span k).counts = (d.span k).counts ∧ (k ≠ key → (d'.span k).seqs = (d.span k).seqs)
  regs : d'.ctxs = d.ctxs
  stores : ∀ p, (d'.page p).store = (d.page p).store ∧ (d'.page p).banks = (d.page p).banks

/-- The end-of-stream tokens that leave with a count of items, in order of SEQ: those whose number of items has passed, and what is left of the count
and of the tokens (R183). -/
def eoswGo : Nat → Nat → List Token → List Token × Nat × List Token
  | 0, c, held => ([], c, held)
  | k + 1, c, held =>
    match sortBy bySeq held with
    | [] => ([], c, held)
    | t :: rest =>
      if c < (lane32? t.payload 0).getD 0 then ([], c, held)
      else let r := eoswGo k (c - (lane32? t.payload 0).getD 0) rest; (t :: r.1, r.2.1, r.2.2)

/-- They leave for DSTB with the tag of R93 and their own SEQ, or the node's counter from `q` on. -/
def eoswFlights (x : Fire) (d : Dev) (q : BitVec 26) (ts : List Token) : List Flight :=
  (indexed ts).flatMap fun (k, t) => x.b.toList.map
    (flightTo d x.key { t with tag := emitTag x.n t.tag, seq := if x.n.seq then q + BitVec.ofNat 26 k else t.seq, ma := .once })

end Sys2Proof.Claims

/-- R97, R170: a plain SINK discards its token. An ordered sink performs a firing whose SEQ is X and advances X, keeps one that lies 1 to 63 after X in
its reorder stage of 64 entries, performs one that precedes X at once, and leaves any other where it is. -/
def Sys2Proof.Claims.SinkCompletes : Prop :=
  ∀ (n : NodeRec) (s : State) (x : Fire) (l : Token), Ready (.sink n) n (portsOf (.sink n) n) [] s.dev x → x.o.l = some l →
    let st := sinkOf (s.dev.span x.key) x.f.node
    let k := (x.o.seq - st.x).toNat
    (n.seq = false → Gives (.sink n) s (taken x s.dev)) ∧
    (n.seq = true → k = 0 → Leads (.sink n) s fun t =>
      sinkOf (t.dev.span x.key) x.f.node = { st with x := st.x + 1 } ∧ t.dev.net = s.dev.net ∧ LocalFrame x.key s.dev t.dev) ∧
    (n.seq = true → 1 ≤ k → k ≤ 63 → st.stage.length < 64 → Leads (.sink n) s fun t =>
      sinkOf (t.dev.span x.key) x.f.node = { st with stage := st.stage ++ [⟨x.f.tag, x.o.seq, false, l, x.o.r, x.o.c, x.o.p⟩] } ∧
      t.dev.net = s.dev.net ∧ LocalFrame x.key s.dev t.dev) ∧
    (n.seq = true → 1 ≤ k → k ≤ 2 ^ 25 → 64 ≤ k ∨ 64 ≤ st.stage.length → exec (.sink n) s = .next s) ∧
    (n.seq = true → 2 ^ 25 < k → Gives (.sink n) s (taken x s.dev))

/-- R97: a firing in the reorder stage is performed once X has reached it, and X advances; one that X has passed is performed at once. -/
def Sys2Proof.Claims.SinkReleaseCompletes : Prop :=
  ∀ (s : State) (f : Focus) (c : Nat),
    s.dev.occ = .site f → s.dev.cidOf (pageOfFe f.span) = some c → runs (s.dev.graph c) = true →
    let st := sinkOf (s.dev.span f.span) f.node
    let goes := fun (t : State) (e : Staged) (x : BitVec 26) =>
      let st' := sinkOf (t.dev.span f.span) f.node
      st'.x = x ∧ st.stage.Perm (e :: st'.stage) ∧ t.dev.net = s.dev.net ∧ LocalFrame f.span s.dev t.dev ∧ t.sec = s.sec
    ((∃ e ∈ st.stage, seqPrecedes e.seq st.x = true) → Leads .orderedSinkRelease s fun t => ∃ e, seqPrecedes e.seq st.x = true ∧ goes t e st.x) ∧
    ((∀ e ∈ st.stage, seqPrecedes e.seq st.x = false) → (∃ e ∈ st.stage, e.seq = st.x) →
      Leads .orderedSinkRelease s fun t => ∃ e, e.seq = st.x ∧ goes t e (st.x + 1))

/-- R189: COMMIT emits X of the sink it names and, to set it, takes lane 0 of L; entries that then precede X leave the stage. -/
def Sys2Proof.Claims.CommitSetCompletes : Prop :=
  ∀ (n : NodeRec) (s : State) (x : Fire) (m : NodeRec) (v : Nat),
    Ready (.commitSet n) n (portsOf (.commitSet n) n) [] s.dev x →
    nodeAt s.dev x.key (x.lit % 2 ^ 10) = some (.sink m) → m.seq = true → lane32? x.lPay 0 = some v →
    let st := sinkOf (s.dev.span x.key) (x.lit % 2 ^ 10)
    Leads (.commitSet n) s fun t =>
      t.dev.net = s.dev.net ++ (chosen2 x s.dev .data 0 (⟨st.x.setWidth 32, true⟩ :: List.replicate (x.lanes - 1) ⟨0, false⟩)).flatMap (Sent.flights x s.dev) ∧
      (sinkOf (t.dev.span x.key) (x.lit % 2 ^ 10)).x = BitVec.ofNat 26 v ∧
      (sinkOf (t.dev.span x.key) (x.lit % 2 ^ 10)).stage = st.stage.filter (fun e => !seqPrecedes e.seq (BitVec.ofNat 26 v)) ∧
      LocalFrame x.key s.dev t.dev ∧ t.sec = s.sec

/-- R97, R170, R189: SINK takes a token, keeps it in its stage and gives it back in order of SEQ, and COMMIT and SET act on the stage. -/
def Obligations.SinksComplete : Prop := Claims.SinkCompletes ∧ Claims.SinkReleaseCompletes ∧ Claims.CommitSetCompletes

/-- R173: an entry token on L starts a loop of lane 0 iterations; a loop of none completes at once. -/
def Sys2Proof.Claims.LoopEntryCompletes : Prop :=
  ∀ (n : NodeRec) (s : State) (x : Fire) (t : Token) (off : Nat),
    Ready (.loopb n) n [.l] [] s.dev x → x.o.l = some t → loopAt (s.dev.span x.key) x.f.node x.f.tag.frame = none →
    freeRun (s.dev.page x.pg).runs (loopBytes n) = some off →
    let l : LoopSt := ⟨x.f.node, x.f.tag.frame, (lane32? t.payload 0).getD 0, t, 0, [], none, off, 0⟩
    Leads (.loopb n) s fun u =>
      (if l.n = 0 then
        loopAt (u.dev.span x.key) x.f.node x.f.tag.frame = none ∧ u.dev.net = s.dev.net ++ x.b.toList.map (flightTo s.dev x.key (loopDone l x.lanes))
      else
        loopAt (u.dev.span x.key) x.f.node x.f.tag.frame = some l ∧ u.dev.net = s.dev.net ∧
        (u.dev.page x.pg).runs = (s.dev.page x.pg).runs ++ [(off, loopBytes n)]) ∧
      LocalFrame x.key s.dev u.dev ∧ u.sec = s.sec

/-- R173: the next iteration is admitted while its batch is under way, or when the window allows the next batch. Iteration i carries ITER i mod 2^16
and i in lane 0, the rest of the entry token's payload, and the entry's SEQ, or the counter's where SEQ is 1. -/
def Sys2Proof.Claims.LoopAdmitCompletes : Prop :=
  ∀ (s : State) (f : Focus) (c : Nat) (n : NodeRec) (l : LoopSt) (upto : Nat) (a b : Option Dest),
    s.dev.occ = .site f → s.dev.cidOf (pageOfFe f.span) = some c → nodeAt s.dev f.span f.node = some (.loopb n) →
    loopAt (s.dev.span f.span) f.node f.tag.frame = some l → runs (s.dev.graph c) = true → s.dev.parkedFrame c f.tag.frame = false →
    hasSpace s.dev f.span (named [n.dsta]) = true → MayAdmit (s.dev.graph c) l n upto →
    dstCause n.dsta = none → dstCause n.dstb = none → resolveBoth s.dev f.span n = .ok (a, b) →
    Leads .loopbAdmit s fun u =>
      loopAt (u.dev.span f.span) f.node f.tag.frame = some { l with adm := l.adm + 1, upto := upto, live := l.live ++ [l.adm] } ∧
      (let q := if n.seq then (s.dev.span f.span).seqs.getD l.node 0 else l.entry.seq
       u.dev.net = s.dev.net ++ a.toList.map (flightTo s.dev f.span
          { l.entry with tag := { l.entry.tag with iter := BitVec.ofNat 16 l.adm }, seq := q, ma := .once, cls := .data, lvl := 0
                         payload := ⟨BitVec.ofNat 32 l.adm, true⟩ :: l.entry.payload.drop 1 }) ∧
       (n.seq = true → a.isSome → (u.dev.span f.span).seqs.getD l.node 0 = q + 1)) ∧
      (u.dev.span f.span).fired = some s.dev.now.toNat ∧ LocalFrame f.span s.dev u.dev ∧ u.sec = s.sec

/-- R174: a token on R retires the live iteration that its ITER names. -/
def Sys2Proof.Claims.LoopRetireCompletes : Prop :=
  ∀ (n : NodeRec) (s : State) (x : Fire) (l : LoopSt) (i : Nat),
    s.dev.occ = .site s.dev.focus → nodeAt s.dev s.dev.focus.span s.dev.focus.node = some (.loopb n) → Ready (.loopb n) n [.r] [] s.dev x →
    loopAt (s.dev.span x.key) x.f.node x.f.tag.frame = some l → l.live.find? (fun i => BitVec.ofNat 16 i == x.f.tag.iter) = some i →
    Leads .loopbRetire s fun u =>
      LoopGoesOn x { l with live := l.live.filter (· ≠ i) } s.dev u.dev ∧ LocalFrame x.key s.dev u.dev ∧ u.sec = s.sec

/-- R174, R175: a token on C retires its iteration and requests the loop's exit; of several the lowest iteration counts. -/
def Sys2Proof.Claims.LoopExitCompletes : Prop :=
  ∀ (n : NodeRec) (s : State) (x : Fire) (l : LoopSt) (i : Nat) (t : Token),
    s.dev.occ = .site s.dev.focus → nodeAt s.dev s.dev.focus.span s.dev.focus.node = some (.loopb n) → Ready (.loopb n) n [.c] [] s.dev x →
    x.o.c = some t → loopAt (s.dev.span x.key) x.f.node x.f.tag.frame = some l →
    l.live.find? (fun i => BitVec.ofNat 16 i == x.f.tag.iter) = some i →
    Leads .loopbExitRequest s fun u =>
      LoopGoesOn x { l with live := l.live.filter (· ≠ i)
                            exit := match l.exit with | some (j, v) => if i < j then some (i, t) else some (j, v) | none => some (i, t) } s.dev u.dev ∧
      LocalFrame x.key s.dev u.dev ∧ u.sec = s.sec

/-- R173 to R175: a loop is entered, admits an iteration, retires one and ends. -/
def Obligations.LoopsComplete : Prop := Claims.LoopEntryCompletes ∧ Claims.LoopAdmitCompletes ∧ Claims.LoopRetireCompletes ∧ Claims.LoopExitCompletes

/-- R178: FCALL takes the first frame of the pool, writes the 16-byte link, and sends L to DSTA in that frame with ITER 0. Nothing else changes but the
operands taken, the sequence counter of the node, and what a store brings with it: the undo log, the counts of R342, a migration whose destination
fails. `a` is the link's place, none where its leaf is in state POISON. -/
def Sys2Proof.Claims.FcallCompletes : Prop :=
  ∀ (n : NodeRec) (s : State) (x : Fire) (fr : BitVec 14) (rest : List (BitVec 14)) (a : Option Nat),
    Ready (.fcall n) n (portsOf (.fcall n) n) [] s.dev x → (s.dev.graph x.cid).pool = fr :: rest →
    (linksPending s.dev (s.dev.page x.pg)).length < 4096 → (linkHome s.dev x.pg x.cid fr .wr).1 = .ok a →
    Leads (.fcall n) s fun u =>
      (u.dev.graph x.cid) = { s.dev.graph x.cid with pool := rest } ∧ (∀ c, c ≠ x.cid → u.dev.graph c = s.dev.graph c) ∧
      u.dev.net = s.dev.net ++ Sent.flights x s.dev ⟨x.a, .data, 0, .once, ⟨x.f.tag.cid, fr, 0⟩, seqFor x s.dev, x.lPay⟩ ∧
      LinkStored s.dev u.dev a (linkOf x.f.tag x.b) ∧ StoringFrame x.key s.dev u.dev ∧ u.sec = s.sec

/-- R187: CNTR counts its firings of a frame and forwards the N-th, N from the literal or from lane 0 of R (0 stands for 2^32). -/
def Sys2Proof.Claims.CntrCompletes : Prop :=
  ∀ (n : NodeRec) (s : State) (x : Fire), Ready (.cntr n) n (portsOf (.cntr n) n) [] s.dev x →
    let v := if n.ary = .l then x.lit else (lane32? x.rPay 0).getD 0
    let lim := if v = 0 then 2 ^ 32 else v
    let at_ := fun d : Dev => ((d.span x.key).cntrs.find? fun e => e.node == x.f.node && e.frame == x.f.tag.frame).map (·.count)
    let k := (at_ s.dev).getD 0 + 1
    Leads (.cntr n) s fun t =>
      (if k ≥ lim then at_ t.dev = none ∧ t.dev.net = s.dev.net ++ (both x s.dev .once (lClass x) (lLvl x) x.lPay).flatMap (Sent.flights x s.dev)
       else at_ t.dev = some k ∧ t.dev.net = s.dev.net) ∧
      LocalFrame x.key s.dev t.dev ∧ t.sec = s.sec

/-- R186: TIMER keeps its token for the delay in resident cycles, at least one. With no destination nothing is kept. -/
def Sys2Proof.Claims.TimerCompletes : Prop :=
  ∀ (n : NodeRec) (s : State) (x : Fire), Ready (.timer n) n (portsOf (.timer n) n) [] s.dev x →
    ((s.dev.span x.key).timers.filter (·.node = x.f.node)).length < 16 →
    let del := if n.ary = .l then x.lit else (lane32? x.rPay 0).getD 0
    (x.dests = [] → Gives (.timer n) s (taken x s.dev)) ∧
    (x.dests ≠ [] → Leads (.timer n) s fun t =>
      (∃ tok : Token, (t.dev.span x.key).timers = (s.dev.span x.key).timers ++ [⟨x.f.node, max (del : Int) 1, x.dests, tok⟩] ∧
        tok.payload = x.lPay ∧ tok.tag = emitTag n x.f.tag ∧ tok.seq = seqFor x s.dev ∧ tok.cls = lClass x ∧ tok.lvl = lLvl x ∧
        tok.poi = x.o.poi ∧ tok.ma = .once) ∧
      t.dev.net = s.dev.net ∧ LocalFrame x.key s.dev t.dev ∧ t.sec = s.sec)

/-- R186: a token whose delay has passed leaves the queue of its node for its destinations, the earliest deadline first. -/
def Sys2Proof.Claims.TimerDueCompletes : Prop :=
  ∀ (s : State) (f : Focus) (c : Nat) (t : TimerSt),
    s.dev.occ = .site f → s.dev.cidOf (pageOfFe f.span) = some c → runs (s.dev.graph c) = true →
    dueTimer (s.dev.span f.span) f.node = some t → hasSpace s.dev f.span t.dsts.length = true →
    (t ∈ (s.dev.span f.span).timers ∧ t.node = f.node ∧ t.left ≤ 0 ∧ ∀ e ∈ (s.dev.span f.span).timers, e.node = f.node → t.left ≤ e.left) ∧
    Leads .timerDue s fun u =>
      u.dev.net = s.dev.net ++ t.dsts.map (flightTo s.dev f.span t.tok) ∧
      (s.dev.span f.span).timers.Perm (t :: (u.dev.span f.span).timers) ∧ LocalFrame f.span s.dev u.dev ∧ u.sec = s.sec

/-- R183: EOSW sends an item on to DSTA and counts it; an end-of-stream token is held until as many items have passed as its lane 0 says, and then
leaves for DSTB, which takes them off the count. -/
def Sys2Proof.Claims.EoswCompletes : Prop :=
  ∀ (n : NodeRec) (s : State) (x : Fire), Ready (.eosw n) n [s.dev.focus.port] [] s.dev x →
    let e := eoswAt (s.dev.span x.key) x.f.node x.f.tag.frame
    let q := (s.dev.span x.key).seqs.getD x.f.node 0
    let after := fun (t : State) (r : List Token × Nat × List Token) =>
      eoswAt (t.dev.span x.key) x.f.node x.f.tag.frame = { e with count := r.2.1, held := r.2.2 } ∧ LocalFrame x.key s.dev t.dev ∧ t.sec = s.sec
    (x.f.port = .l →
      let r := eoswGo (e.held.length + 1) (e.count + 1) e.held
      Leads (.eosw n) s fun t =>
        t.dev.net = s.dev.net ++ Sent.flights x s.dev ⟨x.a, lClass x, lLvl x, .once, emitTag n x.f.tag, seqFor x s.dev, x.lPay⟩ ++
          eoswFlights x s.dev (if x.a.isSome then q + 1 else q) r.1 ∧ after t r) ∧
    (x.f.port = .r → ∀ t0, x.o.r = some t0 → t0.cls ≠ .data →
      let r := eoswGo (e.held.length + 2) e.count (e.held ++ [t0])
      Leads (.eosw n) s fun t => t.dev.net = s.dev.net ++ eoswFlights x s.dev q r.1 ∧ after t r)

/-- R183, R186, R187: CNTR, TIMER and EOSW. -/
def Obligations.CountersAndTimersComplete : Prop := Claims.CntrCompletes ∧ Claims.TimerCompletes ∧ Claims.TimerDueCompletes ∧ Claims.EoswCompletes

namespace Sys2Proof.Claims

/-! ### Frames returned, rounds, arrivals, the spill path -/

/-- A marker of round `n` under way to a span (R36). -/
def markerTo (n : BitVec 16) (key : Nat) (f : Flight) : Prop := f.tok.cls = .marker ∧ f.tok.tag.iter = n ∧ f.tok.dest.key = key

/-- A token in transit that the next step may deliver: the first of its sender, network and receiver, bound for a page of its context's resident load,
and no combining entry on its way (R367, R372, R416). -/
structure Deliverable (d : Dev) (k : Nat) (f : Flight) (l : Load) : Prop where
  occ : d.occ = .flight k
  inNet : d.net[k]? = some f
  load : (d.graph f.cid).load = some l
  here : l.die = f.tok.dest.die ∧ l.holds (f.tok.dest.die * 80 + f.tok.dest.page) = true
  head : isHead d k f = true

/-- Only the held tokens of a page, the named span's record of a cut and of its latest arrival, its tokens for FAR nodes, and the networks change. -/
structure ArrivalFrame (t : Token) (d d' : Dev) : Prop where
  rest : SameRest d d'
  spans : ∀ k, k ≠ t.dest.key → d'.span k = d.span k
  own : { d'.span t.dest.key with rnd := {}, arrived := none, farQ := [] } = { d.span t.dest.key with rnd := {}, arrived := none, farQ := [] }
  pages : ∀ p, p ≠ pageOfFe t.dest.key → d'.page p = d.page p
  page : pageRest (d'.page (pageOfFe t.dest.key)) = pageRest (d.page (pageOfFe t.dest.key))

end Sys2Proof.Claims

/-- R179, R180: FRETN returns through its frame's link: the link's V is cleared, L goes to the continuation in the caller's frame and iteration, every
token of the frame held in the load is gone, with the accesses that no port has accepted, and the frame joins the end of the pool; node state of the
frame stays. Under rollback containment a link whose read meets poison is not followed: the context is to be rolled back (R353). -/
def Sys2Proof.Claims.FretnCompletes : Prop :=
  ∀ (n : NodeRec) (s : State) (x : Fire) (a : Nat) (t : Option Dest) (ld : Load),
    Ready (.fretn n) n (portsOf (.fretn n) n) [] s.dev x → x.f.tag.frame ≠ 0 →
    (linkHome s.dev x.pg x.cid x.f.tag.frame .rd).1 = .ok (some a) → (linkHome s.dev x.pg x.cid x.f.tag.frame .wr).1 = .ok (some a) →
    let v := linkRead s.dev (some a)
    bitAt v 0 = true → linkDest s.dev x.cid v = .ok t → (s.dev.graph x.cid).load = some ld →
    let back : Tag := ⟨x.f.tag.cid, BitVec.ofNat 14 (fld v 71 58), BitVec.ofNat 16 (fld v 57 42)⟩
    let flight := t.toList.map (flightTo s.dev x.key
      { tag := back, seq := seqFor x s.dev, ma := .once, poi := x.o.poi, cls := .data, lvl := 0, payload := x.lPay, dest := ⟨0, 0, 0, 0, .l⟩ })
    (linkErr s.dev x.cid (some a) = true → Leads (.fretn n) s fun u =>
      (u.dev.hold x.cid).undo = (s.dev.hold x.cid).undo.map (fun v => { v with hit := true }) ∧ u.dev.net = s.dev.net ∧ u.dev.graphs = s.dev.graphs ∧
      u.dev.mem.cells = s.dev.mem.cells ∧ u.dev.mem.wlog = s.dev.mem.wlog ∧ u.sec = s.sec) ∧
    (linkErr s.dev x.cid (some a) = false → Leads (.fretn n) s fun u =>
      (u.dev.graph x.cid) = { s.dev.graph x.cid with pool := (s.dev.graph x.cid).pool ++ [x.f.tag.frame] } ∧ (∀ c, c ≠ x.cid →
        u.dev.graph c = s.dev.graph c) ∧
      LinkStored s.dev u.dev (some a) (v - 1) ∧
      (back.frame ≠ x.f.tag.frame → ∀ f ∈ flight, f ∈ u.dev.net) ∧ (∀ f ∈ u.dev.net, f ∈ s.dev.net ∨ f ∈ flight) ∧
      (∀ f ∈ s.dev.net, f.cid ≠ x.cid ∨ f.tok.tag.frame ≠ x.f.tag.frame ∨ f.tok.cls = .marker → f ∈ u.dev.net) ∧
      (∀ p ∈ ld.pages, ∀ e ∈ (u.dev.page p).toks, e.tok.tag.frame = x.f.tag.frame → e.role = .state) ∧
      (∀ p ∈ ld.pages, ∀ b ∈ (u.dev.page p).accs, b.acc = none → b.tok.tag.frame ≠ x.f.tag.frame) ∧
      (∀ k, ld.holds (pageOfFe k) = true → (∀ e ∈ (u.dev.span k).farQ, e.tag.frame ≠ x.f.tag.frame) ∧
        ∀ w ∈ (u.dev.span k).eosws, w.frame = x.f.tag.frame → w.held = [] ∧ w.count ≠ 0) ∧
      StoringFrame x.key s.dev u.dev ∧ u.sec = s.sec)

/-- R178 to R180, R342, R353: FCALL takes a frame of the pool, FRETN gives it back. -/
def Obligations.CallsComplete : Prop := Claims.FcallCompletes ∧ Claims.FretnCompletes

/-- R36, R184, R382: ROUND enters the next round and sends the marker of the one it leaves to every output span. -/
def Sys2Proof.Claims.RoundCompletes : Prop :=
  ∀ (n : NodeRec) (s : State) (x : Fire), Ready (.round n) n (portsOf (.round n) n) [] s.dev x → roundHeld s.dev x.key = false →
    let r := (s.dev.span x.key).rnd.round
    Leads (.round n) s fun t =>
      (t.dev.span x.key).rnd.round = r + 1 ∧ (∀ k ∈ outputSpans s.dev x.key, ∃ f ∈ t.dev.net, f.src = .span x.key ∧ markerTo r k f) ∧
      (∃ l, t.dev.net = s.dev.net ++ l ∧ ∀ f ∈ l, f.tok.cls = .marker) ∧
      (∀ k, k ≠ x.key → t.dev.span k = s.dev.span k) ∧ t.dev.mem = s.dev.mem ∧ t.dev.ctxs = s.dev.ctxs ∧ t.sec = s.sec

/-- R36, R380: marker n is noted at the input it came by, and the span that is in round n enters round n + 1. -/
def Sys2Proof.Claims.MarkerArrivalCompletes : Prop :=
  ∀ (s : State) (k : Nat) (f : Flight) (l : Load), Deliverable s.dev k f l → f.tok.cls = .marker →
    let key := f.tok.dest.key
    let r := (s.dev.span key).rnd
    let inp := match f.src with | .span k | .box k _ => RInput.span k | .island => .island | .loader => .loader
    let but := fun sp : Span => { sp with rnd := { sp.rnd with recorded := [] } }
    l.holds (pageOfFe key) = true →
    Leads .markerArrival s fun t =>
      (t.dev.span key).rnd.round = (if r.round = f.tok.tag.iter then r.round + 1 else r.round) ∧
      (t.dev.span key).rnd.inputs = r.inputs.map (fun e => if e.1 = inp then (inp, some f.tok.tag.iter) else e) ∧
      (∀ k, k ≠ key → but (t.dev.span k) = but (s.dev.span k)) ∧ t.dev.pages = s.dev.pages ∧ t.dev.mem = s.dev.mem ∧ t.dev.ctxs = s.dev.ctxs ∧
        t.sec = s.sec

/-- R36, R184, R380, R382: ROUND starts a round, and markers arrive. -/
def Obligations.RoundsComplete : Prop := Claims.RoundCompletes ∧ Claims.MarkerArrivalCompletes

/-- R19, R23, R25 to R27, R103: a token that its node takes is held: a ONCE token in a free entry of the matching store, or, where there is none, there
or on the spill path; a STICKY token in the place of the slot's former one, while a PURGE token empties the slot, the former value staying for the
firings that are ready with it; a token for a FAR node at the end of its queue. One whose frame is parked is held parked. -/
def Sys2Proof.Claims.TokenArrivalCompletes : Prop :=
  ∀ (s : State) (k : Nat) (f : Flight) (l : Load), Deliverable s.dev k f l → f.tok.cls ≠ .marker → (s.dev.graph f.cid).st ≠ .queued →
    meets s.dev f = none → portFree s.dev f.tok = true → arrivalCause s.dev f.tok = none →
    let t := f.tok
    let far := ∃ n, nodeAt s.dev t.dest.key t.dest.node = some (.far n)
    let live := s.dev.parkedFrame ((s.dev.cidOf (pageOfFe t.dest.key)).getD 0) t.tag.frame = false
    let before := (s.dev.page (pageOfFe t.dest.key)).toks
    let after := fun u : State => (u.dev.page (pageOfFe t.dest.key)).toks
    let slot := fun e : Entry => e.role = .plain ∧ e.tok.ma = .sticky ∧ e.tok.dest = t.dest ∧ e.tok.tag.frame = t.tag.frame ∧
      e.tok.tag.cid = t.tag.cid
    let kept := fun e : Entry => ∃ g, e.role = .old g ∧ ∃ e0 ∈ before, slot e0 ∧ e.tok = e0.tok
    let rest := fun u : State => u.dev.net = dropNth k s.dev.net ∧ ArrivalFrame t s.dev u.dev ∧ u.sec = s.sec
    (¬ live → Leads .tokenArrival s fun u => after u = before ++ [⟨t, .vc1, true, .plain⟩] ∧ rest u) ∧
    (live → far → Leads .tokenArrival s fun u =>
      (u.dev.span t.dest.key).farQ = (s.dev.span t.dest.key).farQ ++ [t] ∧ after u = before ∧ rest u) ∧
    (live → ¬ far → t.ma = .once → storeUsed s.dev t.dest.key < 64 → Leads .tokenArrival s fun u =>
      after u = before ++ [⟨t, .store, false, .plain⟩] ∧ rest u) ∧
    (live → ¬ far → t.ma = .once → 64 ≤ storeUsed s.dev t.dest.key → Leads .tokenArrival s fun u =>
      (∃ p, (p = .store ∨ p = .vc1) ∧ (⟨t, p, false, .plain⟩ : Entry) ∈ after u) ∧
      (∀ e ∈ before, e ∈ after u ∨ (e.place = .store ∧ { e with place := .vc1 } ∈ after u)) ∧ rest u) ∧
    (live → ¬ far → t.ma = .sticky → (∀ e ∈ before, ¬ slot e) → Leads .tokenArrival s fun u =>
      after u = before ++ [⟨t, if storeUsed s.dev t.dest.key < 64 then .store else .vc1, false, .plain⟩] ∧ rest u) ∧
    (live → ¬ far → t.ma = .sticky → (∃ e ∈ before, slot e) → Leads .tokenArrival s fun u =>
      (∃ e ∈ after u, slot e) ∧ (∀ e ∈ after u, slot e → e.tok = t) ∧ (∀ e ∈ before, ¬ slot e → e ∈ after u) ∧
      (∀ e ∈ after u, slot e ∨ e ∈ before ∨ kept e) ∧ rest u) ∧
    (live → ¬ far → t.ma = .purge → Leads .tokenArrival s fun u =>
      (∀ e ∈ after u, ¬ slot e) ∧ (∀ e ∈ before, ¬ slot e → e ∈ after u) ∧ (∀ e ∈ after u, e ∈ before ∨ kept e) ∧ rest u)

/-- R19, R37, R38, R87, R111: a token that its node does not take is parked with its frame, and its fault is raised at its port; where the frame is
parked already, it is kept to be examined when the frame is released. -/
def Sys2Proof.Claims.RefusedArrivalFaults : Prop :=
  ∀ (s : State) (k : Nat) (f : Flight) (l : Load) (e : FCode) (c : Nat), Deliverable s.dev k f l → f.tok.cls ≠ .marker →
    (s.dev.graph f.cid).st ≠ .queued →
    meets s.dev f = none → portFree s.dev f.tok = true → arrivalCause s.dev f.tok = some e → s.dev.cidOf (pageOfFe f.tok.dest.key) = some c →
    let kept := fun u : State => (⟨f.tok, .vc1, true, .refused⟩ : Entry) ∈ (u.dev.page (pageOfFe f.tok.dest.key)).toks
    (s.dev.parkedFrame c f.tok.tag.frame = true → Leads .tokenArrival s fun u =>
      kept u ∧ u.dev.net = dropNth k s.dev.net ∧ u.dev.graphs = s.dev.graphs ∧ u.dev.mem = s.dev.mem ∧ u.dev.ctxs = s.dev.ctxs ∧ u.sec = s.sec) ∧
    (s.dev.parkedFrame c f.tok.tag.frame = false → (s.dev.graph c).ending = none → (s.dev.graph c).st ≠ .stopped → Leads .tokenArrival s fun u =>
      kept u ∧ (∀ g ∈ u.dev.net, g ∈ dropNth k s.dev.net) ∧
      (∀ g ∈ dropNth k s.dev.net, g.cid ≠ c ∨ g.tok.tag.frame ≠ f.tok.tag.frame → g ∈ u.dev.net) ∧
      (∃ r : FaultRec, (u.dev.graph c).faults = (s.dev.graph c).faults ++ [r] ∧ (u.dev.graph c).posts = (s.dev.graph c).posts ++ [r] ∧
        r.fid = (s.dev.graph c).nextFid ∧ r.code = e ∧ r.frame = some f.tok.tag.frame ∧ r.hdr = f.tok.header ∧ r.port = false) ∧
      u.dev.mem = s.dev.mem ∧ u.dev.ctxs = s.dev.ctxs ∧ u.sec = s.sec)

/-- R19, R23, R25 to R27, R37, R38, R87, R103, R111: a token arrives at its port, or is refused there with a fault. -/
def Obligations.ArrivalsComplete : Prop := Claims.TokenArrivalCompletes ∧ Claims.RefusedArrivalFaults

/-- R83, R371, R372: a token that meets a combining entry is held until every input port of INMASK has supplied one of its tag; then one token goes on
from the box in place of all: that of the lowest port, with the tokens' sum in ascending order of ports and the OR of their POI bits. A second token
of a tag from one port waits. An entry is written where the box has room for it, and cleared while it holds no token; when either happens is open
(log 83). -/
def Sys2Proof.Claims.SwitchCombineCompletes : Prop :=
  (∀ (s : State) (e : CombEntry), e.held = [] →
    (s.dev.occ = .comb e true → e.ok = true → (s.dev.combs.filter (·.box = e.box)).length < 4 →
      Gives .switchCombine s { s.dev with combs := s.dev.combs ++ [e] }) ∧
    (s.dev.occ = .comb e false → Gives .switchCombine s { s.dev with combs := s.dev.combs.filter (· ≠ e) })) ∧
  ∀ (s : State) (k j q : Nat) (f : Flight) (e : CombEntry),
    s.dev.occ = .flight k → s.dev.net[k]? = some f → meets s.dev f = some (j, q) → s.dev.combs[j]? = some e → isHead s.dev k f = true →
    let mine := e.held.filter fun h => h.tok.tag == f.tok.tag
    let me : CombHeld := ⟨q, ((wayFrom f).map (·.1)).getD 0, f.tok⟩
    let need := ((List.range 8).filter (bitAt e.inmask ·)).length
    ((∃ h ∈ mine, h.inp = q) → exec .switchCombine s = .next s) ∧
    ((∀ h ∈ mine, h.inp ≠ q) → mine.length + 1 < need →
      Gives .switchCombine s { s.dev with net := dropNth k s.dev.net, combs := s.dev.combs.set j { e with held := e.held ++ [me] } }) ∧
    ((∀ h ∈ mine, h.inp ≠ q) → need ≤ mine.length + 1 →
      ∃ (h : CombHeld) (rest : List CombHeld) (t : Token),
        (h :: rest).Perm (mine ++ [me]) ∧ (h :: rest).Pairwise (fun a b => a.inp ≤ b.inp) ∧
        t = { h.tok with payload := rest.foldl (fun acc r => combineLane (s.dev.page (pageOfFe h.tok.dest.key)).ftz e.fmt e.rm acc r.tok.payload) h.tok.payload
                         poi := f.tok.poi || mine.any (·.tok.poi), ma := .once, cls := .data } ∧ t.tag = f.tok.tag ∧
        Gives .switchCombine s { s.dev with net := dropNth k s.dev.net ++ [⟨f.cid, .box h.key e.box, .elem, t⟩]
                                            combs := s.dev.combs.set j { e with held := e.held.filter fun h => h.tok.tag != f.tok.tag } })

/-- R28, R377, R410: the entry whose turn it is enters the spill table where probing finds a free place; with none, a RESIDENT context becomes PARKED,
one MSFULL record is made, and the token is kept, with its place among the arrivals that are kept; a PARKED one keeps up to 16, and then the arrival
waits. -/
def Sys2Proof.Claims.SpillInsertCompletes : Prop :=
  ∀ (s : State) (pg k c : Nat) (e : Entry),
    s.dev.occ = .entry pg k → (s.dev.page pg).toks[k]? = some e → s.dev.cidOf pg = some c → nextSpill (s.dev.graph c) (s.dev.page pg) = some k →
    let p := s.dev.page pg
    let home := spillIndex e.tok p.spillLog
    let used := fun i => ∃ u ∈ p.toks, u.place = .table i
    let size := 2 ^ p.spillLog
    let placed := fun pl : Place => { p with toks := p.toks.set k { e with place := pl } }
    let full := ∀ i < size, used i
    -- it is kept after those kept before it; one that was kept already keeps its place
    let kept := fun t : State => ∃ m, t.dev.page pg = placed (.held m) ∧ (heldPlace e = some m ∨ heldPlace e = none ∧ m = s.dev.ids)
    let count := (p.toks.filter fun u => (heldPlace u).isSome).length
    (∀ m < size, ¬ used ((home + m) % size) → (∀ m' < m, used ((home + m') % size)) → Leads .spillInsert s fun t =>
      t.dev = { s.dev with pages := t.dev.pages } ∧ (∀ q, q ≠ pg → t.dev.page q = s.dev.page q) ∧
      { t.dev.page pg with stale := p.stale } = placed (.table ((home + m) % size)) ∧ t.sec = s.sec) ∧
    (full → (s.dev.graph c).st = .resident → Leads .spillInsert s fun t =>
      (∃ r : FaultRec, t.dev.graph c = { s.dev.graph c with st := .parked, nextFid := nextFid (s.dev.graph c).nextFid, msfull := some r } ∧
        r.code = .msfull ∧ r.fid = (s.dev.graph c).nextFid ∧ r.ctx = true ∧ r.hdr = e.tok.header) ∧
      t.dev = { s.dev with pages := t.dev.pages, graphs := t.dev.graphs, ids := t.dev.ids } ∧ kept t ∧
      (∀ q, q ≠ pg → t.dev.page q = s.dev.page q) ∧ (∀ i, i ≠ c → t.dev.graph i = s.dev.graph i) ∧ t.sec = s.sec) ∧
    (full → (s.dev.graph c).st = .parked → count < 16 → Leads .spillInsert s fun t =>
      t.dev = { s.dev with pages := t.dev.pages, ids := t.dev.ids } ∧ kept t ∧ (∀ q, q ≠ pg → t.dev.page q = s.dev.page q) ∧ t.sec = s.sec) ∧
    (full → (s.dev.graph c).st = .parked → 16 ≤ count → exec .spillInsert s = .next s)

/-- R27, R376: the engine returns each partner that a node's waiting token lacks and the spill table holds, and frees its entry; where that completes
the operand set, the node has it, a record that is no valid node too (R111). What the store has no room for beside them goes to the spill path. -/
def Sys2Proof.Claims.SpillLookupCompletes : Prop :=
  ∀ (s : State) (f : Focus),
    s.dev.occ = .site f →
    let ports := neededPorts s.dev f
    let p := s.dev.page (pageOfFe f.span)
    let found := lookupIxs p f ports
    Leads .spillLookup s fun t =>
      let after := (t.dev.page (pageOfFe f.span)).toks
      (∀ k ∈ found, ∃ e e', p.toks[k]? = some e ∧ (∃ j, e.place = .table j) ∧ after[k]? = some e' ∧ e'.tok = e.tok ∧ e'.role = e.role ∧
        ∀ j, e'.place ≠ .table j) ∧
      (∀ k e, k ∉ found → p.toks[k]? = some e → after[k]? = some e ∨ (e.place = .store ∧ after[k]? = some { e with place := .vc1 })) ∧
      ((∀ q ∈ ports, ∃ e, pickAt p f.span f.node q f.tag = some e ∧ (e.inStore = true ∨ ∃ j, e.place = .table j)) →
        (∃ q ∈ ports, p.toks.any (isOnce f.span f.node q f.tag) = true) → (operandsOf t.dev f ports).isSome) ∧
      { t.dev.page (pageOfFe f.span) with toks := [] } = { p with toks := [] } ∧
      t.dev = { s.dev with pages := t.dev.pages } ∧ (∀ q, q ≠ pageOfFe f.span → t.dev.page q = s.dev.page q) ∧ t.sec = s.sec

/-- R27, R28, R83, R111, R371, R372, R376, R377, R410: switch boxes combine, and the spill engine stores a token and finds its partner. -/
def Obligations.CombiningAndSpillingComplete : Prop := Claims.SwitchCombineCompletes ∧ Claims.SpillInsertCompletes ∧ Claims.SpillLookupCompletes

namespace Sys2Proof.Claims

/-! ### Faults, launches, ends, registers -/

/-- Node instructions whose firing matches the ports of the record and holds no firing back of its own (R22, R168). -/
def matching (i : Instr) : Bool :=
  match i with | .far _ | .merge _ | .eosw _ | .loopb _ => false | _ => true

/-- It neither waits for anything but its operands and space nor withholds its tokens: its destinations are checked at every firing. -/
def direct (i : Instr) : Bool :=
  matching i && (match i with
    | .steer _ | .sink _ | .fcall _ | .timer _ | .cntr _ | .round _ | .launch _ | .waitl _ => false
    | i => (rowMem i).isNone && (rowEngine i).isNone)

/-- A firing has trapped (R37, R38, R405, R406): its frame's fault has the next FID, is outstanding and waits to be posted; every token of the frame
that the resident load holds, those in output queues among them, is parked; no other context, no register, no byte of memory changes and nothing is
sent. -/
structure Trapped (d d' : Dev) (c : Nat) (r : FaultRec) : Prop where
  graph : d'.graph c = { d.graph c with nextFid := nextFid (d.graph c).nextFid, posts := (d.graph c).posts ++ [r], faults := (d.graph c).faults ++ [r] }
  fid : r.fid = (d.graph c).nextFid
  time : r.time = d.now.toNat
  others : ∀ k, k ≠ c → d'.graph k = d.graph k
  parked : ∀ l, (d.graph c).load = some l → ∀ p ∈ l.pages, ∀ e ∈ (d'.page p).toks, r.frame = some e.tok.tag.frame → e.parked = true
  ctxs : d'.ctxs = d.ctxs
  mem : d'.mem = d.mem
  net : d'.net = d.net.filter fun g => (inQueue c (r.frame.getD 0) g).isNone
  withdrawn : ∀ g ∈ d.net, ∀ k, inQueue c (r.frame.getD 0) g = some k → ∃ e ∈ (d'.page (pageOfFe k)).toks, e.tok = g.tok ∧ e.parked = true
  spans : ∀ k, { d'.span k with farQ := [], fired := none } = { d.span k with farQ := [], fired := none }
  chans : d'.chans = d.chans
  holds : d'.holds = d.holds

/-- What the record of a fault at a firing says (R407). -/
def FiringRec (d : Dev) (f : Focus) (o : Opnds) (code : FCode) (r : FaultRec) : Prop :=
  r.code = code ∧ r.port = false ∧ r.ctx = false ∧ r.eng = false ∧ r.frame = some f.tag.frame ∧
  r.hdr = (([Port.l, .r, .c, .p].findSome? o.at).map Token.header).getD 0 ∧ r.loc = locOf d f.span f.node none ∧ r.src = 0

/-- Why a ready firing does not go ahead, in the order of the checks (R52, R98, R111, R207, R242, R271). -/
def firingCause (d : Dev) (i : Instr) (n : NodeRec) (c : Nat) (o : Opnds) : Option FCode :=
  if (fieldCause i n (lanesOf (d.span d.focus.span).wid)).isSome || !namesOk i n d (pageOfFe d.focus.span) c then some .illop
  else if privileged i && !(d.ctx c).priv then some .priv
  else if (o.p.map (·.poi)).getD false then some .poisonc
  else none

/-- Why a firing that emits does not: a reserved code in a destination, or a place where the load has no anchor (R111). -/
def destFault (d : Dev) (key : Nat) (n : NodeRec) (e : FCode) : Prop :=
  if (orCause (dstCause n.dsta) (dstCause n.dstb)).isSome then e = .illop else resolveBoth d key n = .error e

/-- The package but for the operands taken and the marks of the firing, apart from what is named. -/
def SysFrame (key : Nat) (d d' : Dev) : Prop :=
  (∀ k, k ≠ key → d'.span k = d.span k) ∧ (∀ p, p ≠ pageOfFe key → d'.page p = d.page p) ∧ d'.mem = d.mem ∧ d'.chans = d.chans ∧ d'.tiles = d.tiles

/-- An end of the context's graph has come: any pending pre-emption is off (R190, R193, R200). -/
def Ends (x : Fire) (k : EndKind) (d d' : Dev) : Prop :=
  d'.graph x.cid = { d.graph x.cid with ending := some ⟨k, BitVec.ofNat 32 ((lane32? x.lPay 0).getD 0), false⟩, preempt := none, victim := false, draining := false, forced := false } ∧
  (∀ c, c ≠ x.cid → d'.graph c = d.graph c) ∧ x.cid ∉ d'.loader.asks ∧ d'.net = d.net ∧ d'.ctxs = d.ctxs ∧ SysFrame x.key d d'

/-- The MSFULL that the loader received before is acted on first: its record is posted and it is outstanding (R200, R404, R410). Where the loader held
inbound tokens meanwhile, one that the load has no place for may raise a fault after it; where it held nothing, nothing is sent. -/
def MsfullFirst (c : Nat) (r : FaultRec) (d d' : Dev) : Prop :=
  (∃ b l, (d'.graph c).posts = (d.graph c).posts ++ { r with sub := b } :: l ∧ (d'.graph c).faults = (d.graph c).faults ++ { r with sub := b } :: l ∧
    ((d.hold c).inbound = [] → l = [])) ∧
  ((d.hold c).inbound = [] → (d.hold c).traps = [] → d'.net = d.net)

end Sys2Proof.Claims

/-- R22, R37, R38, R52, R91, R92, R98, R111, R207, R242, R271, R405, R407: a ready firing whose record is no valid node or names no stream or gateway
that is there (ILLOP), whose node a graph context may not execute (PRIV), or whose predicate is poisoned (POISONC) traps its frame and has no other
effect; one that its predicate suppresses takes its operands and does nothing else, its destinations unchecked; and one that emits traps its frame
where a destination has a reserved code (ILLOP) or leads nowhere (SPANF). -/
def Obligations.RefusedFirings : Prop :=
  ∀ (i : Instr) (op m : Nat) (n : NodeRec) (s : State) (c : Nat) (o : Opnds),
    partsOf i = some (op, m, n) → matching i = true →
    s.dev.cidOf (pageOfFe s.dev.focus.span) = some c → runs (s.dev.graph c) = true →
    operandsOf s.dev s.dev.focus (portsOf i n) = some o → hasSpace s.dev s.dev.focus.span (namedOf i n) = true →
    let f := s.dev.focus
    let cause := firingCause s.dev i n c o
    let traps := fun e => Leads i s fun t => ∃ r, FiringRec s.dev f o e r ∧ Trapped s.dev t.dev c r ∧
      (∀ k, (t.dev.span k).fired = (s.dev.span k).fired) ∧ t.sec = s.sec
    (∀ e, cause = some e → traps e) ∧
    (cause = none → suppresses n o = true → (∀ m, i = .sink m → m.seq = false) → Gives i s (begin_ s.dev f o)) ∧
    (cause = none → suppresses n o = false → direct i = true → ∀ e, destFault s.dev f.span n e → traps e)

/-- R195, R199, R407, R476: TRAP and BRK trap their frame with CODE in SUB and lane 0 of L in AUX; BRK also sets its context's bit of BRKST. -/
def Sys2Proof.Claims.TrapsComplete : Prop :=
  ∀ (n : NodeRec) (s : State) (x : Fire),
    (Ready (.trap n) n (portsOf (.trap n) n) [] s.dev x → Leads (.trap n) s fun t =>
      ∃ r, FiringRec s.dev x.f x.o .trap r ∧ r.sub = x.lit % 2 ^ 16 ∧ r.aux = (lane32? x.lPay 0).getD 0 ∧ Trapped s.dev t.dev x.cid r ∧
        t.dev.glob = s.dev.glob ∧ t.sec = s.sec) ∧
    (Ready (.brk n) n (portsOf (.brk n) n) [] s.dev x → Leads (.brk n) s fun t =>
      ∃ r, FiringRec s.dev x.f x.o .brk r ∧ r.sub = x.lit % 2 ^ 16 ∧ r.aux = (lane32? x.lPay 0).getD 0 ∧ Trapped s.dev t.dev x.cid r ∧
        t.dev.glob = { s.dev.glob with brkst := s.dev.glob.brkst ||| BitVec.ofNat 64 (2 ^ x.cid) } ∧ t.sec = s.sec)

/-- R190, R193, R197, R199, R200: DONE ends its graph or its load with lane 0 of L as status, HALT stops the context with CODE, and YIELD gives up the
rest of the context's turn and forwards L. An MSFULL that the loader received before DONE or HALT is acted on first. -/
def Sys2Proof.Claims.EndsComplete : Prop :=
  ∀ (n : NodeRec) (s : State) (x : Fire),
    let g := s.dev.graph x.cid
    let code := BitVec.ofNat 32 (x.lit % 2 ^ 16)
    let ended := fun (k : EndKind) (i : Instr) => Ready i n (portsOf i n) [] s.dev x →
      (g.msfull = none → Leads i s fun t => Ends x k s.dev t.dev ∧ t.sec = s.sec) ∧
      (∀ r, g.msfull = some r → Leads i s fun t => MsfullFirst x.cid r s.dev t.dev ∧
        (t.dev.graph x.cid).ending = some ⟨k, BitVec.ofNat 32 ((lane32? x.lPay 0).getD 0), false⟩ ∧ (∀ c, c ≠ x.cid → t.dev.graph c = s.dev.graph c) ∧
        t.dev.mem = s.dev.mem ∧ t.sec = s.sec)
    ended .graph (.doneGraph n) ∧ ended .next (.doneNext n) ∧
    (Ready (.halt n) n (portsOf (.halt n) n) [] s.dev x →
      (g.msfull = none → Leads (.halt n) s fun t =>
        t.dev.graph x.cid = { g with st := .stopped, halt := some code, preempt := none, victim := false, draining := false, forced := false, reloc := false } ∧
        (∀ c, c ≠ x.cid → t.dev.graph c = s.dev.graph c) ∧ (∀ q ∈ t.dev.loader.runq, x.cid ∉ q) ∧ t.dev.loader.decide = true ∧
        t.dev.net = s.dev.net ∧ t.dev.ctxs = s.dev.ctxs ∧ SysFrame x.key s.dev t.dev ∧ t.sec = s.sec) ∧
      (∀ r, g.msfull = some r → Leads (.halt n) s fun t => MsfullFirst x.cid r s.dev t.dev ∧
        (t.dev.graph x.cid).st = .stopped ∧ (t.dev.graph x.cid).halt = some code ∧ (∀ c, c ≠ x.cid → t.dev.graph c = s.dev.graph c) ∧
        t.dev.mem = s.dev.mem ∧ t.sec = s.sec)) ∧
    (Ready (.yield n) n (portsOf (.yield n) n) [] s.dev x → Leads (.yield n) s fun t =>
      t.dev.graph x.cid = { g with yielded := true } ∧ (∀ c, c ≠ x.cid → t.dev.graph c = s.dev.graph c) ∧ t.dev.loader.decide = true ∧
      t.dev.net = s.dev.net ++ (both x s.dev .once (lClass x) (lLvl x) x.lPay).flatMap (Sent.flights x s.dev) ∧
      t.dev.ctxs = s.dev.ctxs ∧ SysFrame x.key s.dev t.dev ∧ t.sec = s.sec)

/-- R190, R193, R195, R197, R199, R200, R407, R476: TRAP, BRK, DONE, HALT and YIELD. -/
def Obligations.TrapsAndEndsComplete : Prop := Claims.TrapsComplete ∧ Claims.EndsComplete

/-- R178, R191, R394: LAUNCH emits its status, the generation and the target. With status 0 the target enters QUEUED at the tail of its class's run
queue, with its record, a full pool of frames and a whole quantum; otherwise no context changes. -/
def Sys2Proof.Claims.LaunchCompletes : Prop :=
  ∀ (n : NodeRec) (s : State) (x : Fire) (va tgt : Nat) (bs : List (Byte × Bool)),
    Ready (.launch n) n (portsOf (.launch n) n) [] s.dev x → launchOpnds x = some (va, tgt) →
    (s.dev.page x.pg).accs.all (fun a => a.acc.isNone || a.perfAt s.dev .sys) = true →
    vaRead s.dev (.span x.key) (x.pg / 80) x.cid va 64 = .ok bs →
    let g := s.dev.graph tgt
    let st := launchStatus s.dev tgt (some x.cid)
    Leads (.launch n) s fun t =>
      t.dev.net = s.dev.net ++ (chosen2 x s.dev .data 0
        (lanesThen x.lanes [st, (if st = 0 then g.gen + 1 else g.gen).toNat, tgt])).flatMap (Sent.flights x s.dev) ∧
      (st = 0 ↔ g.st = .idle ∧ ((s.dev.ctx x.cid).priv = true ∨ (s.dev.ctx x.cid).jobid = (s.dev.ctx tgt).jobid)) ∧
      (st = 0 → (t.dev.graph tgt).st = .queued ∧ (t.dev.graph tgt).lrec = recOf (numOf bs) ∧ (t.dev.graph tgt).gen = g.gen ∧
        (t.dev.graph tgt).pool = (List.range 16383).map (fun k => BitVec.ofNat 14 (k + 1)) ∧
        i64 (t.dev.ctx tgt).deficit = max 1 (s.dev.ctx tgt).quantum ∧
        (∀ q, s.dev.loader.runq[(s.dev.ctx tgt).cls]? = some q → t.dev.loader.runq[(s.dev.ctx tgt).cls]? = some (q.filter (· != tgt) ++ [tgt]))) ∧
      (st ≠ 0 → t.dev.graphs = s.dev.graphs ∧ t.dev.ctxs = s.dev.ctxs ∧ t.dev.loader = s.dev.loader) ∧
      (∀ c, c ≠ tgt → t.dev.graph c = s.dev.graph c ∧ t.dev.ctx c = s.dev.ctx c) ∧ t.sec = s.sec

/-- R192: WAITL registers a wait for generation g of a context; once that launch, or a later one, has completed, its tokens leave with the status,
cause and g, or with 0, 4 and g for a later one. -/
def Sys2Proof.Claims.WaitsComplete : Prop :=
  (∀ (n : NodeRec) (s : State) (x : Fire) (c g : Nat),
    Ready (.waitl n) n (portsOf (.waitl n) n) [] s.dev x → lane32? x.lPay 0 = some c → lane32? x.lPay 1 = some g →
    (((s.dev.hold x.cid).waits.filter fun w => w.span == x.key && w.node == x.f.node).length < 16) →
    Leads (.waitl n) s fun t =>
      (∃ w : Wait, (t.dev.hold x.cid) = { s.dev.hold x.cid with waits := (s.dev.hold x.cid).waits ++ [w] } ∧
        w.span = x.key ∧ w.node = x.f.node ∧ w.cid = c % 64 ∧ w.g = BitVec.ofNat 32 g ∧ w.since = s.dev.now.toNat ∧
        w.toks.map (·.dest) = x.dests ∧ ∀ k ∈ w.toks, k.tag = emitTag n x.f.tag ∧ k.seq = seqFor x s.dev ∧ k.cls = .data ∧ k.ma = .once) ∧
      t.dev.net = s.dev.net ∧ t.dev.graphs = s.dev.graphs ∧ t.dev.ctxs = s.dev.ctxs ∧ SysFrame x.key s.dev t.dev ∧ t.sec = s.sec) ∧
  (∀ (s : State) (c k : Nat) (w : Wait),
    s.dev.occ = .wait c k → (s.dev.hold c).waits[k]? = some w → ((s.dev.graph w.cid).gen - w.g).toNat < 2 ^ 31 → w.since < s.dev.now.toNat →
    (s.dev.graph c).ending = none →
    let tg := s.dev.graph w.cid
    let vals := if tg.gen = w.g then [tg.status.toNat, tg.cause.toNat, w.g.toNat] else [0, 4, w.g.toNat]
    let said := fun e : Token => { e with payload := lanesThen e.payload.length vals }
    let here := (s.dev.graph c).st = .resident ∨ (s.dev.graph c).st = .parked
    (here → hasSpace s.dev w.span w.toks.length = true → Leads .waitlRelease s fun t =>
      t.dev.net = s.dev.net ++ w.toks.map (fun e => flightTo s.dev w.span (said e) e.dest) ∧
      t.dev.hold c = { s.dev.hold c with waits := dropNth k (s.dev.hold c).waits } ∧
      t.dev = { s.dev with net := t.dev.net, holds := t.dev.holds } ∧ t.sec = s.sec) ∧
    -- with no load resident, the tokens wait in the loader (R416)
    (¬ here → (s.dev.graph c).st ≠ .stopped → Leads .waitlRelease s fun t =>
      t.dev.hold c = { s.dev.hold c with waits := dropNth k (s.dev.hold c).waits, toks := (s.dev.hold c).toks ++ w.toks.map said } ∧
      t.dev = { s.dev with holds := t.dev.holds } ∧ t.sec = s.sec))

/-- R178, R191, R192, R394: LAUNCH and WAITL. -/
def Obligations.LaunchesAndWaitsComplete : Prop := Claims.LaunchCompletes ∧ Claims.WaitsComplete

/-- R43, R44, R45, R46, R47, R49, R196: RDSR emits the 64-bit value of the register of its own context, page or die, or of the one that R names; WRSR
writes the register and emits what it then holds. -/
def Obligations.RegistersComplete : Prop :=
  (∀ (n : NodeRec) (s : State) (x : Fire), Ready (.rdsr n) n (portsOf (.rdsr n) n) [] s.dev x → regFault x s.dev false = none →
    let v := readReg (taken x s.dev) (regOf x).1 (regOf x).2
    Leads (.rdsr n) s fun t =>
      t.dev.net = s.dev.net ++ (chosen2 x s.dev .data 0 (lanesThen x.lanes [v % 2 ^ 32, v / 2 ^ 32 % 2 ^ 32])).flatMap (Sent.flights x s.dev) ∧
      LocalFrame x.key s.dev t.dev ∧ t.sec = s.sec) ∧
  (∀ (n : NodeRec) (s : State) (x : Fire) (v : Nat), Ready (.wrsr n) n (portsOf (.wrsr n) n) [] s.dev x → regFault x s.dev true = none →
    lane64? x.lPay 0 = some v →
    let num := (regOf x).1
    let tgt := (regOf x).2
    -- the registers a write stores at once: FPCTL, PTROOT, FRAMEBASE, TRAPNODE, FAULTQ, PRIO, WEIGHT, HOTDECAY; DEFICIT ignores it
    let stored : Option Nat :=
      if num = 0x001 then some (v % 2) else if num = 0x002 then some (v &&& 0x3FFFFFFFFFFFF001) else if num = 0x005 then some (v &&& 0x01FFFFFFFFFC0000)
      else if num = 0x006 then some (v &&& 0x07FFFFFD) else if num = 0x007 then some (v &&& 0x01FFFFFFFFFFF00F) else if num = 0x008 then some (v % 4)
      else if num = 0x009 then some (max 1 (v % 256)) else if num = 0x00A then some (s.dev.ctx tgt).deficit.toNat else if num = 0x00B then some (v % 2 ^ 32) else none
    ∀ w, stored = some w → Leads (.wrsr n) s fun t =>
      readReg t.dev num tgt = w ∧
      t.dev.net = s.dev.net ++ (chosen2 x s.dev .data 0 (lanesThen x.lanes [w % 2 ^ 32, w / 2 ^ 32 % 2 ^ 32])).flatMap (Sent.flights x s.dev) ∧
      (∀ k j, k ≤ 0x00B → (k, j) ≠ (num, tgt) → ctxReg (t.dev.ctx j) k = ctxReg (s.dev.ctx j) k) ∧ t.dev.mem = s.dev.mem ∧ t.sec = s.sec) ∧
  -- CTXCFG, whose EN also starts or ends the context; SPILLBASE and SPILLSIZE, by which the tables of a PARKED context may be rebuilt (R411)
  (∀ (n : NodeRec) (s : State) (x : Fire) (v : Nat), Ready (.wrsr n) n (portsOf (.wrsr n) n) [] s.dev x → regFault x s.dev true = none →
    lane64? x.lPay 0 = some v →
    let num := (regOf x).1
    let tgt := (regOf x).2
    ∀ w, (num = 0x000 ∧ w = v &&& 0xFFFF0007 ∨ num = 0x003 ∧ w = v &&& 0x3FF000 ∨ num = 0x004 ∧ w = v &&& 0x1F) → Leads (.wrsr n) s fun t =>
      let said := (chosen2 x s.dev .data 0 (lanesThen x.lanes [w % 2 ^ 32, w / 2 ^ 32 % 2 ^ 32])).flatMap (Sent.flights x s.dev)
      readReg t.dev num tgt = w ∧ (∀ f ∈ said, f ∈ t.dev.net) ∧
      ((s.dev.hold tgt).inbound = [] → (s.dev.hold tgt).traps = [] → t.dev.net = s.dev.net ++ said) ∧
      (∀ k j, k ≤ 0x00B → j ≠ tgt → ctxReg (t.dev.ctx j) k = ctxReg (s.dev.ctx j) k) ∧ t.dev.mem = s.dev.mem ∧ t.sec = s.sec) ∧
  (∀ (n : NodeRec) (s : State) (x : Fire) (v : Nat), Ready (.wrsr n) n (portsOf (.wrsr n) n) [] s.dev x → regFault x s.dev true = none →
    lane64? x.lPay 0 = some v → 0x100 ≤ (regOf x).1 →
    let num := (regOf x).1
    let tgt := (regOf x).2
    Leads (.wrsr n) s fun t =>
      let w := readReg t.dev num tgt
      let p := t.dev.page tgt
      let y := t.dev.die tgt
      ((s.dev.page tgt).cid.isSome = true → (num = 0x102 → p.cycles = BitVec.ofNat 64 v) ∧ (num = 0x103 → p.stall = [0, 0, 0, 0, 0]) ∧
        (num = 0x104 → p.tlb = [] ∧ p.miss = 0)) ∧
      (tgt < s.dev.dies.length → (num = 0x200 → y.log = (s.dev.die tgt).log.drop 1) ∧
        (num = 0x201 → y.corr = v % 2 ^ 32 ∧ y.uncorr = v / 2 ^ 32 % 2 ^ 31 ∧ (y.ovf = true ↔ v / 2 ^ 63 % 2 = 1)) ∧
        (num = 0x202 → y.errwin = BitVec.ofNat 64 (v &&& 0xFFFFFFFF0000FFFF))) ∧
      t.dev.net = s.dev.net ++ (chosen2 x s.dev .data 0 (lanesThen x.lanes [w % 2 ^ 32, w / 2 ^ 32 % 2 ^ 32])).flatMap (Sent.flights x s.dev) ∧
      t.dev.ctxs = s.dev.ctxs ∧ t.dev.graphs = s.dev.graphs ∧ t.dev.mem = s.dev.mem ∧ t.sec = s.sec)

namespace Sys2Proof.Claims

/-- The fault that a RESUME token names (R198): outstanding, of the context in its HDR, with the record's first 32 bytes. -/
def Names (x : Fire) (d : Dev) (r : FaultRec) : Prop := resumeFault x d = some r

/-- The status of a RESUME in lane 0 of both its tokens. -/
def Status (x : Fire) (d d' : Dev) (v : Nat) : Prop :=
  ∀ f ∈ (chosen2 x d .data 0 (lanesThen x.lanes [v])).flatMap (Sent.flights x d), f ∈ d'.net

end Sys2Proof.Claims

/-- R38, R198, R221, R404, R405, R408: RESUME of a fault that is not outstanding answers 1, and one whose action the fault does not take answers 2,
with no effect. Retry ends a fault that holds a port, release one that holds none; kill ends every fault of the frame, discards its tokens and
returns it to the pool, or, for frame 0, takes back the pins. Each answers 0. -/
def Obligations.ResumesComplete : Prop :=
  ∀ (n : NodeRec) (s : State) (x : Fire) (i : Instr) (k : Nat),
    (i = .resumeRetry n ∧ k = 0 ∨ i = .resumeRelease n ∧ k = 1 ∨ i = .resumeKill n ∧ k = 2) → Ready i n (portsOf i n) [] s.dev x →
    let c := resumeCid x
    (resumeFault x s.dev = none → Leads i s fun t => t.dev.graphs = s.dev.graphs ∧ Status x s.dev t.dev 1 ∧ LocalFrame x.key s.dev t.dev ∧
      t.sec = s.sec) ∧
    (∀ r, Names x s.dev r → (k = 0 ∧ r.port = false ∨ k = 1 ∧ (r.port = true ∨ r.frame = none) ∨ k = 2 ∧ r.frame = none) → Leads i s fun t =>
      t.dev.graphs = s.dev.graphs ∧ Status x s.dev t.dev 2 ∧ LocalFrame x.key s.dev t.dev ∧ t.sec = s.sec) ∧
    (∀ r f l, Names x s.dev r → r.frame = some f → (s.dev.graph c).load = some l → (k = 0 ∧ r.port = true ∨ k = 1 ∧ r.port = false) →
      let left := (s.dev.graph c).faults.filter (·.fid != r.fid)
      let live := fun d : Dev => (∀ q ∈ left, q.frame ≠ some f) → ∀ p ∈ l.pages, ∀ e ∈ (d.page p).toks, e.tok.tag.frame = f → e.parked = false
      let unheld := ∀ p ∈ l.pages, ∀ a ∈ (s.dev.page p).accs, a.fault ≠ some r.fid
      -- a refused arrival of the frame is examined again, and may raise its fault anew
      let settled := (∀ p ∈ l.pages, ∀ e ∈ (s.dev.page p).toks, e.tok.tag.frame = f → e.role ≠ .refused) ∧ (f = 0 → (s.dev.hold c).away = [])
      (unheld → Leads i s fun t => (t.dev.graph c).faults.take left.length = left ∧ Status x s.dev t.dev 0 ∧
        (∀ g, g ≠ c → t.dev.graph g = s.dev.graph g) ∧ t.dev.mem = s.dev.mem ∧ t.dev.ctxs = s.dev.ctxs ∧ t.sec = s.sec) ∧
      (unheld → settled → Leads i s fun t => (t.dev.graph c).faults = left ∧ live t.dev) ∧
      -- one access is held: it is issued again with fresh translations
      (∀ pg ∈ l.pages, ∀ (a : Access) (es : List Elem) (d2 : Dev), a.kind ≠ .msend → settled →
        let d1 := if r.port then modAnyPages (taken x s.dev) c (queueHeld (taken x s.dev)) else taken x s.dev
        (∀ p ∈ l.pages, (d1.page p).accs.filter (·.fault == some r.fid) = if p = pg then [a] else []) →
        let a0 := { a with fault := none, retry := false, els := a.els.map fun e => { e with st := .todo, pa := none } }
        transAll pg a0 true (setAcc (d1.modGraph c fun g => { g with faults := left }) pg a0) = (.ok es, d2) → Leads i s fun t =>
          { a0 with els := es } ∈ (t.dev.page pg).accs ∧ (t.dev.graph c).faults = left ∧ live t.dev ∧ Status x s.dev t.dev 0 ∧
          (∀ g, g ≠ c → t.dev.graph g = s.dev.graph g) ∧ t.dev.mem.cells = s.dev.mem.cells ∧ t.dev.mem.wlog = s.dev.mem.wlog ∧
          t.dev.ctxs = s.dev.ctxs ∧ t.sec = s.sec)) ∧
    (∀ r f, Names x s.dev r → r.frame = some f → k = 2 → Leads i s fun t =>
        (∀ q ∈ (t.dev.graph c).faults, q.frame ≠ some f) ∧ (t.dev.graph c).pool = (s.dev.graph c).pool ++ (if f = 0 then [] else [f]) ∧
        (f = 0 → (t.dev.hold c).pins = []) ∧ Status x s.dev t.dev 0 ∧
        (∀ l, (s.dev.graph c).load = some l → ∀ p ∈ l.pages, ∀ e ∈ (t.dev.page p).toks, e.tok.tag.frame = f → e.role = .state) ∧
        (∀ g, g ≠ c → t.dev.graph g = s.dev.graph g) ∧ ((s.dev.graph c).load ≠ none ∨ (s.dev.graph c).save = none → t.dev.mem = s.dev.mem) ∧
          t.dev.ctxs = s.dev.ctxs ∧ t.sec = s.sec)

namespace Sys2Proof.Claims

/-! ### Memory nodes -/

/-- Size of an element, the lanes that LEN names, the addresses of a run with the lane of each, and those of LDG and STG (R205, R206, R211, R212). -/
def gran (x : Fire) : Nat := if fmtBits x.n.fmt = 64 then 8 else 4
def runLen (x : Fire) : Nat := if x.lit / 2 ^ 13 % 2 ^ 7 = 0 then x.lanes else x.lit / 2 ^ 13 % 2 ^ 7
def runOf (x : Fire) (va : Nat) : List (Nat × Nat) := (List.range (runLen x * 4 / gran x)).map fun k => (va + k * gran x, k * (gran x / 4))
def gathered (x : Fire) : List (Nat × Nat) :=
  (List.range (x.lanes / 2)).filterMap fun j => (lane64? x.lPay (2 * j)).map fun va => (va, if gran x = 8 then 2 * j else j)

/-- Elements of a load, and of a store: only those whose value is present (R211). -/
def loadEls (l : List (Nat × Nat)) : List (Nat × Nat × Nat) := l.map fun e => (e.1, e.2, 0)
def storeEls (x : Fire) (l : List (Nat × Nat)) : List (Nat × Nat × Nat) :=
  l.filterMap fun e => (if gran x = 8 then lane64? x.rPay e.2 else lane32? x.rPay e.2).map fun v => (e.1, e.2, v)

/-- An address in lanes 0 and 1 of L, of which a node may be sure; the stream that its literal names, and the port to which that is bound. -/
def Addressed (x : Fire) (d : Dev) (va : Nat) : Prop :=
  lane64? x.lPay 0 = some va ∧ (x.o.l.map (·.poi)).getD false = false ∧ (streamDef (d.page x.pg) (x.lit % 2 ^ 8)).isSome = true

def portFor (x : Fire) (d : Dev) : Nat := ((streamDef (d.page x.pg) (x.lit % 2 ^ 8)).map (·.port)).getD 0

/-- A memory node: when it hands its access over beside R22, and what access that is. -/
structure Issuer where
  ctor : NodeRec → Instr
  when_ : Fire → Dev → Prop
  kind : AccKind
  phys : Bool := false
  /-- Stream, ordering and scope come of the literal (R206); otherwise they are none. -/
  ordered : Bool := true
  port : Fire → Dev → Nat
  size : Fire → Nat := gran
  els : Fire → List (Nat × Nat × Nat)
  st : Fire → ElSt := fun _ => .todo
  op : Fire → Nat := fun _ => 0
  opnd : Fire → List Nat := fun _ => []
  aux : Fire → List Nat := fun _ => []
  reads : Bool

def aligned (x : Fire) (d : Dev) : Prop := ∃ va, Addressed x d va ∧ va % gran x = 0
def vaOf (x : Fire) : Nat := (lane64? x.lPay 0).getD 0
def gatherOk (x : Fire) (d : Dev) : Prop :=
  (x.o.l.map (·.poi)).getD false = false ∧ (streamDef (d.page x.pg) (x.lit % 2 ^ 8)).isSome = true ∧ ∀ e ∈ gathered x, e.1 % gran x = 0
def offsetOf (x : Fire) : Nat := (lane32? x.lPay 0).getD 0
def scratchOk (x : Fire) (d : Dev) : Prop :=
  (lane32? x.lPay 0).isSome = true ∧ (x.o.l.map (·.poi)).getD false = false ∧ offsetOf x % gran x = 0 ∧ offsetOf x < 2 ^ 22 ∧
  offsetOf x + 4 * runLen x ≤ 2 ^ 22 ∧ scratch d x.pg (offsetOf x) (4 * runLen x) = true
def opndAt (x : Fire) (k : Nat) : Option Nat := if gran x = 8 then lane64? x.rPay k else lane32? x.rPay k
def atomOk (two : Bool) (x : Fire) (d : Dev) : Prop :=
  aligned x d ∧ (opndAt x 0).isSome = true ∧ (two = true → (opndAt x 2).isSome = true) ∧ (x.o.r.map (·.poi)).getD false = false
def atomRow (ctor : NodeRec → Instr) (reads : Bool) : Issuer :=
  { ctor, when_ := atomOk false, kind := .atom, port := portFor, els := fun x => [(vaOf x, 0, 0)], op := fun x => x.lit / 2 ^ 13 % 2 ^ 4,
    opnd := fun x => (opndAt x 0).toList, aux := fun _ => if reads then [] else [1], reads }

def issuers : List Issuer :=
  [ { ctor := .ld, when_ := aligned, kind := .load, port := portFor, els := fun x => loadEls (runOf x (vaOf x)), reads := true },
    { ctor := .st, when_ := aligned, kind := .store, port := portFor, els := fun x => storeEls x (runOf x (vaOf x)), reads := false },
    { ctor := .ldp, when_ := aligned, kind := .load, phys := true, port := portFor, els := fun x => loadEls (runOf x (vaOf x)), aux := fun x => [0, vaOf x, 4 * runLen x], reads := true },
    { ctor := .stp, when_ := aligned, kind := .store, phys := true, port := portFor, els := fun x => storeEls x (runOf x (vaOf x)), aux := fun x => [0, vaOf x, 4 * runLen x], reads := false },
    { ctor := .ldg, when_ := gatherOk, kind := .load, port := portFor, els := fun x => loadEls (gathered x), aux := fun _ => [1], reads := true },
    { ctor := .stg, when_ := gatherOk, kind := .store, port := portFor, els := fun x => storeEls x (gathered x), aux := fun _ => [1], reads := false },
    { ctor := .lds, when_ := scratchOk, kind := .lds, ordered := false, port := fun _ _ => 4, els := fun x => loadEls (runOf x (offsetOf x)), reads := true },
    { ctor := .sts, when_ := scratchOk, kind := .sts, ordered := false, port := fun _ _ => 4, els := fun x => storeEls x (runOf x (offsetOf x)), reads := false },
    atomRow .atom true, atomRow .atomf true, atomRow .atoms false,
    { ctor := .cas, when_ := atomOk true, kind := .cas, port := portFor, els := fun x => [(vaOf x, 0, 0)], op := fun x => x.lit / 2 ^ 13 % 2 ^ 4
      opnd := fun x => (opndAt x 0).toList ++ (opndAt x 2).toList, reads := true },
    { ctor := .pref, when_ := fun x d => ∃ va len, Addressed x d va ∧
      lane32? x.lPay 2 = some len, kind := .pref, ordered := false, port := portFor, size := fun _ => 4
      els := fun x =>
        let va := vaOf x
        let len := (lane32? x.lPay 2).getD 0
        if len = 0 then [(va, 0, 0)] else (List.range ((va + len + 63) / 64 - va / 64)).map fun k => ((va / 64 + k) * 64, 0, 0)
      st := fun x => if (lane32? x.lPay 2).getD 0 = 0 then .read [] else .todo, reads := false },
    { ctor := .msend, kind := .msend, ordered := false, port := fun _ _ => 5, size := fun _ => 4, els := fun _ => [(0, 0, 0)], reads := false
      when_ := fun x d => (lane32? x.rPay 0).isSome = true ∧ ∀ a ∈ (d.page x.pg).accs, a.kind = .msend → a.span = x.key → a.node = x.f.node →
        a.fault = none ∨ sameBox d a (sendAcc x d) = false
      aux := fun x => [x.lit % 2 ^ 4, (lane32? x.rPay 0).getD 0 % 64, match lane32? x.rPay 1 with | some v => v % 1024 + 1 | none => 0] } ]

/-- The access that a firing hands over (R203, R206, R208): not yet arrived at its port; its elements still to be done; its tokens with the firing's
tag and SEQ. -/
structure Handed (e : Issuer) (x : Fire) (d : Dev) (a : Access) : Prop where
  who : a.cid = x.cid ∧ a.span = x.key ∧ a.node = x.f.node ∧ x.o.l = some a.tok
  what : a.kind = e.kind ∧ a.phys = e.phys ∧ a.port = e.port x d ∧ a.fmt = x.n.fmt ∧ a.op = e.op x ∧ a.opnd = e.opnd x ∧ a.aux = e.aux x
  order : e.ordered = true → a.stream = x.lit % 2 ^ 8 ∧ a.scope = scopeOf (x.lit / 2 ^ 8 % 8) ∧ (a.acq = true ↔ x.lit / 2 ^ 11 % 2 = 1) ∧
    (a.rel = true ↔ x.lit / 2 ^ 12 % 2 = 1)
  plain : e.ordered = false → a.acq = false ∧ a.rel = false ∧ a.scope = .elem
  els : a.els.map (fun y => (y.va, y.lane, y.val)) = e.els x
  each : ∀ y ∈ a.els, y.size = e.size x ∧ y.pa = none ∧ y.st = e.st x ∧ y.bank = false
  poison : ∀ y ∈ a.els, (e.kind = .store ∨ e.kind = .sts) → y.vpoi = (x.o.r.map (·.poi)).getD false
  fresh : a.qpos = none ∧ a.acc = none ∧ a.fault = none ∧ a.dataSent = false ∧ a.queued = false ∧ a.retry = false
  to_ : if e.reads = true then a.dataTo = x.a.toList ∧ a.doneTo = x.b.toList else a.dataTo = [] ∧ a.doneTo = x.dests
  emit : a.emit.tag = emitTag x.n x.f.tag ∧ (x.dests ≠ [] → a.emit.seq = seqFor x d) ∧ a.emit.poi = false ∧ a.emit.cls = .data ∧ a.emit.ma = .once ∧
    a.emit.payload = List.replicate x.lanes ⟨0, false⟩

/-- What the hand-over leaves as it was: memory, registers, contexts, the networks, every other span and page, and of its own page all but the operands
taken and its list of accesses. -/
structure HandFrame (key : Nat) (d d' : Dev) : Prop where
  rest : d' = { d with spans := d'.spans, pages := d'.pages, ids := d'.ids }
  spans : ∀ k, k ≠ key → d'.span k = d.span k
  pages : ∀ p, p ≠ pageOfFe key → d'.page p = d.page p
  page : { pageRest (d'.page (pageOfFe key)) with accs := [] } = { pageRest (d.page (pageOfFe key)) with accs := [] }
  nodes : (d'.span key).nodes = (d.span key).nodes ∧ (d'.span key).counts = (d.span key).counts

end Sys2Proof.Claims

/-- R201, R203, R205, R206, R208, R210 to R214, R216 to R219, R229, R230: every memory node that is ready and sure of its operands hands its access
over: after the others of its page, with the elements, stream, order and scope that its operands and literal name. Memory is as before. -/
def Sys2Proof.Claims.MemoryNodesComplete : Prop :=
  ∀ e ∈ issuers, ∀ (n : NodeRec) (s : State) (x : Fire), Ready (e.ctor n) n (portsOf (e.ctor n) n) [] s.dev x → e.when_ x s.dev →
    (∀ a ∈ (s.dev.page x.pg).accs, a.span = x.key → a.node = x.f.node → a.acc.isSome = true) →
    Leads (e.ctor n) s fun t =>
      (∃ a, Handed e x s.dev a ∧ (t.dev.page x.pg).accs = (s.dev.page x.pg).accs ++ [a]) ∧ HandFrame x.key s.dev t.dev ∧ t.sec = s.sec

namespace Sys2Proof.Claims

/-- Nodes that read or write memory at an address in lanes 0 and 1 of L. -/
def oneAddress : List (NodeRec → Instr) := [.ld, .st, .ldp, .stp, .atom, .cas, .atomf, .atoms]

end Sys2Proof.Claims

/-- R205, R233: an address that is no multiple of the element's size raises ALIGN against the firing frame; the record holds the address, and no access
is issued. -/
def Sys2Proof.Claims.MisalignedTraps : Prop :=
  ∀ ctor ∈ oneAddress, ∀ (n : NodeRec) (s : State) (x : Fire) (va : Nat), Ready (ctor n) n (portsOf (ctor n) n) [] s.dev x → Addressed x s.dev va →
    ((ctor n = .atom n ∨ ctor n = .cas n ∨ ctor n = .atomf n ∨ ctor n = .atoms n) → (opndAt x 0).isSome = true ∧
      (x.o.r.map (·.poi)).getD false = false) →
    (ctor n = .cas n → (opndAt x 2).isSome = true) →
    (∀ a ∈ (s.dev.page x.pg).accs, a.span = x.key → a.node = x.f.node → a.acc.isSome = true) → va % gran x ≠ 0 →
    Leads (ctor n) s fun t =>
      ∃ r, FiringRec s.dev x.f x.o .align r ∧ r.addr = va ∧ Trapped s.dev t.dev x.cid r ∧ (t.dev.page x.pg).accs = (s.dev.page x.pg).accs ∧
        t.sec = s.sec

/-- R201, R203, R205, R206, R208, R210 to R214, R216 to R219, R229, R230, R233: every memory node hands over its access, and traps its frame where an
address is not aligned. -/
def Obligations.MemoryNodesIssue : Prop := Claims.MemoryNodesComplete ∧ Claims.MisalignedTraps

/-- R220, R221: XLAT puts the physical addresses of its pairs in their lanes, and pins each leaf with the rights it asked for. -/
def Sys2Proof.Claims.TranslationCompletes : Prop :=
  ∀ (n : NodeRec) (s : State) (x : Fire) (ls : List (Nat × Nat × Leaf)) (d1 : Dev), Ready (.xlat n) n (portsOf (.xlat n) n) [] s.dev x →
    (bitAt x.lit 0 = true → (lane64? x.lPay 0).isSome = true) → (x.o.l.map (·.poi)).getD false = false → xlatWaits x s.dev = false →
    let acc := x.lit / 2 % 4
    xlatAll x.pg x.cid acc (xlatPairs x) (taken x s.dev) = (.ok ls, d1) →
    ls.map (fun e => (e.1, e.2.1)) = xlatPairs x ∧
    Leads (.xlat n) s fun t =>
      (∃ p : Payload, p.length = x.lanes ∧
        t.dev.net = s.dev.net ++ Sent.flights { x with o := { x.o with poi := false } } s.dev ⟨x.a, .data, 0, .once, emitTag n x.f.tag, seqFor x s.dev, p⟩ ∧
        (∀ e ∈ ls, (p[2 * e.1]?).map (·.nat) = some (e.2.2.pa e.2.1 % 2 ^ 32) ∧
          (p[2 * e.1 + 1]?).map (·.nat) = some (e.2.2.pa e.2.1 / 2 ^ 32 % 2 ^ 32))) ∧
      (∀ e ∈ ls, ∃ q ∈ (t.dev.hold x.cid).pins, q.va = e.2.2.va ∧ q.size = e.2.2.size ∧ q.pa = e.2.2.frame ∧ q.r = true ∧ (1 ≤ acc → q.w = true) ∧
        (2 ≤ acc → q.a = true)) ∧
      (∀ c, c ≠ x.cid → t.dev.hold c = s.dev.hold c) ∧ t.dev.graphs = s.dev.graphs ∧ t.dev.ctxs = s.dev.ctxs ∧
      t.dev.mem.cells = s.dev.mem.cells ∧ t.dev.mem.wlog = s.dev.mem.wlog ∧ t.sec = s.sec

/-- R223 to R225: SBAR and FENCE forward L once every earlier access that they order is performed at their scope: at once where that holds, else a
barrier of the page waits for those that are not. -/
def Sys2Proof.Claims.BarriersComplete : Prop :=
  ∀ (n : NodeRec) (s : State) (x : Fire) (i : Instr) (streams : List Nat),
    (i = .sbar n ∧ streams = sbarStreams x s.dev ∨ i = .fence n ∧ streams = []) → Ready i n (portsOf i n) [] s.dev x →
    let sc := scopeOf (x.lit / 2 ^ 8 % 8)
    let open_ := ((s.dev.page x.pg).accs.filter fun a =>
      a.acc.isSome && (i != .sbar n || (decide (a.port < 4) && streams.contains a.stream)) && !a.perfAt s.dev sc).map (·.id)
    let sends := (both x s.dev .once (lClass x) (lLvl x) x.lPay).flatMap (Sent.flights x s.dev)
    Leads i s fun t =>
      (open_ = [] → t.dev.net = s.dev.net ++ sends ∧ LocalFrame x.key s.dev t.dev) ∧
      (open_ ≠ [] → t.dev.net = s.dev.net ∧ (∀ p, p ≠ x.pg → t.dev.page p = s.dev.page p) ∧
        ∃ b : Barrier, (t.dev.page x.pg).barriers = (s.dev.page x.pg).barriers ++ [b] ∧ b.span = x.key ∧ b.waits = open_ ∧ b.scope = sc ∧
          b.streams = streams ∧
          (b.sbar = true ↔ i = .sbar n) ∧ b.toks.map (·.dest) = x.dests ∧ ∀ k ∈ b.toks, k.payload = x.lPay ∧ k.seq = seqFor x s.dev) ∧
      t.dev.mem = s.dev.mem ∧ t.dev.ctxs = s.dev.ctxs ∧ t.dev.graphs = s.dev.graphs ∧ t.sec = s.sec

/-- R220, R221, R223 to R225: XLAT and the barriers. -/
def Obligations.TranslationAndBarriersComplete : Prop := Claims.TranslationCompletes ∧ Claims.BarriersComplete

namespace Sys2Proof.Claims

/-- A line of a bank lies in the range of FLUSH or INVAL, taken whole (R227). -/
def InRange (r : Option (Nat × Nat)) (b : Bank) (l : BankLine) : Prop :=
  ∀ va n, r = some (va, n) → n ≠ 0 ∧ va < b.va + 64 * l.ix + 64 ∧ b.va + 64 * l.ix < va + n

/-- The banks of a page keep their places; of the lines in a range, FLUSH and INVAL leave those dirty that could not be written back. -/
def BanksKept (p p' : Page) : Prop := p'.banks.map (fun b => (b.va, b.size, b.off)) = p.banks.map (fun b => (b.va, b.size, b.off))

/-- An access of the cache banks, accepted at once, whose completion tokens wait for its writes. -/
def BankWork (x : Fire) (a : Access) : Prop :=
  a.kind = .flush ∧ a.port = 6 ∧ a.acc.isSome = true ∧ a.span = x.key ∧ a.cid = x.cid ∧ a.dataTo = [] ∧ a.doneTo = x.dests

end Sys2Proof.Claims

/-- R209, R226 to R228: BIND adds an empty bank, whose bytes of the page store are lost while the others stay, and UNBIND takes it away; INVAL drops
every line of its range, or, without DISC, all but those whose data cannot be written back; FLUSH writes a dirty line's written granules back to
their homes and leaves it clean. -/
def Sys2Proof.Claims.BanksComplete : Prop :=
  (∀ (n : NodeRec) (s : State) (x : Fire) (va size off : Nat), Ready (.bind n) n (portsOf (.bind n) n) [] s.dev x →
    lane64? x.lPay 0 = some va → (x.o.l.map (·.poi)).getD false = false → lane32? x.lPay 2 = some size → lane32? x.lPay 3 = some off →
    size ≠ 0 → size % 2 ^ 16 = 0 → va % size = 0 → off % 2 ^ 16 = 0 → off + size ≤ 0x3E0000 →
    (loadBanks s.dev x.cid).length < 64 → (∀ b ∈ loadBanks s.dev x.cid, va + size ≤ b.va ∨ b.va + b.size ≤ va) →
    (∀ b ∈ (s.dev.page x.pg).banks, off + size ≤ b.off ∨ b.off + b.size ≤ off) →
    (let p := s.dev.page x.pg; off + size ≤ p.spillBase ∨ p.spillBase + tableSpan s.dev x.pg p.spillLog ≤ off) →
    Leads (.bind n) s fun t =>
      (t.dev.page x.pg).banks = (s.dev.page x.pg).banks ++ [⟨va, size, off, []⟩] ∧
      (∀ o, o < off ∨ off + size ≤ o → (t.dev.page x.pg).byte o = (s.dev.page x.pg).byte o) ∧
      (∃ a, BankWork x a ∧ (t.dev.page x.pg).accs = (s.dev.page x.pg).accs ++ [a]) ∧ (∀ p, p ≠ x.pg → t.dev.page p = s.dev.page p) ∧
      t.dev.mem = s.dev.mem ∧ t.dev.net = s.dev.net ∧ t.dev.ctxs = s.dev.ctxs ∧ t.sec = s.sec) ∧
  (∀ (n : NodeRec) (s : State) (x : Fire) (va k : Nat) (b : Bank), Ready (.bindUnbind n) n (portsOf (.bindUnbind n) n) [] s.dev x →
    acquireOpen s.dev (s.dev.page x.pg) = false →
    lane64? x.lPay 0 = some va → (x.o.l.map (·.poi)).getD false = false → (s.dev.page x.pg).banks[k]? = some b → b.va = va →
    (∀ j < k, ∀ c, (s.dev.page x.pg).banks[j]? = some c → c.va ≠ va) →
    Leads (.bindUnbind n) s fun t =>
      (t.dev.page x.pg).banks = dropNth k (s.dev.page x.pg).banks ∧
      (∃ a, BankWork x a ∧ a.scope = .sys ∧ (t.dev.page x.pg).accs = (s.dev.page x.pg).accs ++ [a]) ∧
      ((∀ l ∈ b.lines, l.dirty = false) → t.dev.mem = s.dev.mem) ∧ t.dev.net = s.dev.net ∧ t.dev.ctxs = s.dev.ctxs ∧ t.sec = s.sec) ∧
  (∀ (n : NodeRec) (s : State) (x : Fire), Ready (.inval n) n (portsOf (.inval n) n) [] s.dev x → rangeFault x = none →
    acquireOpen s.dev (s.dev.page x.pg) = false →
    Leads (.inval n) s fun t =>
      (∀ b ∈ (t.dev.page x.pg).banks, ∀ l ∈ b.lines, InRange (bankRange x) b l → l.dirty = true ∧ bitAt x.lit 17 = false) ∧
      BanksKept (s.dev.page x.pg) (t.dev.page x.pg) ∧
      (bitAt x.lit 17 = true → t.dev.mem = s.dev.mem) ∧ (∃ a, BankWork x a ∧ a ∈ (t.dev.page x.pg).accs) ∧ t.dev.net = s.dev.net ∧
        t.dev.ctxs = s.dev.ctxs ∧ t.sec = s.sec) ∧
  (∀ (n : NodeRec) (s : State) (x : Fire), Ready (.flush n) n (portsOf (.flush n) n) [] s.dev x → rangeFault x = none →
    acquireOpen s.dev (s.dev.page x.pg) = false →
    Leads (.flush n) s fun t =>
      BanksKept (s.dev.page x.pg) (t.dev.page x.pg) ∧
      (∃ a, BankWork x a ∧ a.scope = scopeOf (x.lit / 2 ^ 8 % 8) ∧ a ∈ (t.dev.page x.pg).accs) ∧ t.dev.net = s.dev.net ∧ t.dev.ctxs = s.dev.ctxs ∧
        t.sec = s.sec) ∧
  (∀ (n : NodeRec) (s : State) (x : Fire) (k g : Nat) (b : Bank) (l : BankLine) (lf : Leaf), Ready (.flush n) n (portsOf (.flush n) n) [] s.dev x →
    rangeFault x = none →
    acquireOpen s.dev (s.dev.page x.pg) = false →
    linesIn (s.dev.page x.pg) (bankRange x) = [(k, l.ix)] → (s.dev.page x.pg).banks[k]? = some b → b.lines.find? (·.ix == l.ix) = some l →
    l.dirty = true → g < 16 → l.written = 2 ^ g → walk s.dev x.cid (b.va + 64 * l.ix) = .ok lf → lf.state ≠ 4 → leafCheck lf .wr = none →
    Leads (.flush n) s fun t =>
      Stored s.dev t.dev (homeKey s.dev (lf.pa (b.va + 64 * l.ix + 4 * g))) ((s.dev.page x.pg).bytes (b.off + 64 * l.ix + 4 * g) 4) ∧
      ∃ i, ((t.dev.page x.pg).banks[k]?.bind fun c => c.lines.find? (·.ix == l.ix)) =
        some { l with dirty := false, written := 0, source := l.source ++ [(g, i)] })

/-- R209, R230 to R232: MRECV takes the oldest message of its mailbox; polling an empty one gives a token with no valid lane. LDNODE reads a node
record and WRNODE writes it; both answer status 0 there, 1 where the load has no such span, 2 for slot 0x3FF. -/
def Sys2Proof.Claims.MailAndNodesComplete : Prop :=
  (∀ (n : NodeRec) (s : State) (x : Fire), Ready (.mrecv n) n (portsOf (.mrecv n) n) [] s.dev x →
    acquireOpen s.dev (s.dev.page x.pg) = false →
    let box := (s.dev.hold x.cid).mail.getD (x.lit % 2 ^ 4) []
    (∀ m rest, box = m :: rest → Leads (.mrecv n) s fun t =>
      t.dev.net = s.dev.net ++ (chosen2 x s.dev .data 0 (m.lanes ++ List.replicate (x.lanes - m.lanes.length) ⟨0, false⟩)).flatMap
        (Sent.flights { x with o := { x.o with poi := m.poi || x.o.poi } } s.dev) ∧
      t.dev.hold x.cid = { s.dev.hold x.cid with mail := (s.dev.hold x.cid).mail.set (x.lit % 2 ^ 4) rest } ∧
      (∀ c, c ≠ x.cid → t.dev.hold c = s.dev.hold c) ∧ SysFrame x.key s.dev t.dev ∧ t.sec = s.sec) ∧
    (box = [] → bitAt x.lit 4 = true → Leads (.mrecv n) s fun t =>
      t.dev.net = s.dev.net ++ (chosen2 x s.dev .data 0 (List.replicate x.lanes ⟨0, false⟩)).flatMap (Sent.flights x s.dev) ∧
      t.dev.holds = s.dev.holds ∧ SysFrame x.key s.dev t.dev ∧ t.sec = s.sec) ∧
    (box = [] → bitAt x.lit 4 = false → exec (.mrecv n) s = .next s)) ∧
  (∀ (n : NodeRec) (s : State) (x : Fire), slotFault x = none →
    let y := { x with o := { x.o with poi := false } }
    let data := fun (a : Option Dest) p => Sent.flights y s.dev ⟨a, .data, 0, .once, emitTag n x.f.tag, seqFor x s.dev, p⟩
    let none_ : Payload := List.replicate x.lanes ⟨0, false⟩
    (Ready (.ldnode n) n (portsOf (.ldnode n) n) [] s.dev x →
      (∀ k slot, nodeSlot x s.dev = .ok (k, slot) → Leads (.ldnode n) s fun t =>
        let w := ((s.dev.span k).nodes.getD slot 0).toNat
        t.dev.net = s.dev.net ++ data x.a (lanesThen x.lanes [w % 2 ^ 32, w / 2 ^ 32 % 2 ^ 32, w / 2 ^ 64]) ++ data x.b (lanesThen x.lanes [0]) ∧
        LocalFrame x.key s.dev t.dev ∧ t.sec = s.sec) ∧
      (∀ e, nodeSlot x s.dev = .error e → (e = 1 ∨ e = 2) ∧ Leads (.ldnode n) s fun t =>
        t.dev.net = s.dev.net ++ data x.a none_ ++ data x.b (lanesThen x.lanes [e]) ∧ LocalFrame x.key s.dev t.dev ∧ t.sec = s.sec)) ∧
    let status := fun st : Nat => Sent.flights x s.dev ⟨x.a, .data, 0, .once, emitTag n x.f.tag, seqFor x s.dev, lanesThen x.lanes [st]⟩
    (Ready (.wrnode n) n (portsOf (.wrnode n) n) [] s.dev x → ∀ v0 v1 v2, lane32? x.rPay 0 = some v0 → lane32? x.rPay 1 = some v1 →
      lane32? x.rPay 2 = some v2 →
      (∀ k slot, nodeSlot x s.dev = .ok (k, slot) → Leads (.wrnode n) s fun t =>
        (t.dev.span k).nodes.getD slot 0 = BitVec.ofNat 96 (v0 + v1 * 2 ^ 32 + v2 * 2 ^ 64) ∧
        (∀ k' j, (k', j) ≠ (k, slot) → (t.dev.span k').nodes.getD j 0 = (s.dev.span k').nodes.getD j 0) ∧
        t.dev.net = s.dev.net ++ status 0 ++ data x.b none_ ∧
        t.dev = { s.dev with spans := t.dev.spans, pages := t.dev.pages, net := t.dev.net, holds := t.dev.holds } ∧
        (∀ p, p ≠ x.pg → t.dev.page p = s.dev.page p) ∧ t.sec = s.sec) ∧
      (∀ e, nodeSlot x s.dev = .error e → (e = 1 ∨ e = 2) ∧ Leads (.wrnode n) s fun t =>
        t.dev.net = s.dev.net ++ status e ++ data x.b none_ ∧ LocalFrame x.key s.dev t.dev ∧ t.sec = s.sec)))

/-- R209, R226 to R228, R230 to R232: banks, mailboxes and node memory. -/
def Obligations.BanksAndMailComplete : Prop := Claims.BanksComplete ∧ Claims.MailAndNodesComplete

/-- R208, R229, R230, R234, R335, R362, R363: an access arrives at its port behind those that came before it; a port accepts the only access that waits
there with its frame not parked, with its place in the order of acceptance and the translation of every element, or with the fault of the first that
fails, which then holds it; a message enters its mailbox, and a prefetch is done at once. -/
def Sys2Proof.Claims.AcceptCompletes : Prop :=
  (∀ (s : State) (pg id : Nat) (a : Access), s.dev.occ = .arrive pg id → (s.dev.page pg).accs.find? (·.id == id) = some a → a.qpos = none →
    (∀ y ∈ (s.dev.page pg).accs, y.id < id → y.span = a.span → y.node = a.node → y.port = a.port → y.stream = a.stream → y.qpos.isSome = true) →
      Leads .accessAccept s fun t =>
      (t.dev.page pg).accs = (s.dev.page pg).accs.map (fun y => if y.id = id then { a with qpos := some s.dev.ids } else y) ∧
      (∀ p, p ≠ pg → t.dev.page p = s.dev.page p) ∧ t.dev = { s.dev with pages := t.dev.pages, ids := s.dev.ids + 1 } ∧ t.sec = s.sec) ∧
  (∀ (s : State) (pg port c : Nat) (evict : Bool) (a : Access), s.dev.occ = .accept pg port evict → s.dev.cidOf pg = some c →
    (s.dev.graph c).ending = none → (s.dev.graph c).st ≠ .stopped →
    (s.dev.page pg).accs.filter (fun y => y.port == port && y.acc.isNone && y.qpos.isSome && !s.dev.parkedFrame y.cid y.tok.tag.frame) = [a] →
      canAccept s.dev pg a = true →
    let a1 := { a with acc := some s.dev.ids, since := s.dev.now.toNat, round := (s.dev.span a.span).rnd.round }
    let d1 := { s.dev with ids := s.dev.ids + 1, opRound := a1.round }
    let d2 := if port < 4 then d1.modPage pg fun p => { p with last := modNth (fun _ => a.stream) port p.last, busy := modNth (fun _ => s.dev.now.toNat + pathCycles a) port p.busy } else d1
    let faults := fun (e : FCode) (va : Nat) (t : State) =>
      (∃ r, (t.dev.graph a.cid).faults = (s.dev.graph a.cid).faults ++ [r] ∧ (t.dev.graph a.cid).posts = (s.dev.graph a.cid).posts ++ [r] ∧
          r.fid = (s.dev.graph a.cid).nextFid ∧ r.code = e ∧ r.addr = va ∧ r.port = (e != .poisonc) ∧ r.frame = some a.tok.tag.frame ∧
            r.hdr = a.tok.header ∧
          r.src = a.port % 4 + a.stream * 4) ∧
      (∀ g ∈ t.dev.net, g ∈ s.dev.net) ∧ (∀ g ∈ s.dev.net, g.cid ≠ a.cid ∨ g.tok.tag.frame ≠ a.tok.tag.frame → g ∈ t.dev.net) ∧ t.sec = s.sec
    ((a.kind = .lds ∨ a.kind = .sts) → Leads .accessAccept s fun t =>
      { a1 with els := a.els.map fun e => { e with pa := some e.va } } ∈ (t.dev.page pg).accs ∧ t.dev.mem = s.dev.mem ∧ t.dev.net = s.dev.net ∧
        t.sec = s.sec) ∧
    (a.kind = .pref → Leads .accessAccept s fun t =>
      { a1 with els := a.els.map fun e => { e with st := .read [] } } ∈ (t.dev.page pg).accs ∧ t.dev.graphs = s.dev.graphs ∧ t.dev.net = s.dev.net ∧
        t.sec = s.sec) ∧
    (a.kind = .msend →
      (sendCause d2 a1 = none → a.boxPkg s.dev = none → Leads .accessAccept s fun t =>
        (t.dev.hold a.boxCid).mail.getD a.box [] = (s.dev.hold a.boxCid).mail.getD a.box [] ++ [⟨a.tok.payload.take 8, a.tok.poi⟩] ∧
        { a1 with fault := none, retry := false, els := a.els.map fun e => { e with st := .wrote [] } } ∈ (t.dev.page pg).accs ∧
        t.dev.mem = s.dev.mem ∧ t.dev.graphs = s.dev.graphs ∧ t.dev.net = s.dev.net ∧ t.sec = s.sec) ∧
      (∀ p, sendCause d2 a1 = none → a.boxPkg s.dev = some p → Leads .accessAccept s fun t =>
        { a1 with fault := none, retry := false, els := a.els.map fun e => { e with pa := some ((p + 1) * 2 ^ 52) } } ∈ (t.dev.page pg).accs ∧
        t.dev.mem = s.dev.mem ∧ t.dev.graphs = s.dev.graphs ∧ t.dev.net = s.dev.net ∧ t.sec = s.sec) ∧
      (∀ e, sendCause d2 a1 = some e → (s.dev.graph a.cid).ending = none → (s.dev.graph a.cid).st ≠ .stopped → Leads .accessAccept s fun t =>
        { a1 with fault := some (s.dev.graph a.cid).nextFid } ∈ (t.dev.page pg).accs ∧ faults e 0 t)) ∧
    ((a.kind = .load ∨ a.kind = .store ∨ a.kind = .atom ∨ a.kind = .cas) →
      (∀ es d3, transAll pg a1 evict d2 = (.ok es, d3) → es.length = a.els.length ∧ Leads .accessAccept s fun t =>
        { a1 with els := es, fault := none, retry := false } ∈ (t.dev.page pg).accs ∧ t.dev.net = s.dev.net ∧ t.dev.graphs = s.dev.graphs ∧
          t.sec = s.sec) ∧
      (∀ e va d3, transAll pg a1 evict d2 = (.error (e, va), d3) → (s.dev.graph a.cid).ending = none → (s.dev.graph a.cid).st ≠ .stopped →
        Leads .accessAccept s fun t =>
        { a1 with els := heldEls d3 pg a1 e, fault := some (s.dev.graph a.cid).nextFid } ∈ (t.dev.page pg).accs ∧ faults e va t)))

namespace Sys2Proof.Claims

/-- An accepted access of a page, and one of its elements that is still to be done at a home in a tier of this package, past any cache bank. -/
structure Pending (d : Dev) (pg id k : Nat) (a : Access) (e : Elem) (home : Nat) : Prop where
  here : (d.page pg).accs.find? (·.id == id) = some a
  accepted : a.acc.isSome = true ∧ a.fault = none
  elem : a.els[k]? = some e ∧ e.st = .todo ∧ e.bank = false ∧ e.pa = some home
  tier : home < 2 ^ 52 ∧ (regionOf d home).isTier = true ∧ wayOpen d home = true
  acquires : acquireHeld d (d.page pg) a = false

/-- The accesses of a page with element `k` of one changed. -/
def withEl (d : Dev) (pg : Nat) (a : Access) (k : Nat) (f : Elem → Elem) : List Access :=
  (d.page pg).accs.map fun y => if y.id = a.id then { a with els := modNth f k a.els } else y

/-- The integer formats of atomics (R216), and their new values (R217). -/
def atomNew (n : Nat) (sg : Bool) (op m r : Nat) : Nat :=
  if op = 0 then (m + r) % 2 ^ n else if op = 1 then m &&& r else if op = 2 then m ||| r else if op = 3 then m ^^^ r
  else if op = 4 then (if rd n sg r < rd n sg m then r else m) else if op = 5 then (if rd n sg m < rd n sg r then r else m) else r

end Sys2Proof.Claims

/-- R302 to R305, R309, R313, R342: an element of a load that may be read, past any cache bank, takes the bytes that its span can see, and an element
read before, of which that would return half of a write, is read again with it; one of a store that may be applied there changes its own bytes at
their home. No other byte of memory changes, but for what R338 and R342 store beside. -/
def Sys2Proof.Claims.LoadsAndStoresPerform : Prop :=
  ∀ (s : State) (pg id k home : Nat) (a : Access) (e : Elem), Pending s.dev pg id k a e home →
    (s.dev.occ = .perf pg id (.serve k) → a.kind = .load → mayRead s.dev (s.dev.page pg) a e = true →
      let r := readEl s.dev.mem (.span a.span) home e.size
      let again := readAt s.dev.mem (.span a.span)
      ((r.2.1 = true ∨ ∃ f ∈ a.els, (again f).gpoi = true) → rollsBack s.dev a.cid = false) → Leads .accessPerform s fun t =>
        (∃ es : List Elem, (t.dev.page pg).accs = (s.dev.page pg).accs.map (fun y => if y.id = a.id then { a with els := es } else y) ∧
          es.length = a.els.length ∧
          es[k]? = some { e with got := natOfBytes r.1, gpoi := r.2.1, st := .read r.2.2 } ∧
          (∀ j f, j ≠ k → a.els[j]? = some f → es[j]? = some f ∨ es[j]? = some (again f)) ∧
          -- no load returns a part of a write beside older bytes of the rest (R313)
          ((∀ f ∈ a.els, mixes s.dev.mem r.2.2 f = false) → ∀ j f, j ≠ k → a.els[j]? = some f → es[j]? = some f)) ∧
        (∀ b, ¬ alsoStored s.dev home 0 b → homeBytes t.dev.mem b 1 = homeBytes s.dev.mem b 1) ∧
        (∀ p, p ≠ pg → t.dev.page p = s.dev.page p) ∧ t.dev.net = s.dev.net ∧ t.dev.ctxs = s.dev.ctxs ∧ t.sec = s.sec) ∧
    (s.dev.occ = .perf pg id (.apply k) → a.kind = .store → mayWrite s.dev (s.dev.page pg) a e = true →
      (∀ f ∈ a.els.take k, sameGranule f e = true → f.st ≠ .todo) → Leads .accessPerform s fun t =>
        Stored s.dev t.dev home (bytesOf e.val e.size) ∧
        (∃ i, (t.dev.page pg).accs = withEl s.dev pg a k (fun y => { y with st := .wrote [i] })) ∧
        (∀ p, p ≠ pg → t.dev.page p = s.dev.page p) ∧ t.dev.net = s.dev.net ∧ t.dev.ctxs = s.dev.ctxs ∧ t.sec = s.sec)

/-- R216 to R219: an atomic operation on integers reads the old value at its home and stores the new one there in one step; a compare-and-swap stores
only where the old value is the one compared with. No other byte changes, but for what R338 and R342 store beside. -/
def Sys2Proof.Claims.AtomicsPerform : Prop :=
  ∀ (s : State) (pg id home : Nat) (a : Access) (e : Elem) (n : Nat) (sg : Bool), Pending s.dev pg id 0 a e home →
    s.dev.occ = .perf pg id (.apply 0) → mayRead s.dev (s.dev.page pg) a e = true → mayWrite s.dev (s.dev.page pg) a e = true →
    bankAt (s.dev.page pg) e.va = none → (homePoi s.dev.mem home e.size = true → rollsBack s.dev a.cid = false) →
    (a.fmt, n, sg) ∈ [(Fmt.i32, 32, true), (.n32, 32, false), (.i64, 64, true), (.n64, 64, false)] → n = 8 * e.size →
    let old := natOfBytes (homeBytes s.dev.mem home e.size)
    let rest := fun t : State => t.dev.net = s.dev.net ∧ t.dev.ctxs = s.dev.ctxs ∧ (∀ p, p ≠ pg → t.dev.page p = s.dev.page p) ∧ t.sec = s.sec
    let gives := fun (t : State) (v : Nat) => ∀ y ∈ (t.dev.page pg).accs, y.id = a.id → (y.els[0]?).map (fun z => (z.got, z.val)) = some (old, v)
    (∀ r, a.kind = .atom → a.opnd = [r] → r < 2 ^ n → a.op ≤ 6 → Leads .accessPerform s fun t =>
      Stored s.dev t.dev home (bytesOf (atomNew n sg a.op old r) e.size) ∧ (∃ v, gives t v) ∧ rest t) ∧
    (∀ cmp new, a.kind = .cas → a.opnd = [cmp, new] → new < 2 ^ n → Leads .accessPerform s fun t =>
      (old = cmp → Stored s.dev t.dev home (bytesOf new e.size)) ∧
      (old ≠ cmp → ∀ b, ¬ alsoStored s.dev home 0 b → homeBytes t.dev.mem b 1 = homeBytes s.dev.mem b 1) ∧
      gives t (if old = cmp then 1 else 0) ∧ rest t)

/-- R216 to R219, R302 to R305, R309, R313, R338, R342: loads, stores and atomic operations at their home. -/
def Obligations.AccessesPerform : Prop := Claims.LoadsAndStoresPerform ∧ Claims.AtomicsPerform

/-- R203, R208, R211, R305: once every element of an access is done, its data token leaves with the values read; once it is performed at its scope, its
completion tokens leave. -/
def Sys2Proof.Claims.AccessTokensLeave : Prop :=
  ∀ (s : State) (pg id : Nat) (a : Access), (s.dev.page pg).accs.find? (·.id == id) = some a → a.fault = none → a.acc.isSome = true →
    let to_ := fun (t : Token) (l : List Dest) => l.map (flightTo s.dev a.span t)
    (s.dev.occ = .perf pg id .data → a.dataSent = false → a.dataTo ≠ [] → (∀ e ∈ a.els, e.st ≠ .todo) → (a.acq = true →
      a.perfAt s.dev a.scope = true) →
      hasSpace s.dev a.span a.dataTo.length = true → Leads .accessPerform s fun t =>
        t.dev.net = s.dev.net ++ to_ { a.emit with payload := dataPayload a a.emit.payload.length, poi := a.els.any (·.gpoi) } a.dataTo ∧
        (∀ y ∈ (t.dev.page pg).accs, y.id = id → y = { a with dataSent := true }) ∧ t.dev.mem = s.dev.mem ∧ t.dev.spans = s.dev.spans ∧
          t.dev.ctxs = s.dev.ctxs ∧ t.sec = s.sec) ∧
    (s.dev.occ = .perf pg id .done → a.doneTo ≠ [] → a.perfAt s.dev a.scope = true → hasSpace s.dev a.span a.doneTo.length = true →
      Leads .accessPerform s fun t =>
        t.dev.net = s.dev.net ++ to_ a.emit a.doneTo ∧ (∀ y ∈ (t.dev.page pg).accs, y.id = id → y = { a with doneTo := [] }) ∧
        t.dev.mem = s.dev.mem ∧ t.dev.spans = s.dev.spans ∧ t.dev.ctxs = s.dev.ctxs ∧ t.sec = s.sec)

/-- R203, R208, R211, R229, R230, R234, R305, R335, R362, R363: an access is accepted by its port, and its tokens leave. -/
def Obligations.AccessesAreAcceptedAndAnswer : Prop := Claims.AcceptCompletes ∧ Claims.AccessTokensLeave

/-- The model's memory keeps its canonical form: listed addresses rise strictly and no zero byte is listed. ACCESS_PERFORM, whatever part of an access
it is, keeps it, and reset has it (log 7). -/
def Obligations.MemoryKeepsItsForm : Prop :=
  State.reset.dev.mem.wf = true ∧ ∀ s t : State, s.dev.mem.wf = true → exec .accessPerform s = .next t → t.dev.mem.wf = true

namespace Sys2Proof.Claims

/-! ### Engines -/

def lanesUp (k : Nat) : NodeRec → List Nat := fun _ => List.range k

/-- Engine nodes with the lanes of L that each needs valid (R243, R272; the lanes of each instruction's operand table). -/
def engineRows : List ((NodeRec → Instr) × (NodeRec → List Nat)) :=
  [(.mtaskRun, lanesUp 8), (.mtaskDef, lanesUp 8), (.mtaskGo, lanesUp 0), (.mzero, lanesUp 0), (.mdrainTok, lanesUp 1), (.mdrainMem, lanesUp 3),
   (.mdrainRoute, lanesUp 2), (.mwload, lanesUp 4), (.mtrayCfg, lanesUp 6), (.mtrayPush, lanesUp 2), (.mtrayFlush, lanesUp 0), (.mwait, lanesUp 0),
   (.mscale, lanesUp 0), (.mconv, lanesUp 2), (.mstat, lanesUp 0), (.exdirBase, fun _ => [0, 2, 3, 4]), (.exdirWrite, fun _ => [0, 1, 4, 5, 6, 7]),
   (.exdirInval, lanesUp 2), (.combCfg, lanesUp 5), (.combSync, lanesUp 0), (.combStat, lanesUp 0), (.pcopy, lanesUp 2), (.pgath, lanesUp 2),
   (.pscat, lanesUp 2), (.pfill, lanesUp 2), (.pdec, lanesUp 2), (.coll, lanesUp 2), (.rlinv, fun n => if bitAt n.lit.toNat 11 then [] else [0, 1]),
   (.bgate, gateLanes), (.bdiag, gateLanes), (.bswap, lanesUp 3), (.bprobNorm, lanesUp 4), (.bprobMarg, lanesUp 6), (.bprobSamp, lanesUp 7),
   (.migr, lanesUp 4), (.mpin, lanesUp 4), (.mpinOff, lanesUp 4), (.mhint, lanesUp 4), (.mrdupMod, lanesUp 4), (.mrdupSys, lanesUp 5), (.route, lanesUp 0)]

/-- What a firing must be sure of, its lanes apart: no poisoned L (ROUTE: R and C), ranges in whole 64 KiB, and ROUTE's hashes (R264, R276, R294). -/
def Sure (i : Instr) (x : Fire) : Prop :=
  match i with
  | .route _ => (x.lit / 2 ^ 15 % 4 < 2 ∨ (laneOf x.rPay 0).ok = true ∧ (laneOf x.rPay 1).ok = true) ∧ (x.o.r.map (·.poi)).getD false = false ∧
      (x.o.c.map (·.poi)).getD false = false
  | .migr _ | .mpin _ | .mpinOff _ | .mhint _ | .mrdupMod _ | .mrdupSys _ =>
      (x.o.l.map (·.poi)).getD false = false ∧ ∃ va n, lane64? x.lPay 0 = some va ∧ lane64? x.lPay 2 = some n ∧ va % 2 ^ 16 = 0 ∧ n % 2 ^ 16 = 0
  | _ => (x.o.l.map (·.poi)).getD false = false

/-- The packet of a firing (R243, R272); of a ROUTE, with the tag and SEQ of its row (R278). -/
def PacketOf (i : Instr) (x : Fire) (d : Dev) (p : Packet) : Prop :=
  p.instr = i ∧ p.cid = x.cid ∧ p.span = x.key ∧ p.node = x.f.node ∧ p.outTag = emitTag x.n x.f.tag ∧
  (let row := match i with | .route _ => x.o.l | _ => none
    p.tag = (row.map (·.tag)).getD x.f.tag ∧ p.seq = (row.map (·.seq)).getD x.o.seq) ∧
  (x.dests ≠ [] ∨ emitsRows i = true → p.outSeq = seqFor x d) ∧ p.l = x.lPay ∧ p.r = x.rPay ∧ p.c = x.cPay ∧ p.a = x.a ∧ p.b = x.b ∧
    p.lanes = x.lanes ∧
  p.round = (d.span x.key).rnd.round ∧ p.gw = x.lit % 2 ^ 5 ∧ p.ix = x.lit / 2 ^ 5 % 2 ^ 6

/-- A task of an island that has been found, and the channel without it. -/
def TaskAt (d : Dev) (isl : Isle) (id : Nat) (t : Task) (p : Packet) : Prop := getTask d isl id = some t ∧ t.kind = .packet ∧ t.pk = some p
def Without (d : Dev) (isl : Isle) (id : Nat) : List Task := (d.chan isl).tasks.filter (·.id != id)

/-- Completion tokens of a packet's firing, to both destinations. -/
def doneFor (p : Packet) : List Result :=
  let tok := fun y : Dest => ({ tag := p.outTag, seq := p.outSeq, ma := .once, poi := false, cls := .data, lvl := 0, payload := List.replicate p.lanes ⟨0, false⟩, dest := y } : Token)
  (p.a.toList ++ p.b.toList).map fun y => ⟨p.id, p.cid, tok y, true, false⟩

/-- A task has completed: it leaves its channel, and these tokens follow the results that wait there. -/
def TaskDone (d d' : Dev) (isl : Isle) (id : Nat) (rs : List Result) : Prop :=
  (d'.chan isl).tasks = Without d isl id ∧ (d'.chan isl).results = (d.chan isl).results ++ rs ∧ (d'.chan isl).packets = (d.chan isl).packets ∧
  (∀ j, j.key ≠ isl.key → d'.chan j = d.chan j)

end Sys2Proof.Claims

/-- R242, R243, R271, R272, R374: an engine node that is ready, names an island of its load and has its lanes sends its operand packet to that island,
in firing order, while a packet slot is free. -/
def Sys2Proof.Claims.EngineNodesComplete : Prop :=
  ∀ e ∈ engineRows, ∀ (n : NodeRec) (s : State) (x : Fire) (isl : Isle), Ready (e.1 n) n (portsOf (e.1 n) n) [] s.dev x →
    islandOf s.dev x.cid (e.1 n) x.lit = some isl → (∀ j ∈ e.2 n, (laneOf x.lPay j).ok = true) → Sure (e.1 n) x →
      (s.dev.chan isl).packets.length < 16 →
    Leads (e.1 n) s fun t =>
      (∃ p, PacketOf (e.1 n) x s.dev p ∧ t.dev.chan isl = { s.dev.chan isl with packets := (s.dev.chan isl).packets ++ [p] }) ∧
      (∀ j, j.key ≠ isl.key → t.dev.chan j = s.dev.chan j) ∧
      t.dev = { s.dev with spans := t.dev.spans, pages := t.dev.pages, ids := t.dev.ids, chans := t.dev.chans } ∧ t.sec = s.sec

/-- R239, R272 to R274: an island takes the packet at the head of its channel (a Hearth tile once it has carried out what it accepted before); a task
whose work is done hands its tokens over once its writes are performed at their scope; a token in a result slot leaves for its span once the earlier
tokens of its task have. -/
def Sys2Proof.Claims.IslandStepsComplete : Prop :=
  (∀ (s : State) (isl : Isle) (p : Packet) (rest : List Packet), s.dev.occ = .isle isl → (s.dev.chan isl).packets = p :: rest →
    (isl.kind = .rack ∨ isl.kind = .leaven ∨ isl.kind = .coll ∨ isl.kind = .hearth ∧ tileAccepts s.dev isl p = true) →
      Leads .islandPacketAccept s fun t =>
      (t.dev.chan isl).packets = rest ∧ (t.dev.chan isl).results = (s.dev.chan isl).results ∧
      (∃ u : Task, u.id = p.id ∧ u.kind = .packet ∧ u.pk = some p ∧ u.phase = 0 ∧ (t.dev.chan isl).tasks = (s.dev.chan isl).tasks ++ [u]) ∧
      (∀ j, j.key ≠ isl.key → t.dev.chan j = s.dev.chan j) ∧ t.dev = { s.dev with chans := t.dev.chans } ∧ t.sec = s.sec) ∧
  (∀ (s : State) (isl : Isle) (id : Nat) (u : Task) (p : Packet), s.dev.occ = .task isl id → TaskAt s.dev isl id u p → u.phase = 2 →
    (∀ w ∈ u.writes, wDone s.dev.mem (.isle isl u.id) u.scope w = true) → (∀ r ∈ u.out, (s.dev.graph r.cid).load.isSome = true) →
      Leads .engineTaskComplete s fun t =>
      TaskDone s.dev t.dev isl id u.out ∧ t.dev.mem = s.dev.mem ∧ t.dev.net = s.dev.net ∧ t.dev.ctxs = s.dev.ctxs ∧ t.dev.graphs = s.dev.graphs ∧
        t.sec = s.sec) ∧
  (∀ (s : State) (isl : Isle) (k : Nat) (r : Result), s.dev.occ = .result isl k → k < 64 → (s.dev.chan isl).results[k]? = some r →
    (s.dev.graph r.cid).load.isSome = true →
    ((s.dev.graph r.cid).st = .resident ∨ (s.dev.graph r.cid).st = .parked) → (s.dev.graph r.cid).ending = none →
    (∀ y ∈ (s.dev.chan isl).results.take k, (r.last = true → y.task ≠ r.task) ∧ (r.ord = true → y.ord = true → y.cid ≠ r.cid)) →
      Leads .islandResultDelivery s fun t =>
      (t.dev.chan isl).results = dropNth k (s.dev.chan isl).results ∧
      (⟨(s.dev.cidOf (pageOfFe r.tok.dest.key)).getD r.tok.tag.cid.toNat, .island, netOf r.tok.cls, arriving r.tok⟩ : Flight) ∈ t.dev.net ∧
      (∀ f ∈ s.dev.net, f ∈ t.dev.net) ∧ t.dev.mem = s.dev.mem ∧ t.dev.ctxs = s.dev.ctxs ∧ t.sec = s.sec)

/-- R239, R242, R243, R271 to R274, R374: the nodes of every engine hand over a packet, and the islands take it, answer and finish. -/
def Obligations.EnginesTakeTheirTasks : Prop := Claims.EngineNodesComplete ∧ Claims.IslandStepsComplete

/-- R249, R251, R255, R260, R262: what a tile does for the packets that run no chain. MTASK with DEF writes the handler slot, MSCALE its scale
extension, MZERO clears both banks, MDRAIN `.route` writes a route entry with status 0, MSTAT emits the eight counters and zeroes them unless PEEK
is set, MWAIT completes once the rows of earlier tasks have left; each then completes. -/
def Sys2Proof.Claims.TileTasksComplete : Prop :=
  ∀ (s : State) (isl : Isle) (id : Nat) (u : Task) (p : Packet) (n : NodeRec), s.dev.occ = .task isl id → TaskAt s.dev isl id u p → u.phase = 0 →
    tasksHeld s.dev p.cid = false →
    (s.dev.graph p.cid).load.isSome = true →
    let tile := s.dev.tile isl.tileNo
    let goes := fun (rs : List Result) (t : State) => TaskDone s.dev t.dev isl id rs ∧ (∀ k, k ≠ isl.tileNo → t.dev.tile k = s.dev.tile k) ∧
      t.dev.mem = s.dev.mem ∧ t.dev.net = s.dev.net ∧ t.dev.ctxs = s.dev.ctxs ∧ t.dev.graphs = s.dev.graphs ∧ t.sec = s.sec
    let lane := fun j : Nat => (lane32? p.l j).getD 0
    let slot := n.lit.toNat / 2 ^ 11 % 2 ^ 4
    let only := fun (t : State) (k : Nat) (h : HSlot) => t.dev.tile isl.tileNo = { tile with slots := tile.slots.set k h }
    (p.instr = .mtaskDef n → Leads .engineTaskComplete s fun t => goes (doneFor p) t ∧
      only t slot { tile.slots.getD slot {} with words := some ((List.range 8).map lane) }) ∧
    (p.instr = .mscale n → Leads .engineTaskComplete s fun t => goes (doneFor p) t ∧
      only t slot { tile.slots.getD slot {} with ext := some (lane 0 + lane 1 * 2 ^ 32, lane 2 + lane 3 * 2 ^ 32) }) ∧
    (p.instr = .mzero n → bitAt n.lit.toNat 16 = true → Leads .engineTaskComplete s fun t => goes (doneFor p) t ∧
      (∀ k, k < 2 → ((t.dev.tile isl.tileNo).bank k).cells = [] ∧ ((t.dev.tile isl.tileNo).bank k).base = none ∧
        ((t.dev.tile isl.tileNo).bank k).rows = [])) ∧
    (∀ w, p.instr = .mdrainRoute n → routeEntry s.dev p.cid (lane 0) = some w → lane 1 = 0 →
      Leads .engineTaskComplete s fun t => goes (p.dataDone .data [0]) t ∧
      t.dev.tile isl.tileNo = { tile with routes := tile.routes.set slot (lane 0, w) }) ∧
    (p.instr = .mstat n → Leads .engineTaskComplete s fun t =>
      (∃ rs, goes rs t ∧ ∀ y, p.a = some y → ∃ r ∈ rs, r.tok.dest = y ∧ r.tok.cls = .stat ∧ ∀ k, k < p.lanes →
        (r.tok.payload[k]?).map (·.nat) = some (((tile.counts[k]?).getD 0) % 2 ^ 32)) ∧
      t.dev.tile isl.tileNo = if bitAt n.lit.toNat 15 then tile else { tile with counts := List.replicate 8 0 }) ∧
    (p.instr = .mwait n → tasksBefore s.dev isl id = [] → (s.dev.chan isl).results = [] → Leads .engineTaskComplete s fun t => goes (doneFor p) t ∧
      t.dev.tiles = s.dev.tiles)

namespace Sys2Proof.Claims

/-- What is true of a chain that may go on by its next task (R249, R415): the task, the slot that runs next and the tasks left of sixteen. A chain that
has begun goes on only while its load is not pre-empted by force. -/
structure ChainAt (s : State) (isl : Isle) (id : Nat) (u : Task) (first slot left : Nat) : Prop where
  occ : s.dev.occ = .task isl id
  here : getTask s.dev isl id = some u ∧ isl.kind = .hearth ∧ u.phase = 0
  next : u.num.length ≠ 3 ∧ chainAt u first = (slot, left) ∧ 0 < left
  goes : u.num = [] ∨ (let g := s.dev.graph (chainCid s.dev isl u); g.draining = false ∨ g.forced = false)
  free : tasksHeld s.dev (chainCid s.dev isl u) = false

/-- What the chain's next task does (R246 to R250): its reads and its cells, in the round of the firing that began it; the slot that runs after it, or
the fault. -/
def chainRan (d : Dev) (isl : Isle) (u : Task) (slot : Nat) (round : BitVec 16) : Dev × Except Fail (Option Nat) :=
  let d := { d with opRound := round }
  let c := taskChain d isl u
  runSlot c slot (taskSawAll d isl c.cid 4 (slotReads c (c.tile d) slot)).2

/-- A later task of the chain reads the fired side (R254). -/
def readLater (t : Tile) (left : Nat) (next : Option Nat) : Bool := match next with | some s => readsSide t (left - 1) s | none => false

/-- The drain of a slot goes on from row `r` (R249, R265, R434): it stops at the first row for whose header there is no room, to go on there; with the
last row the chain goes on by the next slot, or its task is gone. -/
structure DrainsOn (c : Chain) (u : Task) (slot left r : Nat) (d d' : Dev) : Prop where
  tiles : d'.tiles = (slotDrain c slot r d).2.tiles
  stops : ∀ i, (slotDrain c slot r d).1 = some i → ∃ v ∈ (d'.chan c.isl).tasks, v.id = u.id ∧ v.phase = 0 ∧ v.num = [slot, left, i]
  goes : (slotDrain c slot r d).1 = none → ∀ k, slotNext (c.tile d') slot = some k → ∃ v ∈ (d'.chan c.isl).tasks, v.id = u.id ∧ v.phase = 0 ∧
    v.num = [k, left - 1]
  ends : (slotDrain c slot r d).1 = none → slotNext (c.tile d') slot = none → (d'.chan c.isl).tasks.map (·.id) = (Without d c.isl u.id).map (·.id)

end Sys2Proof.Claims

/-- R249, R250, R252 to R254, R415, R434, R435: a chain goes on by one task at a time, and each task by its drain, which waits where the header store
is full. The chain of a fired side frees the side once none of its remaining tasks reads it, and at a fault; the chain of a packet completes with
the packet's tokens after those of its rows. A full or due side begins to fire and the other becomes the filling one; one whose timer has expired
fires, or stays due where the tile cannot fire yet. -/
def Sys2Proof.Claims.TraysAndChainsComplete : Prop :=
  (∀ (s : State) (isl : Isle) (id k sd slot left : Nat) (fl : Bool) (row : Option RowTag) (u : Task) (y : Tray), u.kind = .fire k sd fl row →
    u.pk = none →
    (s.dev.tile isl.tileNo).trays[k]? = some y → ChainAt s isl id u y.tslot slot left →
    let freed := fun t : State => (((t.dev.tile isl.tileNo).trays[k]?).map fun z => z.side sd) = some {}
    let c := taskChain s.dev isl u
    let ran := chainRan s.dev isl u slot (s.dev.graph ((s.dev.tile isl.tileNo).cid.getD 0)).islRound
    (∀ d e, ran = (d, .error e) → e.code ≠ .linkf → e.code ≠ .timeout → Leads .hearthChainComplete s fun t =>
      freed t ∧ (t.dev.chan isl).tasks = Without s.dev isl id ∧ t.sec = s.sec) ∧
    (∀ d next, ran = (d, .ok next) → Leads .hearthChainComplete s fun t =>
      DrainsOn c u slot left 0 (if readLater (d.tile isl.tileNo) left next then tock d else freeFired c (tock d)) t.dev ∧
      (readLater (d.tile isl.tileNo) left next = false → freed t) ∧
      (readLater (d.tile isl.tileNo) left next = true → (t.dev.tile isl.tileNo).trays = (d.tile isl.tileNo).trays) ∧ t.sec = s.sec)) ∧
  (∀ (s : State) (isl : Isle) (id slot left : Nat) (u : Task) (p : Packet) (n : NodeRec), TaskAt s.dev isl id u p → p.instr = .mtaskGo n →
    ChainAt s isl id u p.slot slot left → (s.dev.graph p.cid).load.isSome = true →
    ∀ d next, chainRan s.dev isl u slot p.round = (d, .ok next) → Leads .hearthChainComplete s fun t =>
      DrainsOn (taskChain s.dev isl u) u slot left 0 (tock d) t.dev ∧ (∃ l, (t.dev.chan isl).results = (s.dev.chan isl).results ++ l) ∧
      ((∀ v ∈ (t.dev.chan isl).tasks, v.id ≠ id) → ∃ l, (t.dev.chan isl).results = (s.dev.chan isl).results ++ l ++ doneFor p) ∧
      t.dev.graphs = s.dev.graphs ∧ t.dev.ctxs = s.dev.ctxs ∧ t.sec = s.sec) ∧
  -- a drain that waited for room goes on at its row
  (∀ (s : State) (isl : Isle) (id slot left r : Nat) (u : Task), s.dev.occ = .task isl id → getTask s.dev isl id = some u → isl.kind = .hearth →
    u.phase = 0 →
    u.num = [slot, left, r] → ((∃ k sd fl row, u.kind = .fire k sd fl row ∧ u.pk = none) ∨ ∃ p n, u.kind = .packet ∧ u.pk = some p ∧
      p.instr = .mtaskGo n) →
    tasksHeld s.dev (chainCid s.dev isl u) = false → Leads .hearthChainComplete s fun t =>
      DrainsOn (taskChain s.dev isl u) u slot left r s.dev t.dev ∧ t.sec = s.sec) ∧
  (∀ (s : State) (n k : Nat) (y : Tray), s.dev.occ = .tray n k → (s.dev.tile n).trays[k]? = some y → y.fill < 2 → y.thr ≠ 0 →
    let begun := fun (t : State) (thr : Bool) =>
      (∃ z, (t.dev.tile n).trays[k]? = some z ∧ z.fill = 1 - y.fill ∧ z.side y.fill = { y.filling with left := none, due := false, firing := true } ∧
        z.filling = y.other) ∧
      (∃ u : Task, u.kind = .fire k y.fill (!thr) y.filling.rows[0]? ∧ u.pk = none ∧ u.phase = 0 ∧
        (t.dev.chan (tileIsle n)).tasks = (s.dev.chan (tileIsle n)).tasks ++ [u]) ∧
      t.dev.mem = s.dev.mem ∧ t.sec = s.sec
    (y.thr ≤ y.filling.rows.length ∨ y.filling.due = true → mayFire s.dev n y = true →
      Leads .trayFire s fun t => begun t (decide (y.thr ≤ y.filling.rows.length))) ∧
    (y.filling.rows.length < y.thr → y.filling.left = some 0 → y.filling.due = true → mayFire s.dev n y = true →
      Leads .trayTimerExpiry s fun t => begun t false) ∧
    (y.filling.rows.length < y.thr → y.filling.left = some 0 → y.filling.due = true → mayFire s.dev n y = false → Leads .trayTimerExpiry s fun t =>
      (∃ z, (t.dev.tile n).trays[k]? = some z ∧ z.filling = { y.filling with left := none } ∧ z.other = y.other) ∧ t.dev.chans = s.dev.chans ∧
        t.sec = s.sec))

/-- R249 to R255, R260, R262, R415, R434, R435: tasks of a Hearth tile, and its trays and chains. -/
def Obligations.HearthTasksComplete : Prop := Claims.TileTasksComplete ∧ Claims.TraysAndChainsComplete

namespace Sys2Proof.Claims

/-! ### Expert messages and collectives -/

/-- An expert message that its receiver may take next: the first on its path, of kind `kind`, with no reserved bit set (R427, R429). -/
structure Arriving (d : Dev) (k kind : Nat) (i : Isle) (src : MEnd) (m : EMsg) : Prop where
  occ : d.occ = .emsg k
  here : d.emsgs[k]? = some ⟨src, .isle i, m⟩
  first : firstOnPath d k ⟨src, .isle i, m⟩ = true
  kind_ : m.mk_ = kind
  good : m.bad = false

/-- A rank's part in a live manifest that a contribution finds. -/
def PartOf (r : Rack) (m : EMsg) (y : Manifest) (k : KState) : Prop :=
  (r.mans.find? fun x => x.tag == m.tag && x.seq == m.seq) = some y ∧ y.ks[m.kidx]? = some k ∧ k.done = false

/-- The Rack after a manifest's part has become `k'`. -/
def PartIs (r' : Rack) (m : EMsg) (k' : KState) : Prop := ∃ y ∈ r'.mans, y.tag = m.tag ∧ y.seq = m.seq ∧ y.ks[m.kidx]? = some k'

/-- The next part of a manifest that is to be folded is not complete (R438): every step leaves a manifest so. -/
def NextOpen (y : Manifest) (j : Nat) : Prop := ∀ f, y.ks[j]? = some f → f.done = false

/-- The Rack after a part has become `k'`: it is kept so, or, where it is complete and every lower part is folded, its contributions are folded in
slice order into the accumulator, those of the spill region as memory has them, and its slots are free (R282, R438, R439). -/
def PartBecomes (d d' : Dev) (i : Isle) (m : EMsg) (y : Manifest) (k' : KState) : Prop :=
  ((y.folded ≠ m.kidx ∨ k'.done = false) → PartIs (d'.rack i.unitNo) m k') ∧
  (y.folded = m.kidx → k'.done = true → NextOpen y (y.folded + 1) →
    let r := d.rack i.unitNo
    let back := readSpilled d i r k'
    PartIs (d'.rack i.unitNo) m { k' with got := [], spilled := [], poi := k'.poi || back.2 } ∧
    ∃ z ∈ (d'.rack i.unitNo).mans, z.tag = m.tag ∧ z.seq = m.seq ∧ z.folded = y.folded + 1 ∧
      z.acc = (foldKidx (rackFtz d r) ((r.cfg.map (·.n)).getD 0) y.acc k' (k'.got ++ back.1)).1)

end Sys2Proof.Claims

/-- R425, R430, R432, R438 to R440: a Sifter caches the directory entry that a waiting ROUTE needs; credits return to the path of their tray, where a
dispatch counts them from the next cycle on, and make the overflow queues due; a Rack takes a manifest within its window, and contributions and
nulls to the part they name, which is folded once it is complete and all before it are; a row whose parts are all done commits and X advances. -/
def Sys2Proof.Claims.RackAndSifterStepsComplete : Prop :=
  (∀ (s : State) (isl : Isle) (id x kk : Nat) (u : Task) (p : Packet) (n : NodeRec) (sc : List XR × Counts) (xs : List Nat), s.dev.occ = .task isl id → TaskAt s.dev isl id u p → u.phase = 0 →
    p.instr = .route n → routeScores s.dev isl p = .ok sc → routeExperts p sc.1 = (kk, xs) →
    (neededRanks s.dev p.cid isl.unitNo kk xs).find? (fun x => (cachedDir s.dev p.cid isl.unitNo x).isNone) = some x → Leads .directoryFill s fun t =>
      (t.dev.sifter isl.unitNo).dir.find? x = some (BitVec.ofNat 128 (readDir s.dev p.cid x)) ∧
      ((s.dev.sifter isl.unitNo).dir.length < 4096 → ∀ y, y ≠ x → (t.dev.sifter isl.unitNo).dir.find? y = (s.dev.sifter isl.unitNo).dir.find? y) ∧
        t.dev = { s.dev with sifters := t.dev.sifters } ∧ t.sec = s.sec) ∧
  (∀ (s : State) (k : Nat) (i : Isle) (src : MEnd) (m : EMsg) (n : Credit), Arriving s.dev k 4 i src m → (s.dev.sifter i.unitNo).cid.isSome = true →
    (s.dev.sifter i.unitNo).credits.find? m.path = some n → Leads .creditArrival s fun t =>
      let before := (s.dev.sifter i.unitNo).settle s.dev.now.toNat
      t.dev.sifter i.unitNo = { before with late := before.late ++ [(m.path, m.crn, s.dev.now.toNat)], scanAt := 0 } ∧
        t.dev.emsgs = dropNth k s.dev.emsgs ∧
      t.dev = { s.dev with sifters := t.dev.sifters, emsgs := t.dev.emsgs } ∧ t.sec = s.sec) ∧
  (∀ (s : State) (k : Nat) (i isl : Isle) (src : MEnd) (m : EMsg) (u : Task) (p : Packet), Arriving s.dev k 3 i src m →
    let r := s.dev.rack i.unitNo
    seqPrecedes m.seq r.x = false → (∀ y ∈ r.mans, y.seq ≠ m.seq) → seqAfter r.x m.seq ≤ 4095 → (r.spv = true ∨
      (r.mans.map fun y => 16 * y.kk).sum + 16 * m.kk ≤ 32768) →
    manifestTask s.dev m = some (isl, u, p) → Leads .manifestArrival s fun t =>
      (t.dev.rack i.unitNo).mans = r.mans ++ [{ tag := m.tag, seq := m.seq, kk := m.kk, ks := List.replicate m.kk {} }] ∧
        { u with phase := 3 } ∈ (t.dev.chan isl).tasks ∧
      t.dev.emsgs = dropNth k s.dev.emsgs ∧ t.dev = { s.dev with racks := t.dev.racks, emsgs := t.dev.emsgs, chans := t.dev.chans } ∧ t.sec = s.sec) ∧
  (∀ (s : State) (k : Nat) (i : Isle) (src : MEnd) (m : EMsg) (y : Manifest) (q : KState), rackSaved s.dev m = false →
    (s.dev.rack i.unitNo).cid = some m.tag.cid.toNat →
    PartOf (s.dev.rack i.unitNo) m y q → NextOpen y y.folded →
    let r := s.dev.rack i.unitNo
    let d := { s.dev with emsgs := dropNth k s.dev.emsgs }
    let same := fun (d : Dev) (t : State) => t.dev = { d with racks := t.dev.racks } ∧ t.sec = s.sec
    let kept : KState := { q with g := some (q.g.getD m.g), n := q.n + 1, poi := q.poi || m.poi, wgt := if q.n = 0 then m.wgt else q.wgt }
    (Arriving s.dev k 1 i src m → (∀ g ∈ q.got ++ q.spilled, g.1 ≠ m.sl) →
      ((r.spv = false ∨ r.stored < 32768) → Leads .contribArrival s fun t =>
        PartBecomes d t.dev i m y { kept with got := q.got ++ [(m.sl, m)] } ∧ same d t) ∧
      (r.spv = true → 32768 ≤ r.stored → Leads .contribArrival s fun t =>
        let w := writeRun d (.isle i 0) (spillKey d r m) ((List.range 128).flatMap fun j => bytesOf (laneOf m.lanes j).nat 4)
        PartBecomes w t.dev i m y { kept with spilled := q.spilled ++ [(m.sl, { m with lanes := m.lanes.map fun l => ⟨0, l.ok⟩ })] } ∧ same w t)) ∧
    (Arriving s.dev k 1 i src m → (∃ g ∈ q.got ++ q.spilled, g.1 = m.sl) →
      Leads .contribArrival s fun t => PartIs (t.dev.rack i.unitNo) m { q with bad := true } ∧ same d t) ∧
    (Arriving s.dev k 2 i src m → Leads .nullArrival s fun t => PartBecomes d t.dev i m y { q with isNull := true } ∧ same d t)) ∧
  (∀ (s : State) (i : Isle) (c : Nat) (g : RackCfg) (m : Manifest), s.dev.occ = .isle i → i.kind = .rack → (s.dev.rack i.unitNo).cid = some c →
    (s.dev.rack i.unitNo).cfg = some g →
    ((s.dev.rack i.unitNo).mans.find? fun y => y.seq == (s.dev.rack i.unitNo).x) = some m → m.ks.all KState.done = true → outRows s.dev i < 4 →
      (s.dev.graph c).ending = none →
    Leads .rackRowCommit s fun t =>
      (t.dev.rack i.unitNo).x = (s.dev.rack i.unitNo).x + 1 ∧
        (t.dev.rack i.unitNo).mans = (s.dev.rack i.unitNo).mans.filter (fun y => !(y.seq == m.seq)) ∧
      (∀ dst, routeDest s.dev c (g.out % 2 ^ 32) = some dst → ∃ r ∈ (t.dev.chan i).results, r.tok.dest = dst ∧ r.tok.tag = m.tag ∧ r.tok.seq = m.seq ∧
        r.tok.payload = (rowPayload (loadFtz s.dev c) g (lanesOf (g.out / 2 ^ 32)) m).1) ∧
      (∀ r ∈ (s.dev.chan i).results, r ∈ (t.dev.chan i).results) ∧ t.dev.mem = s.dev.mem ∧ t.dev.net = s.dev.net ∧ t.dev.ctxs = s.dev.ctxs ∧
        t.sec = s.sec)

/-- R430 to R432, R437: a row enters the inbound buffer of a tile that takes it, and from there its tray; where the tile does not take it, a credit
goes back to its Sifter and a null to its Rack. A scan of the overflow queues sends the head of each that has credit and advances its CONS, and is
due again after 1024 cycles. -/
def Sys2Proof.Claims.DispatchAndQueuesComplete : Prop :=
  (∀ (s : State) (k : Nat) (i : Isle) (src : MEnd) (m : EMsg), Arriving s.dev k 0 i src m → i.ix < 48 → i.kind = .hearth →
    let tile := s.dev.tile i.tileNo
    (∀ c y, tile.cid = some c → tile.trays[m.tray]? = some y → y.thr ≠ 0 → m.jobid = (s.dev.ctx c).jobid → tile.inbound.length < 64 →
      Leads .dispatchArrival s fun t =>
      t.dev.tile i.tileNo = { tile with inbound := tile.inbound ++ [m] } ∧ t.dev.emsgs = dropNth k s.dev.emsgs ∧
      t.dev = { s.dev with tiles := t.dev.tiles, emsgs := t.dev.emsgs } ∧ t.sec = s.sec) ∧
    (tile.cid = none → (∀ c, tile.held = some c → ((s.dev.graph c).save.any fun v => v.isles.tiles.any fun e => e.2.2.1 == i.tileNo) = false) →
      Leads .dispatchArrival s fun t =>
      t.dev.emsgs = dropNth k s.dev.emsgs ++ [⟨.isle i, m.sifterEnd s.dev, creditFor m 1⟩, ⟨.isle i, m.rackEnd s.dev, nullFor m⟩] ∧
      t.dev = { s.dev with emsgs := t.dev.emsgs, sb := t.dev.sb, tick := t.dev.tick } ∧ t.sec = s.sec) ∧
    (∀ c v, tile.cid = none → tile.held = some c → (s.dev.graph c).save = some v → (v.isles.tiles.any fun e => e.2.2.1 == i.tileNo) = true →
      Leads .dispatchArrival s fun t =>
      (∃ w, (t.dev.graph c).save = some w ∧ w = { v with isles := { v.isles with tiles := w.isles.tiles } } ∧
        w.isles.tiles = v.isles.tiles.map fun e =>
        if e.2.2.1 == i.tileNo then (e.1, e.2.1, e.2.2.1, { e.2.2.2 with inbound := e.2.2.2.inbound ++ [m] }) else e) ∧
      t.dev.emsgs = dropNth k s.dev.emsgs ∧ t.dev = { s.dev with graphs := t.dev.graphs, emsgs := t.dev.emsgs } ∧ t.sec = s.sec)) ∧
  (∀ (s : State) (i : Isle) (c : Nat) (m : EMsg) (rest : List EMsg) (y : Tray), s.dev.occ = .isle i → i.kind = .hearth →
    (∀ u ∈ (s.dev.chan i).tasks, 2 ≤ u.phase) →
    (s.dev.tile i.tileNo).inbound = m :: rest → (s.dev.tile i.tileNo).cid = some c → (s.dev.tile i.tileNo).trays[m.tray]? = some y → y.thr ≠ 0 →
      m.jobid = (s.dev.ctx c).jobid →
    y.hasRoom = true → Leads .dispatchArrival s fun t =>
      (t.dev.tile i.tileNo).inbound = rest ∧
      (∃ z, (t.dev.tile i.tileNo).trays[m.tray]? = some z ∧ z.fill = y.fill ∧
        z.filling.rows = y.filling.rows ++ [⟨m.tag, m.seq, m.poi, some m.hdr, true⟩]) ∧
      t.dev = { s.dev with tiles := t.dev.tiles } ∧ t.sec = s.sec) ∧
  (∀ (s : State) (i : Isle) (c : Nat), s.dev.occ = .isle i → i.kind = .sifter → (s.dev.sifter i.unitNo).cid = some c →
    (s.dev.sifter i.unitNo).scanAt ≤ s.dev.now.toNat →
    Leads .overflowQueueScan s fun t =>
      (t.dev.sifter i.unitNo).scanAt = s.dev.now.toNat + 1024 ∧ (∃ l, t.dev.emsgs = s.dev.emsgs ++ l ∧ ∀ f ∈ l, f.src = .isle i) ∧
      t.dev.net = s.dev.net ∧ t.dev.ctxs = s.dev.ctxs ∧ t.sec = s.sec) ∧
  (∀ (d : Dev) (i : Isle) (c q n : Nat) (v : OvQueue) (tab : Tab Credit), ovQueue d c i.unitNo q = some v → v.used ≠ 0 →
    let m := emsgOfImage (bytesBy d.mem (fun w => w.at .mod) (OvQueue.entry d v v.cons) 576)
    creditEntry d [] (d.sifter i.unitNo).credits m.path = some (n, tab) → n ≠ 0 → (∀ k, k < 8 → movedTo d (v.at_ + 24 + k) = none) →
    (scanQueue c i d q).emsgs = d.emsgs ++ [⟨.isle i, m.tileEnd d, m⟩] ∧ homeBytes (scanQueue c i d q).mem (v.at_ + 24) 8 = bytesOf (v.cons + 1) 8)

/-- R425, R430 to R432, R437 to R440: Racks, Sifters, dispatch and overflow queues. -/
def Obligations.ExpertRoutingCompletes : Prop := Claims.RackAndSifterStepsComplete ∧ Claims.DispatchAndQueuesComplete

/-- R289, R291, R292, R448, R463: a member of a collective whose destination is written sends its SRCFREE token once the writes that its reads returned
are performed at its scope, LOCALDONE once its own writes are too, each once, and ALLDONE after both; one that has joined and whose peers do not by
the deadline raises TIMEOUT. The first Braid task of its key starts, and each patch of a PDEC leaves once its own writes are performed. -/
def Obligations.CollectiveStepsComplete : Prop :=
  ∀ (s : State) (isl : Isle) (id : Nat) (u : Task), s.dev.occ = .task isl id → getTask s.dev isl id = some u →
    let putIn := fun (t : State) (v : Task) => (t.dev.chan isl).tasks = (s.dev.chan isl).tasks.map (fun y => if y.id = id then v else y)
    let others := fun t : State => (∀ j, j.key ≠ isl.key → t.dev.chan j = s.dev.chan j) ∧ t.dev.mem = s.dev.mem ∧ t.dev.net = s.dev.net ∧
      t.dev.ctxs = s.dev.ctxs ∧ t.sec = s.sec
    let results := fun (t : State) (rs : List Result) => (t.dev.chan isl).results = (s.dev.chan isl).results ++ rs
    let token := fun (last : Bool) (p : Packet) (n : Nat) (y : Dest) => (⟨p.id, p.cid, { tag := p.outTag, seq := p.outSeq, ma := .once, poi := false, cls := .data, lvl := 0, payload := List.replicate n ⟨0, false⟩, dest := y }, last, false⟩ : Result)
    let written := fun ws : List Nat => ∀ w ∈ ws, wDone s.dev.mem (.isle isl id) u.scope w = true
    (∀ c p, u.coll = some c → u.pk = some p → u.phase = 3 → (s.dev.graph p.cid).load.isSome = true →
      (∀ ws, 1 ∉ u.num → u.pend = (p.a.toList.map (token false p p.lanes)).map (fun r => (ws, r)) → written ws → Leads .collSrcfree s fun t =>
        putIn t { u with num := u.num ++ [1], pend := [] } ∧ results t (p.a.toList.map (token false p p.lanes)) ∧ others t) ∧
      (2 ∉ u.num → written u.writes → Leads .collLocaldone s fun t =>
        putIn t { u with num := u.num ++ [2] } ∧ results t (p.b.toList.map (token false p p.lanes)) ∧ others t) ∧
      (1 ∈ u.num → 2 ∈ u.num → 3 ∈ u.num → ∀ y, routeDest s.dev p.cid c.adest = some y → rteKind c.adest ≠ 0 → Leads .collAlldone s fun t =>
        (t.dev.chan isl).tasks = Without s.dev isl id ∧ results t [token true p (lanesOf (s.dev.span y.key).wid) y] ∧ others t)) ∧
    (∀ c p, u.coll = some c → u.pk = some p → u.phase = 1 → (s.dev.graph p.cid).ending = none → (s.dev.graph p.cid).st ≠ .stopped →
      let cj := s.dev.sb.ctl.toNat / 2 ^ 32 % 2 ^ 16
      cj ≠ 0 → c.joined + cj * 2 ^ 20 ≤ s.dev.now.toNat → allJoined s.dev c = false → Leads .collJoinTimeout s fun t =>
        (t.dev.chan isl).tasks = Without s.dev isl id ∧
        (∃ r, (t.dev.graph p.cid).faults = (s.dev.graph p.cid).faults ++ [r] ∧ (t.dev.graph p.cid).posts = (s.dev.graph p.cid).posts ++ [r] ∧
          r.code = .timeout ∧ r.eng = true ∧
          r.port = false ∧ r.frame = some p.tag.frame ∧ r.hdr = p.hdr ∧ r.loc = p.loc ∧ r.fid = (s.dev.graph p.cid).nextFid) ∧
          (∀ j, j.key ≠ isl.key → t.dev.chan j = s.dev.chan j) ∧
          ((s.dev.graph p.cid).load ≠ none ∨ (s.dev.graph p.cid).save = none → t.dev.mem = s.dev.mem) ∧
          t.dev.net = s.dev.net.filter (fun f => (s.dev.graph p.cid).load.isNone || (inQueue p.cid p.tag.frame f).isNone) ∧ t.dev.ctxs = s.dev.ctxs ∧
            t.sec = s.sec) ∧
    (∀ p, u.pk = some p → isl.kind = .braid → u.phase = 0 → (∃ e ∈ s.dev.braid.lock, e.2.2.head? = some id) → tasksHeld s.dev p.cid = false →
      Leads .braidTaskStart s fun t =>
      putIn t { u with phase := 4 } ∧ t.dev.braid.lock = s.dev.braid.lock ∧ (∃ l, t.dev.braid.assist = s.dev.braid.assist ++ l ∧ ∀ e ∈ l, e.1 = id) ∧
        others t) ∧
    (∀ ws r rest, u.pend = (ws, r) :: rest → u.coll = none → written ws → (s.dev.graph r.cid).load.isSome = true → Leads .pdecPatchEmit s fun t =>
      putIn t { u with pend := rest } ∧ results t [r] ∧ others t)

namespace Sys2Proof.Claims

/-! ### Migration, tiering, residency -/

/-- The migration that a step is about. -/
def MigrAt (d : Dev) (m : Migr) : Prop := d.occ = .migr m.id ∧ d.leaven.migrs.find? (·.id == m.id) = some m

/-- The migrations with one changed. -/
def withMigr (d : Dev) (m : Migr) : List Migr := d.leaven.migrs.map fun y => if y.id = m.id then m else y

/-- A shoot-down of a leaf for a migration has begun after those under way (R334). -/
def ShotDown (d d' : Dev) (m : Migr) (va size : Nat) : Prop :=
  ∃ x : Shoot, d'.leaven.shoots = d.leaven.shoots ++ [x] ∧ x.cid = m.cid ∧ x.va = va ∧ x.size = some size ∧ x.migr = some m.id ∧ x.cmd = false

/-- The entry of a leaf now holds `v`, which no copy under way moves. -/
def EntryIs (d d' : Dev) (l : Leaf) (v : Nat) : Prop := homeBytes d'.mem (homeKey d l.pte) 8 = bytesOf v 8

/-- Registers, contexts, tokens in transit and islands are as they were. -/
def Beside (s t : State) : Prop :=
  t.dev.ctxs = s.dev.ctxs ∧ t.dev.graphs = s.dev.graphs ∧ t.dev.net = s.dev.net ∧ t.dev.spans = s.dev.spans ∧ t.dev.tiles = s.dev.tiles ∧
    t.sec = s.sec

end Sys2Proof.Claims

/-- R334, R336, R337: a migration enters with its leaf in state MOVE and shot down, and ends where its leaf is RDUP and would leave the package (R348);
its lines are copied in ascending order; once all are copied it switches: the PTE names the destination and is shot down; then it is done, and
LVSTAT counts it. A shoot-down ends when what it waits for is performed at MOD. -/
def Sys2Proof.Claims.MigrationsComplete : Prop :=
  (∀ (s : State) (x : Shoot), s.dev.occ = .shoot x.id → s.dev.leaven.shoots.find? (·.id == x.id) = some x → shootDone s.dev x = true →
    Leads .shootdownComplete s fun t =>
    t.dev = { s.dev with leaven := { s.dev.leaven with shoots := s.dev.leaven.shoots.filter (·.id != x.id) } } ∧ t.sec = s.sec) ∧
  (∀ (s : State) (m : Migr) (l : Leaf), MigrAt s.dev m → m.phase = .waiting → nextMigr s.dev = some m → walk s.dev m.cid m.va = .ok l →
    l.size = m.size → l.va = m.va → movable s.dev l = true →
    pinnedLeaf s.dev m.cid l = false → leafBusy s.dev m.cid l = false → (s.dev.leaven.migrs.filter started).length < maxMove s.dev →
      hasRoom s.dev 1 = true →
    s.dev.mem.wf = true → movedTo s.dev (homeKey s.dev l.pte) = none →
    (l.state = 2 → isLocal s.dev m.dst = false → Leads .migrationEnter s fun t =>
      t.dev.leaven.migrs = s.dev.leaven.migrs.filter (·.id != m.id) ∧ t.dev.mem = s.dev.mem ∧ Beside s t) ∧
    ((l.state ≠ 2 ∨ isLocal s.dev m.dst = true) → Leads .migrationEnter s fun t =>
      t.dev.leaven.migrs = withMigr s.dev { m with phase := .enter, src := l.frame, prev := l.state } ∧ ShotDown s.dev t.dev m l.va l.size ∧
      EntryIs s.dev t.dev l (setFld (readPte s.dev l.pte) 5 3 1) ∧ Beside s t)) ∧
  (∀ (s : State) (m : Migr), MigrAt s.dev m → m.phase = .copy → m.copied * 64 < m.size →
    let src := homeKey s.dev m.src + 64 * m.copied
    let dst := homeKey s.dev m.dst + 64 * m.copied
    (wayOpen s.dev (homeKey s.dev m.dst) = true → s.dev.mem.wf = true → Leads .migrationCopyLine s fun t =>
      t.dev.leaven.migrs = withMigr s.dev { m with copied := m.copied + 1 } ∧ homeBytes t.dev.mem dst 64 = homeBytes s.dev.mem src 64 ∧
      (∀ a, (a < dst ∨ dst + 64 ≤ a) → homeBytes t.dev.mem a 1 = homeBytes s.dev.mem a 1) ∧ t.dev.pages = s.dev.pages ∧ Beside s t) ∧
    (wayOpen s.dev (homeKey s.dev m.dst) = false → Leads .migrationCopyLine s fun t =>
      t.dev.leaven.migrs = withMigr s.dev { m with phase := .abort 1 } ∧ t.dev.mem = s.dev.mem ∧ t.dev.pages = s.dev.pages ∧ Beside s t)) ∧
  (∀ (s : State) (m : Migr), MigrAt s.dev m →
    (m.phase = .copy → m.size ≤ m.copied * 64 → Leads .migrationSwitch s fun t =>
      t.dev.leaven.migrs = withMigr s.dev { m with phase := .switch } ∧ t.dev.mem = s.dev.mem ∧ t.dev.pages = s.dev.pages ∧ Beside s t) ∧
    (∀ l, m.phase = .switch → m.quiet s.dev = true → walk s.dev m.cid m.va = .ok l → l.size = m.size → s.dev.mem.wf = true →
      movedTo s.dev (homeKey s.dev l.pte) = none → Leads .migrationSwitch s fun t =>
      t.dev.leaven.migrs = withMigr s.dev { m with phase := .finish } ∧ ShotDown s.dev t.dev m m.va m.size ∧
      EntryIs s.dev t.dev l (setFld (setFld (setFld (readPte s.dev l.pte) 61 16 (m.dst / 2 ^ 16)) 7 6 m.tier) 5 3 m.prev) ∧ Beside s t) ∧
    (m.phase = .finish → shooting s.dev m.id = false → Leads .migrationSwitch s fun t =>
      t.dev.leaven.migrs = s.dev.leaven.migrs.filter (·.id != m.id) ∧
      t.dev.leaven.regs.stat.toNat % 2 ^ 32 = min (2 ^ 32 - 1) (s.dev.leaven.regs.stat.toNat % 2 ^ 32 + 1) ∧
      t.dev.leaven.regs.stat.toNat / 2 ^ 32 = s.dev.leaven.regs.stat.toNat / 2 ^ 32 ∧ Beside s t))

/-- R336, R339, R345: a migration whose switch has not begun by LVCTL.DEADL aborts with cause 2; an aborted one restores its leaf's state and shoots it
down, then gives its frame back, tells the MIGR that asked the cause, and is counted. -/
def Sys2Proof.Claims.MigrationAbortsComplete : Prop :=
  ∀ (s : State) (m : Migr), MigrAt s.dev m →
    (let n := s.dev.leaven.regs.ctl.toNat / 2 ^ 16 % 2 ^ 16
     m.phase = .copy → n ≠ 0 → m.started + n * 2 ^ 12 ≤ s.dev.now.toNat → Leads .migrationDeadline s fun t =>
      t.dev = { s.dev with leaven := { s.dev.leaven with migrs := withMigr s.dev { m with phase := .abort 2 } } } ∧ t.sec = s.sec) ∧
    (∀ c l, m.phase = .abort c → shooting s.dev m.id = false → m.quiet s.dev = true → walk s.dev m.cid m.va = .ok l → l.size = m.size →
      s.dev.mem.wf = true →
      movedTo s.dev (homeKey s.dev l.pte) = none → Leads .migrationAbort s fun t =>
        t.dev.leaven.migrs = withMigr s.dev { m with phase := .restore c } ∧ ShotDown s.dev t.dev m m.va m.size ∧
          EntryIs s.dev t.dev l (setFld (readPte s.dev l.pte) 5 3 m.prev) ∧ Beside s t) ∧
    (∀ c, m.phase = .restore c → shooting s.dev m.id = false → Leads .migrationAbort s fun t =>
      t.dev.leaven.migrs = s.dev.leaven.migrs.filter (·.id != m.id) ∧
      t.dev.leaven.regs.stat.toNat / 2 ^ 32 = min (2 ^ 32 - 1) (s.dev.leaven.regs.stat.toNat / 2 ^ 32 + 1) ∧
      t.dev.leaven.regs.stat.toNat % 2 ^ 32 = s.dev.leaven.regs.stat.toNat % 2 ^ 32 ∧
      (isLocal s.dev m.dst = true → (m.tier * 2 + (if m.size = 2 ^ 21 then 1 else 0), m.dst % 2 ^ 52) ∈ t.dev.leaven.spare) ∧
      (∀ i id u, m.task = some (i, id) → c ≠ 3 → getTask s.dev i id = some u → getTask t.dev i id = some { u with num := u.num ++ [c, m.va] }) ∧
      t.dev.mem = s.dev.mem ∧ Beside s t)

/-- R334, R336, R337, R339, R345, R348: migrations and their aborts. -/
def Obligations.MigrationsRun : Prop := Claims.MigrationsComplete ∧ Claims.MigrationAbortsComplete

/-- R342, R343, R350, R441: at the end of a period the hotness of an owner's frames, and the popularity counts of a resident context, are halved; a
leaf that qualifies asks for its migration; a popular expert's tiles begin to fill, and when they are done its RES is 2; an unpopular one's RES
falls. -/
def Obligations.TieringAndResidencyComplete : Prop :=
  (∀ (s : State) (k : Nat), s.dev.occ = .frame k → k ≤ 64 → bitAt s.dev.leaven.regs.ftb.toNat 0 = true →
    s.dev.leaven.decays.getD k 0 + periodOf s.dev k ≤ s.dev.now.toNat →
    s.dev.mem.wf = true → s.dev.leaven.migrs = [] → Leads .hotDecay s fun t =>
      (∀ e ∈ liveEntries s.dev, readEntry t.dev e = if ownedBy (readEntry s.dev e) k then setFld (readEntry s.dev e) 7 0 (readEntry s.dev e % 2 ^ 8 / 2) else readEntry s.dev e) ∧
      t.dev.leaven.decays.getD k 0 = s.dev.now.toNat ∧ Beside s t) ∧
  (∀ (s : State) (c : Nat), s.dev.occ = .ctx c → (s.dev.graph c).load.isSome = true →
    s.dev.leaven.popDecays.getD c 0 + periodOf s.dev (c % 64) ≤ s.dev.now.toNat → Leads .popularityDecay s fun t =>
      t.dev.sifters = s.dev.sifters.map (fun e => if e.2.cid == some c then (e.1, { e.2 with pop := e.2.pop.map fun x => (x.1, x.2 / 2) }) else e) ∧
      t.dev.leaven.popDecays.getD c 0 = s.dev.now.toNat ∧ t.dev.mem = s.dev.mem ∧ Beside s t) ∧
  (∀ (s : State) (c va tier a : Nat) (l : Leaf) (d1 : Dev), s.dev.occ = .leaf c va tier → walk s.dev c va = .ok l →
    s.dev.leaven.regs.ctl.getLsbD 0 = true →
    s.dev.leaven.regs.ftb.getLsbD 0 = true → bitAt s.dev.leaven.regs.auto.toNat c = true →
    (∀ e ∈ frameEntries s.dev l.frame l.size, bitAt (readEntry s.dev e) 15 = true ∧ readEntry s.dev e / 2 ^ 8 % 2 ^ 6 = c) →
      qualifies s.dev l tier = true → pteTier l.bits ≠ tier →
    movable s.dev l = true → l.state = 0 → pinnedLeaf s.dev c l = false → leafBusy s.dev c l = false → leafAsked s.dev c l = false →
    popFrame (purged [poolOf tier l.size] (noteRings s.dev)) (poolOf tier l.size) = some (a, d1) → Leads .tieringEvaluation s fun t =>
      (∃ m : Migr, t.dev.leaven.migrs = s.dev.leaven.migrs ++ [m] ∧ m.cid = c ∧ m.va = l.va ∧ m.size = l.size ∧ m.tier = tier ∧ m.src = l.frame ∧
        m.dst = a ∧ m.phase = .waiting ∧ m.task = none) ∧
      Beside s t) ∧
  (∀ (s : State) (c x : Nat) (r : ResEnt), s.dev.occ = .expert c x → resEntry s.dev c x = some r → s.dev.leaven.regs.ctl.getLsbD 1 = true →
    boundSifters s.dev c ≠ [] → x < (s.dev.hold c).dirCount →
    dirOk (readDir s.dev c x) = true → (∀ a ∈ s.dev.leaven.acts, a.1 = c → a.2.1 ≠ x) →
    let e := readDir s.dev c x
    let p := popularity s.dev c x
    let hot := s.dev.leaven.regs.thr.toNat / 2 ^ 48 % 2 ^ 16
    (hot ≤ p → dirRes e ≠ 2 → r.nows = false → tilesBound s.dev c e = true → tilesFree s.dev e = true → Leads .expertResidencyAction s fun t =>
      t.dev.leaven.acts = s.dev.leaven.acts ++ [(c, x, 2)] ∧ t.dev.mem = s.dev.mem ∧
      (∀ k < dirG e, ∃ u ∈ (t.dev.chan ⟨.hearth, dirDie e, dirTile0 e + k⟩).tasks, u.kind = .fill (r.wva + k * r.slb) (dirWoff e) r.slb x) ∧
        Beside s t) ∧
    (dirRes e = 2 → p < hot / 2 → movedTo s.dev (dirKey s.dev c x) = none → Leads .expertResidencyAction s fun t =>
      homeBytes t.dev.mem (dirKey s.dev c x) 16 = bytesOf (setFld e 4 3 (resWithout s.dev c x e)) 16 ∧ t.dev.leaven.acts = s.dev.leaven.acts ∧
        Beside s t)) ∧
  (∀ (s : State) (c x : Nat), s.dev.occ = .expert c x → (c, x, 2) ∈ s.dev.leaven.acts → filling s.dev c x = false →
    movedTo s.dev (dirKey s.dev c x) = none → Leads .weightStoreFillComplete s fun t =>
    homeBytes t.dev.mem (dirKey s.dev c x) 16 = bytesOf (setFld (readDir s.dev c x) 4 3 2) 16 ∧ (c, x, 2) ∉ t.dev.leaven.acts ∧ Beside s t)

namespace Sys2Proof.Claims

/-! ### Errors, sensors, cycles -/

/-- The package but for what the dies hold. -/
def DiesOnly (s t : State) : Prop := t.dev = { s.dev with dies := t.dev.dies } ∧ t.sec = s.sec

/-- A die has received one more event. -/
def Raised (d d' : Dev) (die : Nat) (e : Event) : Prop := (d'.die die).events = (d.die die).events ++ [e]

/-- The throttle and trip limits of a sensor in its unit: 1/8 °C for a die's junction (0) and the HBM stacks (1, 2), watts for the module's input power
(R486). -/
def limitsOf (d : Dev) (die k : Nat) : Option (Int × Option Int) :=
  if k = 0 ∧ die < 5 then some (8 * 100, some (8 * 115)) else if (k = 1 ∨ k = 2) ∧ die < 4 then some (8 * 90, some (8 * 100))
  else if k = 1 ∧ die = 4 then some ((d.die 4).plim, none) else none

/-- An event that the arbiter of its die may take next: no other event of its source, the repair unit included, came before, and none was taken in this
cycle (R477). -/
structure Due (d : Dev) (die k : Nat) (e : Event) : Prop where
  occ : d.occ = .die die k
  die_ : die < 5
  dies : d.dies.length = 5
  here : (d.die die).events[k]? = some e
  once : (d.die die).at_ ≠ some d.now.toNat
  first : ∀ f ∈ (d.die die).events.take k, f.src = e.src → f.idx = e.idx → f.unit ≠ e.unit

/-- What holds of the two parts of an error's step: the event on its die, and the place. -/
def Struck (s : State) (at_ : ErrAt) (unc : Bool) (unit die src idx addr u : Nat) (P : Dev → Prop) : Prop :=
  s.dev.occ = .err at_ unc unit → s.dev.dies.length = 5 → Leads .uncorrectableError s fun t =>
    Raised s.dev t.dev die ⟨if unc then 2 else 1, src, idx, addr, u⟩ ∧ (∀ k, k ≠ die → t.dev.die k = s.dev.die k) ∧ P t.dev ∧
    t.dev.net = s.dev.net ∧ t.dev.ctxs = s.dev.ctxs ∧ t.dev.graphs = s.dev.graphs ∧ t.sec = s.sec

end Sys2Proof.Claims

/-- R477, R480, R481: the arbiter gives an event the die's next number, logs it where fewer than 16 stand in the log and marks an overflow otherwise,
and counts it; where ERRWIN.COUNT events of its source lie within the window, the source is taken offline under an event of KIND 5. The copy to a
spare ends. -/
def Sys2Proof.Claims.ErrorLogsComplete : Prop :=
  (∀ (s : State) (die k : Nat) (e : Event), Due s.dev die k e → Leads .eventArbitration s fun t =>
    let x := s.dev.die die
    let y := t.dev.die die
    y.num = (x.num + 1) % 2 ^ 32 ∧ y.at_ = some s.dev.now.toNat ∧
    (x.log.length < 16 → y.log = x.log ++ [⟨e, s.dev.now.toNat, x.num⟩] ∧ y.ovf = x.ovf) ∧
    (16 ≤ x.log.length → y.log = x.log ∧ y.ovf = true) ∧
    y.corr = (if e.kind = 1 then min (x.corr + 1) (2 ^ 32 - 1) else x.corr) ∧
      y.uncorr = (if e.kind = 2 then min (x.uncorr + 1) (2 ^ 31 - 1) else x.uncorr) ∧
    (e.kind ≠ 1 → e.kind ≠ 2 → y.events = dropNth k x.events ∧ DiesOnly s t) ∧
    (e.kind = 1 ∨ e.kind = 2 → e.src ≠ 7 → isLasting { x with tracked := trackEvent x.tracked e s.dev.now.toNat } e = true →
      (∃ ev, y.events = dropNth k x.events ++ [ev] ∧ ev.kind = 5 ∧ ev.src = e.src ∧ ev.idx = e.idx ∧ ev.unit = e.unit) ∧
      (e.src = 5 → die * 48 + e.idx ∈ t.dev.offTiles) ∧ (e.src = 6 → (t.dev.page (die * 80 + e.idx)).offline = true)) ∧
    (e.kind = 1 ∨ e.kind = 2 → isLasting { x with tracked := trackEvent x.tracked e s.dev.now.toNat } e = false → y.events = dropNth k x.events ∧
      DiesOnly s t) ∧
    t.dev.mem = s.dev.mem ∧ t.dev.ctxs = s.dev.ctxs ∧ t.dev.graphs = s.dev.graphs ∧ t.dev.net = s.dev.net ∧ t.sec = s.sec) ∧
  (∀ (s : State) (die k : Nat), s.dev.occ = .die die k → die < s.dev.dies.length → Leads .spareRemapComplete s fun t =>
    t.dev.die die = { s.dev.die die with remaps := dropNth k (s.dev.die die).remaps } ∧ (∀ j, j ≠ die → t.dev.die j = s.dev.die j) ∧ DiesOnly s t)

/-- R351, R478: an uncorrectable error poisons the place that it meets and leaves its bytes, and an event of KIND 2 follows on the die that found it; a
corrected one is an event of KIND 1 alone. -/
def Sys2Proof.Claims.ErrorsStrike : Prop :=
  (∀ (s : State) (pg off u : Nat), pg < 320 → off < 2 ^ 22 →
    Struck s (.store pg off) true u (pg / 80) 3 (pg % 80) 0 (off / 64) (fun d => off / 4 * 4 ∈ (d.page pg).poison ∧
      (d.page pg).store = (s.dev.page pg).store ∧ d.mem = s.dev.mem) ∧
    Struck s (.store pg off) false u (pg / 80) 3 (pg % 80) 0 (off / 64) (fun d => d = { s.dev with dies := d.dies })) ∧
  (∀ (s : State) (tile off u : Nat), tile < 192 → off < 2 ^ 24 →
    Struck s (.weight tile off) true u (tile / 48) 4 (tile % 48) 0 (off / 64) (fun d =>
      off / 64 * 64 ∈ (d.tile tile).wsPoison ∧ (d.tile tile).ws = (s.dev.tile tile).ws ∧ d.mem = s.dev.mem ∧ d.pages = s.dev.pages) ∧
    Struck s (.weight tile off) false u (tile / 48) 4 (tile % 48) 0 (off / 64) (fun d => d = { s.dev with dies := d.dies }) ∧
    ∀ b, Struck s (.array tile) b u (tile / 48) 5 (tile % 48) 0 u (fun d => d = { s.dev with dies := d.dies })) ∧
  (∀ (s : State) (pg u : Nat), pg < 320 →
    Struck s (.node pg) true u (pg / 80) 6 (pg % 80) 0 u (fun d =>
      let stored := (indexed (s.dev.page pg).toks).filter (fun e => e.2.place == .store)
      (∀ k e, stored[u % stored.length]? = some (k, e) → rollsBack s.dev ((s.dev.cidOf pg).getD 64) = false →
        (d.page pg).toks[k]? = some { e with tok := { e.tok with poi := true } }) ∧ d.mem = s.dev.mem) ∧
    Struck s (.node pg) false u (pg / 80) 6 (pg % 80) 0 u (fun d => d = { s.dev with dies := d.dies })) ∧
  (∀ (s : State) (die src ix u : Nat) (b : Bool), die < 5 → 7 ≤ src → src ≤ 12 → ix < 1024 →
    Struck s (.other die src ix) b u die src ix 0 u (fun d => d = { s.dev with dies := d.dies })) ∧
  (∀ (s : State) (pa k u : Nat) (b : Bool), pa < 2 ^ 52 → regionOf s.dev pa = .cxl k →
    Struck s (.tier pa) b u 4 2 k pa (pa / 8192) (fun d => (∀ a, homeBytes d.mem a 1 = homeBytes s.dev.mem a 1) ∧ (b = true →
      homePoi d.mem (pa / 4 * 4) 4 = true))) ∧
  (∀ (s : State) (pa u : Nat) (b : Bool), pa < 2 ^ 52 → regionOf s.dev pa = .hbm ∨ regionOf s.dev pa = .lpddr → s.dev.occ = .err (.tier pa) b u →
    s.dev.dies.length = 5 →
    Leads .uncorrectableError s fun t =>
      (∃ die ix, Raised s.dev t.dev die ⟨if b then 2 else 1, if regionOf s.dev pa = .hbm then 0 else 1, ix, pa, pa / 8192⟩) ∧
      (∀ a, homeBytes t.dev.mem a 1 = homeBytes s.dev.mem a 1) ∧ (b = true → homePoi t.dev.mem (pa / 4 * 4) 4 = true) ∧ t.dev.pages = s.dev.pages ∧
        t.sec = s.sec)

/-- R351, R477, R478, R480, R481: errors strike, are arbitrated, logged and counted. -/
def Obligations.ErrorsComplete : Prop := Claims.ErrorsStrike ∧ Claims.ErrorLogsComplete

/-- R353: where a read of a context under rollback containment has met an error, firing stops; once no engine task of it is left, the log is restored,
newest line first, and the last complete cut takes the place of what was in flight. -/
def Obligations.RollbackCompletes : Prop :=
  ∀ (s : State) (c : Nat) (u : Undo) (cut : Cut) (l : Load), s.dev.occ = .ctx c → (s.dev.hold c).undo = some u → (s.dev.graph c).load = some l →
    u.hit = true →
    (s.dev.graph c).ending = none → (s.dev.graph c).st = .resident → u.cut = some cut → rollsBack s.dev c = true →
    ((s.dev.graph c).draining = false → Leads .rollback s fun t =>
      t.dev.graph c = { s.dev.graph c with draining := true, forced := false } ∧ (∀ k, k ≠ c → t.dev.graph k = s.dev.graph k) ∧
      t.dev = { s.dev with graphs := t.dev.graphs } ∧ t.sec = s.sec) ∧
    ((s.dev.graph c).draining = true → engineBusy s.dev c = false → l.die < s.dev.dies.length → Leads .rollback s fun t =>
      (t.dev.graph c).draining = false ∧ (t.dev.graph c).pool = cut.pool ∧ (t.dev.hold c).waits = cut.waits ∧
      (∃ u', (t.dev.hold c).undo = some u' ∧ u'.tries = u.tries + 1 ∧ u'.hit = false ∧ u'.lines = []) ∧
      (∀ f ∈ s.dev.net, f.cid ≠ c → f ∈ t.dev.net) ∧ (∀ f ∈ t.dev.net, (f ∈ s.dev.net ∧ f.cid ≠ c) ∨ f.src = .loader ∨ f.cid = c) ∧
        Raised s.dev t.dev l.die ⟨8, 10, c, 0, 0⟩ ∧
      t.dev.mem = (u.lines.reverse.foldl restoreLine s.dev).mem ∧ t.dev.ctxs = s.dev.ctxs ∧ t.sec = s.sec)

/-- R486, R487: a sensor at its limit throttles and below it ends the throttling, each change an event; at its trip limit every kind of work stops: of
all steps only COLD_RESET, the arbiters and the clock still act. -/
def Sys2Proof.Claims.SensorsComplete : Prop :=
  (∀ (s : State) (die k : Nat) (v lim : Int) (trip : Option Int), s.dev.occ = .sensor die k v → limitsOf s.dev die k = some (lim, trip) →
    s.dev.dies.length = 5 →
    k < (s.dev.die die).sensors.length → k < (s.dev.die die).throttle.length →
    let Set (t : State) (hot : Bool) : Prop :=
      (t.dev.die die).sensors[k]? = some v ∧ (t.dev.die die).throttle[k]? = some hot ∧
      (t.dev.die die).events = (s.dev.die die).events ++ (if (s.dev.die die).throttle[k]? = some hot then [] else [⟨10, 12, k, 0, 0⟩]) ∧
      (∀ j, j ≠ die → t.dev.die j = s.dev.die j) ∧ DiesOnly s t
    (lim ≤ v → (∀ x, trip = some x → v < x) → Leads .throttleStart s fun t => Set t true) ∧
    (v < lim → Leads .throttleEnd s fun t => Set t false) ∧
    (∀ x, trip = some x → x ≤ v → s.dev.tripped = false → Leads .thermalTrip s fun t =>
      t.dev.tripped = true ∧ (t.dev.die die).sensors[k]? = some v ∧ Raised s.dev t.dev die ⟨10, 12, k, 0, 0⟩ ∧
      t.dev = { s.dev with dies := t.dev.dies, tripped := true } ∧ t.sec = s.sec)) ∧
  (∀ (s : State) (f : Focus) (l : List Move), s.dev.tripped = true → s.agenda = .fire f :: l → Machine.step s = .next { s with agenda := l }) ∧
  (∀ (s : State) (i : Instr) (o : Occ) (l : List Move), s.dev.tripped = true → s.agenda = .step i o :: l → i ≠ .coldReset → i ≠ .eventArbitration →
    i ≠ .clockCycle →
    Machine.step s = .next { s with agenda := l })

/-- R32, R394, R395: the end of a cycle advances MCYC; each charged page of a resident load counts one page-cycle, DEFICIT falls by their number, and a
decision is due where it falls to 0. -/
def Sys2Proof.Claims.CycleCompletes : Prop :=
  (∀ s : State, Leads .clockCycle s fun t => t.dev.now = s.dev.now + 1 ∧ t.sec = s.sec) ∧
  (∀ s : State, (∀ e ∈ s.dev.graphs, e.2.load = none) → Gives .clockCycle s { s.dev with now := s.dev.now + 1 }) ∧
  (∀ (s : State) (c : Nat) (g : Graph) (l : Load), s.dev.graphs = [(c, g)] → g.load = some l → l.pages.Nodup → g.spent < 2 ^ 63 →
    l.pages.length < 2 ^ 62 → Leads .clockCycle s fun t =>
    let n := (l.pages.filter (isCharged s.dev c)).length
    (∀ p ∈ l.pages, (t.dev.page p).cycles = (s.dev.page p).cycles + (if isCharged s.dev c p then 1 else 0) ∧ (t.dev.page p).charged = false) ∧
    i64 (t.dev.ctx c).deficit = max (-(2 ^ 63)) (i64 (s.dev.ctx c).deficit - n) ∧ (t.dev.graph c).spent = g.spent + n ∧
    (0 < i64 (s.dev.ctx c).deficit → i64 (s.dev.ctx c).deficit ≤ n → t.dev.loader.decide = true) ∧ (∀ k, k ≠ c → t.dev.ctx k = s.dev.ctx k) ∧
      t.dev.mem = s.dev.mem)

/-- R32, R394, R395, R486, R487: the end of a cycle, and the sensors. -/
def Obligations.CyclesAndSensorsComplete : Prop := Claims.SensorsComplete ∧ Claims.CycleCompletes

namespace Sys2Proof.Claims

/-! ### The loader -/

/-- A context with a resident load that has not ended. -/
structure Holding (d : Dev) (c : Nat) (l : Load) : Prop where
  occ : d.occ = .ctx c
  load : (d.graph c).load = some l
  st : (d.graph c).st = .resident ∨ (d.graph c).st = .parked
  ending : (d.graph c).ending = none

/-- Only the graph of a context has changed, and it is as given. -/
def GraphOnly (s t : State) (c : Nat) (g : Graph) : Prop := t.dev = s.dev.modGraph c (fun _ => g) ∧ t.sec = s.sec

/-- The pages of a load are free again, its spans gone. -/
def Released (d d' : Dev) (c : Nat) (l : Load) : Prop :=
  (d'.graph c).load = none ∧ (∀ p ∈ l.pages, d'.page p = idlePage (d.page p)) ∧ ∀ k, l.holds (pageOfFe k) = true → d'.spans.find? k = none

/-- A queued load that a decision may place. -/
structure Waiting (d : Dev) (c : Nat) (l : ImgLoad) : Prop where
  queue : d.loader.runq.flatten = [c]
  st : (d.graph c).st = .queued
  load : (d.graph c).load = none
  checked : (d.graph c).checked = true
  ending : (d.graph c).ending = none
  flags : (d.graph c).yielded = false ∧ (d.graph c).newPrio = false
  image : (d.graph c).image[(d.graph c).ix]? = some l
  regs : regsOk d c [l] = true
  free : heldByBlocked d c = false

/-- A decision is due: on its event, or 2^16 cycles after the last (R395). -/
def DecisionDue (d : Dev) : Prop := d.occ = .none ∧ (d.loader.decide = true ∨ d.loader.last + 2 ^ 16 ≤ d.now.toNat)

/-- An end of a kind that is swept, and for which nothing is left to wait, no dirty line of a bank among it (R193, R226). -/
structure Drained (d : Dev) (c : Nat) (k : EndKind) (status : Word) : Prop where
  occ : d.occ = .ctx c
  ending : (d.graph c).ending = some ⟨k, status, true⟩
  done : drainedSys d c = true
  posted : (d.graph c).posts = []
  clean : ∀ l, (d.graph c).load = some l → ∀ p ∈ l.pages, ∀ b ∈ (d.page p).banks, ∀ n ∈ b.lines, n.dirty = false

/-- What a completion leaves (R190, R193, R392): G has advanced, status and cause stand in the graph and in the context's four windows, the context is
in no run queue, and its load, its tokens and its waits are gone; a vector is sent, or pends where it is masked. -/
structure Completed (d d' : Dev) (c : Nat) (status : Word) (cause : BitVec 3) (st : CtxSt) : Prop where
  st_ : (d'.graph c).st = st
  gen : (d'.graph c).gen = (d.graph c).gen + 1
  status_ : (d'.graph c).status = status
  cause_ : (d'.graph c).cause = cause
  ending : (d'.graph c).ending = none
  load : (d'.graph c).load = none
  windows : ∀ k < 4, (d'.host.wins.getD (4 * c + k) {}).cstatus = status ∧ (d'.host.wins.getD (4 * c + k) {}).ccause = cause ∧
    (d'.host.wins.getD (4 * c + k) {}).cgen = (d.graph c).gen + 1
  queue : ∀ q ∈ d'.loader.runq, c ∉ q
  decide_ : d'.loader.decide = true
  tokens : ∀ f ∈ d'.net, f ∈ d.net ∧ f.cid ≠ c
  waits : (d'.hold c).waits = [] ∧ (d'.hold c).toks = []
  released : ∀ l, (d.graph c).load = some l → Released d d' c l
  vector : (d.graph c).lrec.irq = true →
    if bitAt (d.host.msixTab.getD (16 * (d.graph c).lrec.vec + 12) 0).toNat 0 then (d.graph c).lrec.vec ∈ d'.host.msixPend
    else d'.host.msix = d.host.msix ++ [(d.graph c).lrec.vec]
  silent : (d.graph c).lrec.nva = 0 → d'.mem = d.mem
  others : ∀ k, k ≠ c → d'.graph k = d.graph k

end Sys2Proof.Claims

/-- R191, R352, R384, R412: the image of a queued context is checked once the shoot-down of its launch is complete: it is accepted, or the graph ends
with cause 3 and a LOADER record. -/
def Sys2Proof.Claims.ImageCheckCompletes : Prop :=
  ∀ (s : State) (c : Nat), s.dev.occ = .ctx c → (s.dev.graph c).st = .queued → (s.dev.graph c).checked = false → (s.dev.graph c).ending = none →
    (∀ x ∈ s.dev.leaven.shoots, x.cid = c → x.size ≠ none) → (s.dev.graph c).msfull = none →
    (∀ loads segs, checkImage s.dev c = .ok (loads, segs) → Leads .loaderImageCheck s fun t =>
      t.dev.graph c = { s.dev.graph c with checked := true, image := loads, ix := 0 } ∧ (∀ k, k ≠ c → t.dev.graph k = s.dev.graph k) ∧
        t.dev.loader.decide = true ∧
      (segs = [] → HeatOnly s.dev t.dev) ∧ ((s.dev.ctx c).contain = false → (t.dev.hold c).undo = none) ∧ t.dev.ctxs = s.dev.ctxs ∧
        t.dev.net = s.dev.net ∧ t.sec = s.sec) ∧
    (∀ r, checkImage s.dev c = .error r → Leads .loaderImageCheck s fun t =>
      (t.dev.graph c).ending = some ⟨.reject, BitVec.ofNat 32 r.cause, false⟩ ∧ (t.dev.graph c).checked = false ∧ (∀ q ∈ t.dev.loader.runq, c ∉ q) ∧
      (4 ≤ (s.dev.ctx c).faultq.toNat % 16 → ∃ f, (t.dev.graph c).posts = (s.dev.graph c).posts ++ [f] ∧ f.code = .loader ∧ f.sub = r.cause ∧
        f.ctx = true ∧ f.frame = none ∧
        -- causes 0x02 to 0x08 name a node in LOC, the others a table entry in AUX (R407)
        f.loc = (if 2 ≤ r.cause ∧ r.cause ≤ 8 then r.loc else 0) ∧ f.aux = (if 2 ≤ r.cause ∧ r.cause ≤ 8 then 0 else r.aux)) ∧
      (∀ k, k ≠ c → t.dev.graph k = s.dev.graph k) ∧ HeatOnly s.dev t.dev ∧ t.dev.ctxs = s.dev.ctxs ∧ t.dev.net = s.dev.net ∧ t.sec = s.sec)

/-- R383, R387, R393, R395 to R399: a decision gives a queued load the place that it finds, or asks for a compaction of a die where its pages suffice
but lie apart, or asks victims to stop; a deficit used up and a load queued for 2^24 cycles are noted. -/
def Sys2Proof.Claims.DecisionsComplete : Prop :=
  (∀ s : State, DecisionDue s.dev → Leads .loaderDecision s fun t => t.dev.loader.decide = false ∧ t.dev.loader.last = s.dev.now.toNat ∧
    t.dev.mem = s.dev.mem ∧ t.sec = s.sec) ∧
  (∀ (s : State) (c die row col : Nat) (l : ImgLoad) (gws : List Gateway), DecisionDue s.dev → Waiting s.dev c l →
    findPlace s.dev c l (diesFor s.dev c) [] [] = some (die, row, col, gws) → Leads .loaderDecision s fun t =>
      (t.dev.graph c).load = some ⟨(s.dev.graph c).ix, die, row, col, l.w, l.h, gws, s.dev.now.toNat⟩ ∧ (t.dev.graph c).st = .queued ∧
      (∀ x < l.w, ∀ y < l.h, (t.dev.page (die * 80 + (row + y) * 10 + col + x)).cid = some (BitVec.ofNat 6 c)) ∧ t.dev.mem = s.dev.mem ∧
        t.dev.net = s.dev.net ∧ t.sec = s.sec) ∧
  (∀ (s : State) (c : Nat) (l : ImgLoad), DecisionDue s.dev → Waiting s.dev c l → findPlace s.dev c l (diesFor s.dev c) [] [] = none →
    s.dev.loader.compact = none →
    (∀ die, (s.dev.graph c).compacted ≠ some s.dev.loader.placed → compactDie s.dev c l = some die → Leads .loaderDecision s fun t =>
      t.dev.loader.compact = some { die := die, cid := c, todo := placedOn s.dev die, asked := s.dev.now.toNat } ∧ (t.dev.graph c).load = none ∧
        t.dev.pages = s.dev.pages ∧ t.dev.mem = s.dev.mem ∧ t.sec = s.sec) ∧
    (∀ vs, compactDie s.dev c l = none → (s.dev.graph c).blocked = false → (∀ r ∈ s.dev.loader.reserve, r.cid ≠ c) →
      chooseVictims s.dev c l = some vs → Leads .loaderDecision s fun t =>
      t.dev.loader.asks = s.dev.loader.asks ++ vs ∧ (t.dev.graph c).load = none ∧ t.dev.pages = s.dev.pages ∧ t.dev.mem = s.dev.mem ∧
        t.sec = s.sec)) ∧
  (∀ (s : State) (c : Nat), s.dev.occ = .ctx c → (s.dev.graph c).st = .resident ∨ (s.dev.graph c).st = .parked → i64 (s.dev.ctx c).deficit ≤ 0 →
    Gives .deficitExhausted s { s.dev with loader := { s.dev.loader with decide := true } }) ∧
  (∀ (s : State) (c : Nat), s.dev.occ = .ctx c → (s.dev.graph c).st = .queued → (s.dev.graph c).load = none → (s.dev.graph c).checked = true →
    (s.dev.graph c).queuedAt + 2 ^ 24 ≤ s.dev.now.toNat → Leads .loadBlocked s fun t => GraphOnly s t c { s.dev.graph c with blocked := true })

/-- R191, R352, R383, R384, R387, R393, R395 to R399, R412: images are checked, and decisions are made. -/
def Obligations.LoaderDecides : Prop := Claims.ImageCheckCompletes ∧ Claims.DecisionsComplete

/-- R361, R383, R384, R422: PLACEMENT of the load to which a decision has given a place. A new load's pages, spans and nodes are written and its
initial tokens injected; a saved one is put back at its new place, as its save area has it. The context is then RESIDENT, and what waited in the
loader for the load has been delivered. -/
def Obligations.PlacementCompletes : Prop :=
  ∀ (s : State) (c : Nat) (l : Load) (img : ImgLoad), s.dev.occ = .ctx c → c < 64 → (s.dev.graph c).load = some l →
    (s.dev.graph c).image[(s.dev.graph c).ix]? = some img →
    (s.dev.graph c).st = .queued → (s.dev.graph c).ending = none → l.w ≤ 10 →
    let pageAt := fun x y : Nat => l.die * 80 + (l.row + y) * 10 + l.col + x
    ∃ t, Machine.exec .placement s = .next t ∧
      (t.dev.graph c).st = .resident ∧ (t.dev.graph c).save = none ∧ (t.dev.graph c).load = some l ∧ (t.dev.graph c).draining = false ∧
        (t.dev.graph c).preempt = none ∧
      (t.dev.graph c).blocked = false ∧ (t.dev.hold c).toks = [] ∧ (t.dev.hold c).inbound = [] ∧ (t.dev.hold c).traps = [] ∧
        t.dev.ctxs = s.dev.ctxs ∧ t.sec = s.sec ∧
      ((s.dev.graph c).save = none → (∀ k, k ≠ c → t.dev.graph k = s.dev.graph k) ∧
        ((∀ g ∈ l.gws, ∀ i ∈ g.isles, i.kind ≠ .hearth) → t.dev.mem = s.dev.mem) ∧
        (∀ x < l.w, ∀ y < l.h, { t.dev.page (pageAt x y) with toks := [] } = freshPage s.dev c l img x y (s.dev.page (pageAt x y)) ∧
          ((s.dev.hold c).inbound = [] → (s.dev.hold c).away = [] → (t.dev.page (pageAt x y)).toks = [])) ∧
        ((img.spans.map fun p => pageAt p.px p.py * 64 + p.fe).Nodup → ∀ p ∈ img.spans,
          (t.dev.span (pageAt p.px p.py * 64 + p.fe)).anchor = true ∧ (t.dev.span (pageAt p.px p.py * 64 + p.fe)).wid = p.wid) ∧
        ∀ k ∈ img.toks, ∃ f ∈ t.dev.net, f.src = .loader ∧ f.tok.tag = ⟨BitVec.ofNat 6 c, 0, 0⟩ ∧ f.tok.seq = 0 ∧ f.tok.ma = k.ma ∧
          f.tok.cls = .data ∧
          f.tok.payload = k.lanes ∧ f.tok.dest = destAt (pageAt k.px k.py * 64 + k.fe) k.node k.port) ∧
      (∀ sv, (s.dev.graph c).save = some sv →
        let saved := areaSave s.dev c sv
        let at_ := fun k : Nat => pageAt (k % 16) (k / 16)
        ((saved.pages.map fun e => at_ e.1).Nodup → ∀ e ∈ saved.pages, at_ e.1 ∈ l.pages →
          (t.dev.page (at_ e.1)).store = e.2.store ∧ (t.dev.page (at_ e.1)).poison = e.2.poison ∧
            (t.dev.page (at_ e.1)).cid = some (BitVec.ofNat 6 c) ∧
          (t.dev.page (at_ e.1)).banks = e.2.banks ∧ (t.dev.page (at_ e.1)).spillLog = (s.dev.ctx c).spillsize.toNat % 2 ^ 5) ∧
        ((saved.spans.map fun e => at_ (e.1 / 64) * 64 + e.1 % 64).Nodup → ∀ e ∈ saved.spans,
          let now := t.dev.span (at_ (e.1 / 64) * 64 + e.1 % 64)
          now.anchor = e.2.anchor ∧ now.wid = e.2.wid ∧ now.nodes = e.2.nodes ∧ now.rnd.round = e.2.rnd.round))

/-- R400, R413 to R416: a victim is asked to stop; at a batch boundary, or by force after 2^20 cycles without one, no further firing begins; once
nothing is in flight, all is performed and no engine task is left (by force, chains stop between two tasks), the load is saved, its pages are
released, and the context returns to its queue: to the head, or refilled to the tail where its deficit is used up. -/
def Sys2Proof.Claims.PreemptionsComplete : Prop :=
  (∀ (s : State) (c : Nat) (l : Load), Holding s.dev c l → c ∈ s.dev.loader.asks → (s.dev.graph c).preempt = none → (s.dev.graph c).skip = false →
    Leads .preemptionRequest s fun t =>
    t.dev.graph c = { s.dev.graph c with preempt := some ⟨s.dev.now.toNat⟩ } ∧ (∀ k, k ≠ c → t.dev.graph k = s.dev.graph k) ∧ c ∉ t.dev.loader.asks ∧
    t.dev = { s.dev with graphs := t.dev.graphs, loader := t.dev.loader } ∧ t.sec = s.sec) ∧
  (∀ (s : State) (c : Nat) (l : Load) (p : Preempt), Holding s.dev c l → (s.dev.graph c).preempt = some p → (s.dev.graph c).msfull = none →
    ((s.dev.graph c).draining = false → atBoundary s.dev c true = true →
      Leads .preemptionSave s fun t => GraphOnly s t c { s.dev.graph c with draining := true, forced := false, reloc := false }) ∧
    ((s.dev.graph c).draining = false → atBoundary s.dev c true = false → p.at_ + 2 ^ 20 ≤ s.dev.now.toNat →
      Leads .forcedPreemption s fun t => GraphOnly s t c { s.dev.graph c with draining := true, forced := true, reloc := false }) ∧
    ((s.dev.graph c).draining = true → (∀ u, (s.dev.hold c).undo = some u → u.hit = false) → quiet s.dev c = true → settled s.dev c = true →
      engineWork (s.dev.graph c).forced s.dev c = false →
      ∀ k, k = (if (s.dev.graph c).forced then 2 else 1) → Leads (if (s.dev.graph c).forced then .forcedPreemption else .preemptionSave) s fun t =>
        (saveFits s.dev c (saveOf s.dev c l k) = true →
          (t.dev.graph c).st = .queued ∧ (t.dev.graph c).save = some (saveOf s.dev c l k) ∧ (t.dev.graph c).preempt = none ∧
            (t.dev.graph c).draining = false ∧ Released s.dev t.dev c l ∧
          (∀ q, s.dev.loader.runq[(s.dev.ctx c).cls]? = some q → t.dev.loader.runq[(s.dev.ctx c).cls]? =
            some (if i64 (s.dev.ctx c).deficit ≤ 0 then q.filter (· != c) ++ [c] else c :: q.filter (· != c))) ∧
          0 < i64 (t.dev.ctx c).deficit ∧ t.dev.loader.decide = true) ∧
        (saveFits s.dev c (saveOf s.dev c l k) = false →
          t.dev.graph c = { s.dev.graph c with preempt := none, victim := false, draining := false, forced := false, skip := true } ∧
            t.dev.pages = s.dev.pages ∧ t.dev.mem = s.dev.mem) ∧
        (∀ x, x ≠ c → t.dev.graph x = s.dev.graph x) ∧ t.dev.net = s.dev.net ∧ t.sec = s.sec))

/-- R385 to R387: a compaction asks the loads of a die to move, one at a time; a load moves at a batch boundary to the first position that holds it,
the links of its frames with it, and is skipped where it has reached none in 2^20 cycles; the compaction ends once the queued load has a place. -/
def Sys2Proof.Claims.CompactionsComplete : Prop :=
  (∀ (s : State) (c : Nat) (l : Load), Holding s.dev c l → (s.dev.graph c).reloc = true → (s.dev.graph c).preempt = none →
    ((s.dev.graph c).draining = false → atBoundary s.dev c false = true → (∀ p ∈ l.pages, (s.dev.page p).score = [] ∧
      ∀ a ∈ (s.dev.page p).accs, holdsPort s.dev a = false) → storeTask s.dev c l = false →
      Leads .relocation s fun t => GraphOnly s t c { s.dev.graph c with draining := true }) ∧
    ((s.dev.graph c).draining = true → (∀ u, (s.dev.hold c).undo = some u → u.hit = false) → quiet s.dev c = true → settled s.dev c = true →
      storeTask s.dev c l = false → Leads .relocation s fun t =>
      (t.dev.graph c).reloc = false ∧ (t.dev.graph c).draining = false ∧ t.dev.loader.decide = true ∧
      (∀ r k, firstFit s.dev c l = some (r, k) → (t.dev.graph c).load = some { l with row := r, col := k }) ∧
      (∀ k, s.dev.loader.compact = some k → t.dev.loader.compact = some { k with todo := k.todo.drop 1, asked := s.dev.now.toNat, passed := false }) ∧
      (∀ k, k ≠ c → t.dev.graph k = s.dev.graph k) ∧ ((∀ x ∈ launchPool, x ∈ (s.dev.graph c).pool) → t.dev.mem = s.dev.mem) ∧ t.sec = s.sec)) ∧
  (∀ (s : State) (k : Compact) (img : ImgLoad), s.dev.loader.compact = some k → (s.dev.graph k.cid).image[(s.dev.graph k.cid).ix]? = some img →
    ((findPlace s.dev k.cid img (diesFor s.dev k.cid) [] []).isSome = true ∨ k.todo = [] → Leads .compaction s fun t =>
      t.dev.loader.compact = none ∧ t.dev.loader.decide = true ∧
        t.dev.graph k.cid = { s.dev.graph k.cid with compacted := some s.dev.loader.placed } ∧ t.dev.pages = s.dev.pages ∧ t.sec = s.sec) ∧
    (∀ c r l, findPlace s.dev k.cid img (diesFor s.dev k.cid) [] [] = none → k.todo = c :: r → (s.dev.graph c).load = some l → l.die = k.die →
      (s.dev.graph c).st = .resident ∨ (s.dev.graph c).st = .parked →
      (s.dev.graph c).ending = none → (s.dev.graph c).preempt = none → (s.dev.graph c).reloc = false → Leads .compaction s fun t =>
        t.dev.graph c = { s.dev.graph c with reloc := true } ∧ t.dev.loader.compact = some { k with asked := s.dev.now.toNat, passed := false } ∧
          t.dev.pages = s.dev.pages ∧ t.sec = s.sec) ∧
    (∀ c r, k.todo = c :: r → (s.dev.graph c).reloc = true → (s.dev.graph c).draining = false → k.passed = false → atBoundary s.dev c false = false →
      k.asked + 2 ^ 20 ≤ s.dev.now.toNat → Leads .compactionSkip s fun t =>
      t.dev.graph c = { s.dev.graph c with reloc := false } ∧
        t.dev.loader.compact = some { k with todo := r, asked := s.dev.now.toNat, passed := false } ∧ t.dev.loader.decide = true ∧
      t.dev.pages = s.dev.pages ∧ t.sec = s.sec))

/-- R385 to R387, R400, R413 to R416: pre-emption, relocation and compaction. -/
def Obligations.PreemptionAndCompactionComplete : Prop := Claims.PreemptionsComplete ∧ Claims.CompactionsComplete

/-- R406 to R411: the loader posts the oldest record of a context to its fault queue, advances the producer index, counts a record lost where the queue
is full, and sends a trap token to TRAPNODE of a RESIDENT load, or keeps it while the context is QUEUED or PARKED; MSFULL enlarges the tables and
revives the context, or leaves it PARKED with SUB 1. -/
def Obligations.FaultsPosted : Prop :=
  (∀ (s : State) (c prod cons lost : Nat) (r : FaultRec) (rest : List FaultRec), s.dev.occ = .ctx c → (s.dev.graph c).posts = r :: rest →
    let d := s.dev.modGraph c fun g => { g with posts := rest }
    let base := (s.dev.ctx c).faultq.toNat / 2 ^ 12 % 2 ^ 45 * 2 ^ 12
    let n := 2 ^ ((s.dev.ctx c).faultq.toNat % 16)
    loaderNum d c base 8 = .ok prod → loaderNum d c (base + 8) 8 = .ok cons → loaderNum d c (base + 16) 8 = .ok lost → Leads .faultPost s fun t =>
      -- its reads are counted in the hotness table (R342)
      let d := countRun d 5 c 8 base 24
      (t.dev.graph c).posts = rest ∧
      (∀ d1 d2, (prod + 2 ^ 64 - cons) % 2 ^ 64 < n → loaderPut d c (base + 64 + 64 * (prod % n)) r.bytes = .ok d1 →
        loaderPut d1 c base (bytesOf (prod + 1) 8) = .ok d2 → t.dev.mem = d2.mem) ∧
      (∀ d1, n ≤ (prod + 2 ^ 64 - cons) % 2 ^ 64 → loaderPut d c (base + 16) (bytesOf (min (lost + 1) (2 ^ 64 - 1)) 8) = .ok d1 →
        t.dev.mem = d1.mem) ∧
      (∀ dest, r.code ≠ .msfull → r.code ≠ .loader → (s.dev.graph c).ending = none → (s.dev.graph c).st = .resident → trapDest s.dev c = some dest →
        ∃ f, t.dev.net = s.dev.net ++ [f] ∧ f.tok.dest = dest ∧ f.tok.cls = .fault ∧ f.tok.tag = ⟨BitVec.ofNat 6 c, 0, BitVec.ofNat 16 r.fid⟩ ∧
          f.tok.payload = lanesThen (lanesOf (s.dev.span dest.key).wid) ((List.range 8).map fun j => fld r.ident (32 * j + 31) (32 * j))) ∧
      (r.code ≠ .msfull → r.code ≠ .loader → (s.dev.graph c).ending = none → (s.dev.graph c).st = .queued ∨ (s.dev.graph c).st = .parked →
        (t.dev.hold c).traps = (s.dev.hold c).traps ++ [r]) ∧
      (∀ k, k ≠ c → t.dev.graph k = s.dev.graph k) ∧ t.dev.ctxs = s.dev.ctxs ∧ t.dev.pages = s.dev.pages ∧ t.sec = s.sec) ∧
  (∀ (s : State) (c : Nat) (r : FaultRec) (l : Load), Holding s.dev c l → (s.dev.graph c).msfull = some r → (s.dev.graph c).st = .parked →
    let logn := (s.dev.ctx c).spillsize.toNat % 32 + 1
    let base := (s.dev.ctx c).spillbase.toNat / 2 ^ 12 % 2 ^ 10 * 2 ^ 12
    let told := fun b : Nat => { s.dev.graph c with msfull := none, posts := (s.dev.graph c).posts ++ [{ r with sub := b }], faults := (s.dev.graph c).faults ++ [{ r with sub := b }] }
    (logn ≤ 14 → tablesFit s.dev c base logn = true → Leads .msfullHandling s fun t =>
      t.dev.ctx c = { s.dev.ctx c with spillsize := BitVec.ofNat 64 logn } ∧
      (∀ p ∈ l.pages, (t.dev.page p).spillBase = base ∧ (t.dev.page p).spillLog = logn) ∧ (∀ k, k ≠ c → t.dev.graph k = s.dev.graph k ∧
        t.dev.ctx k = s.dev.ctx k) ∧
      -- an arrival that was held may find the new table full too; else the context goes on, and what the loader held is injected
      (let free := ∀ p ∈ l.pages, ∀ e ∈ (s.dev.page p).toks, ∀ k, e.place ≠ .held k
       ((s.dev.hold c).inbound = [] → (t.dev.graph c).posts = (told 0).posts ∧ (t.dev.graph c).faults = (told 0).faults ∧
         (free → t.dev.graph c = { told 0 with st := .resident }) ∧ ((s.dev.hold c).traps = [] → t.dev.net = s.dev.net)) ∧
       (free → (t.dev.hold c).inbound = [] ∧ (t.dev.hold c).traps = [])) ∧
      t.dev.mem = s.dev.mem ∧ t.sec = s.sec) ∧
    (14 < logn ∨ tablesFit s.dev c base logn = false → Leads .msfullHandling s fun t => GraphOnly s t c (told 1)))

/-- R51, R190, R193, R392, R412: an end is carried out once every access is performed at SYS and every record posted: the graph completes with its
cause, 0 for DONE, 1 for a clear, 2 for a disabled context and 3 for a rejection; `done.next` queues the next load, or completes after the last. -/
def Obligations.EndsCarriedOut : Prop :=
  (∀ (s : State) (c : Nat) (k : EndKind) (w : Word), s.dev.occ = .ctx c → (s.dev.graph c).ending = some ⟨k, w, false⟩ →
    Leads (match k with | .next => .loaderDecision | .kill => .contextFreed | _ => .contextCompletion) s fun t =>
      (t.dev.graph c).ending = some ⟨k, w, true⟩ ∧ (t.dev.graph c).st = (s.dev.graph c).st ∧ (t.dev.graph c).gen = (s.dev.graph c).gen ∧
        (∀ x, x ≠ c → t.dev.graph x = s.dev.graph x) ∧ t.sec = s.sec) ∧
  (∀ (s : State) (c : Nat) (k : EndKind) (w : Word), Drained s.dev c k w →
    let after := if (s.dev.ctx c).en then CtxSt.idle else .free
    (∀ cause, (k = .graph ∧ cause = 0) ∨ (k = .clear ∧ cause = 1) ∨ (k = .reject ∧ cause = 3) →
      Leads .contextCompletion s fun t => Completed s.dev t.dev c w cause after ∧ t.sec = s.sec) ∧
    (k = .kill → Leads .contextFreed s fun t => Completed s.dev t.dev c 0 2 after ∧ t.sec = s.sec) ∧
    (k = .next → (s.dev.graph c).image.length ≤ (s.dev.graph c).ix + 1 → Leads .loaderDecision s fun t => Completed s.dev t.dev c w 0 after ∧
      t.sec = s.sec) ∧
    (∀ l, k = .next → (s.dev.graph c).ix + 1 < (s.dev.graph c).image.length → (s.dev.graph c).load = some l → Leads .loaderDecision s fun t =>
      (t.dev.graph c).st = .queued ∧ (t.dev.graph c).ix = (s.dev.graph c).ix + 1 ∧
      -- an EN that has been cleared is acted on next (R200)
      (t.dev.graph c).ending = (if (s.dev.ctx c).en then none else some ⟨.kill, 0, false⟩) ∧ (t.dev.graph c).gen = (s.dev.graph c).gen ∧
        t.dev.loader.decide = true ∧
      Released s.dev t.dev c l ∧ (t.dev.graph c).pool = (List.range 16383).map (fun k => BitVec.ofNat 14 (k + 1)) ∧ (∀ f ∈ t.dev.net, f ∈ s.dev.net ∧
        f.cid ≠ c) ∧ t.dev.mem = s.dev.mem ∧ t.sec = s.sec))

namespace Sys2Proof.Claims

/-! ### Registers written from outside a node -/

/-- The step that a write of a system register is. -/
def regArm (d : Dev) (num tgt : Nat) (v : Word64) : Instr :=
  if num = 0 ∧ v.getLsbD 0 = true ∧ (d.ctx tgt).en = false then .ctxcfgEnSet
  else if num = 0 ∧ v.getLsbD 0 = false ∧ (d.ctx tgt).en = true then .ctxcfgEnClear
  else if (num = 3 ∨ num = 4) ∧ (d.graph tgt).st = .parked then .spillRegisterWrite
  else if num = 0x103 then .stallcntWrite else if num = 0x104 then .tlbctlWrite else if num = 0x200 then .errlogWrite
  else if num = 8 then .prioWrite else if num = 9 then .weightWrite else .registerWrite

/-- The bits of a per-context register that a write stores (R47); WEIGHT and DEFICIT apart. -/
def ctxMask (num : Nat) : Option Word64 :=
  [(0x000, 0xFFFF0007), (0x001, 1), (0x002, 0x3FFFFFFFFFFFF001), (0x003, 0x3FF000), (0x004, 0x1F), (0x005, 0x01FFFFFFFFFC0000), (0x006, 0x07FFFFFD),
   (0x007, 0x01FFFFFFFFFFF00F), (0x008, 3), (0x00B, 0xFFFFFFFF)].lookup num

/-- The bits of a register of the control aperture that a write stores (R345, R442, R464, R483). -/
def ctlMask (off : Nat) : Option Word64 :=
  if 0x22000 ≤ off ∧ off < 0x24000 ∧ off % 8 = 0 then some 0xFFFFFFFFFFFFFFFF
  else if 0x30040 ≤ off ∧ off < 0x30080 ∧ off % 8 = 0 then some 0x000FFFFFF0000001
  else [(0x20, 0xF380FFFFFFFFFFFF), (0x10000, 0xFFFFFFFFFFFFFF03), (0x10008, 0xFFFFFFFF00FFFFFF), (0x10010, 0xFFFFFFFFFFFFFFFF), (0x10018, 0x000FFFFF80000001),
        (0x10020, 0x000FFFFFFFFFF001), (0x10028, 0x0000FFFFFFFFFFFF), (0x10030, 0x01FFFFFFFFFF0000), (0x10040, 0x000FFFFFFFFFC001), (0x10048, 0x000FFFFFFFFFFC01),
        (0x10050, 0x000FFFFFFFFFFC01), (0x30000, 0x1FF), (0x30008, 0x000FFFFFFFFFFC01)].lookup off

/-- A write to the control aperture is carried out: the host's, a part of a longer one that came before, or the oldest that a store of a system context
has queued. `d` is the package without it. -/
def Asked (s : State) (w : CtlWrite) (d : Dev) : Prop :=
  s.sec.boot = 1 ∧ ((s.dev.occ = .aperture w ∧ s.dev.host.pieces = [] ∧ d = s.dev) ∨
    (s.dev.occ = .queued ∧ ∃ r, s.dev.host.pieces = w :: r ∧ d = { s.dev with host := { s.dev.host with pieces := r } }) ∨
    (s.dev.occ = .queued ∧ s.dev.host.pieces = [] ∧ ∃ r, s.dev.ctlq = w :: r ∧ d = { s.dev with ctlq := r }))

/-- A whole 64-bit register is written. -/
def Writes (s : State) (off : Nat) (v : Word64) (d : Dev) : Prop := Asked s ⟨off, 8, v.toNat⟩ d

/-- A port of Sterabel after its counters are cleared. -/
def cleared (p : SbPort) : SbPort := { p with fecc := 0, crcf := 0, retry := 0 }

/-- What a port sent and nobody has acknowledged waits for another port once it goes down (R459). -/
def released (d : Dev) (k : Nat) : List OutFlit :=
  if (port d k).state = 2 ∨ (port d k).state = 3 then d.sb.out.map fun o => if o.at_ == .sent k then { o with at_ := .waiting } else o else d.sb.out

/-- The globals after a command on a context. -/
def Commanded (d d' : Dev) (c cmd res : Nat) : Prop := d'.glob = { d.glob with cmdCid := c, cmd := cmd, cmdRes := res }

end Sys2Proof.Claims

/-- R44 to R51, R196, R393, R403, R411: a write of a system register by the host or system software stores the bits that the register has, and leaves
the other registers of every context as they are. EN moves a FREE context to IDLE, and cleared frees it, or ends its graph with cause 2 once an end
that came before it is carried out; PRIO and WEIGHT call for a decision; FPCTL reaches the pages of the resident load; a write to a register of a
page that no load holds is ignored. -/
def Obligations.SystemRegistersWritten : Prop :=
  ∀ (s : State) (num tgt : Nat) (v : Word64), s.sec.boot = 1 → s.dev.occ = .reg num tgt v →
    (tgt < 64 → ∀ m, ctxMask num = some m → Leads (regArm s.dev num tgt v) s fun t =>
      ctxReg (t.dev.ctx tgt) num = some (v &&& m) ∧ (∀ k j, (k, j) ≠ (num, tgt) → (regArm s.dev num tgt v = .ctxcfgEnClear → j = tgt → k = 4 →
        (s.dev.graph tgt).msfull = none) →
        ctxReg (t.dev.ctx j) k = ctxReg (s.dev.ctx j) k) ∧
      (num ≠ 0 → num ≠ 3 → num ≠ 4 → num ≠ 8 → t.dev.graphs = s.dev.graphs) ∧
      (num = 0 → (t.dev.ctx tgt).en = (s.dev.ctx tgt).en → t.dev.graphs = s.dev.graphs) ∧
      (regArm s.dev num tgt v = .ctxcfgEnSet →
        t.dev.graph tgt = if (s.dev.graph tgt).st = .free then { s.dev.graph tgt with st := .idle } else s.dev.graph tgt) ∧
      (regArm s.dev num tgt v = .ctxcfgEnClear →
        ((s.dev.graph tgt).st = .idle → (t.dev.graph tgt).st = .free ∧ (t.dev.hold tgt).mail = []) ∧ ((s.dev.graph tgt).st = .free →
          t.dev.graphs = s.dev.graphs) ∧
        -- an end that came before is carried out first, and so is a MSFULL
        ((s.dev.graph tgt).st ≠ .idle → (s.dev.graph tgt).st ≠ .free →
          (t.dev.graph tgt).ending = (if (s.dev.graph tgt).ending.isSome then (s.dev.graph tgt).ending else some ⟨.kill, 0, false⟩) ∧
            tgt ∉ t.dev.loader.asks ∧
          ((s.dev.graph tgt).msfull = none → (s.dev.graph tgt).ending = none →
            t.dev.graph tgt = { s.dev.graph tgt with ending := some ⟨.kill, 0, false⟩, preempt := none, victim := false, draining := false, forced := false }) ∧
          ((s.dev.graph tgt).msfull = none → (s.dev.graph tgt).ending ≠ none → t.dev.graph tgt = s.dev.graph tgt) ∧
          (∀ r, (s.dev.graph tgt).msfull = some r → MsfullFirst tgt r s.dev t.dev))) ∧
      (num = 1 → ∀ l, (s.dev.graph tgt).load = some l → ∀ p ∈ l.pages, (t.dev.page p).ftz = v.getLsbD 0) ∧
      (num = 8 → t.dev.loader.decide = true ∧ (t.dev.graph tgt).newPrio = true) ∧
      (regArm s.dev num tgt v = .spillRegisterWrite → (s.dev.graph tgt).msfull = none → (s.dev.graph tgt).ending = none →
        let logn := (t.dev.ctx tgt).spillsize.toNat
        let base := (t.dev.ctx tgt).spillbase.toNat
        6 ≤ logn → logn ≤ 14 → (s.dev.ctx tgt).spillbase.toNat % 2 ^ 12 = 0 → (s.dev.ctx tgt).spillbase.toNat < 2 ^ 22 →
          (s.dev.ctx tgt).spillsize.toNat < 32 → tablesFit s.dev tgt base logn = true →
          ∀ l, (s.dev.graph tgt).load = some l → (∀ p ∈ l.pages, (t.dev.page p).spillBase = base ∧ (t.dev.page p).spillLog = logn) ∧
            -- an arrival that was held may find the new table full too
            ((∀ p ∈ l.pages, ∀ e ∈ (s.dev.page p).toks, ∀ k, e.place ≠ .held k) → (s.dev.hold tgt).inbound = [] →
              t.dev.graph tgt = { s.dev.graph tgt with st := .resident })) ∧
      -- a context that goes on takes what the loader held for it (R410)
      (((regArm s.dev num tgt v ≠ .ctxcfgEnClear ∧ regArm s.dev num tgt v ≠ .spillRegisterWrite) ∨ ((s.dev.hold tgt).inbound = [] ∧
        (s.dev.hold tgt).traps = [])) →
        t.dev.net = s.dev.net) ∧
      (∀ c, c ≠ tgt → t.dev.graph c = s.dev.graph c) ∧ t.dev.mem = s.dev.mem ∧ t.sec = s.sec) ∧
    (tgt < 64 → num = 9 → Leads .weightWrite s fun t =>
      (t.dev.ctx tgt).weight = (if v.toNat % 256 = 0 then 1 else BitVec.ofNat 64 (v.toNat % 256)) ∧ t.dev.loader.decide = true ∧
        t.dev.graphs = s.dev.graphs ∧ t.dev.mem = s.dev.mem ∧ t.sec = s.sec) ∧
    (tgt < 64 → num = 0xA → Gives .registerWrite s s.dev) ∧
    (tgt < 320 → (s.dev.page tgt).cid = none → 0x100 ≤ num → num ≤ 0x104 → Gives (regArm s.dev num tgt v) s s.dev) ∧
    (tgt < 320 → (s.dev.page tgt).cid ≠ none →
      (num = 0x102 → Gives .registerWrite s (s.dev.modPage tgt fun p => { p with cycles := v })) ∧
      (num = 0x103 → Gives .stallcntWrite s (s.dev.modPage tgt fun p => { p with stall := [0, 0, 0, 0, 0] })) ∧
      (num = 0x104 → Gives .tlbctlWrite s (s.dev.modPage tgt fun p => { p with tlb := [], miss := 0 }))) ∧
    (tgt < 5 → s.dev.dies.length = 5 → 0x200 ≤ num → num ≤ 0x202 → Leads (regArm s.dev num tgt v) s fun t =>
      (num = 0x200 → t.dev.die tgt = { s.dev.die tgt with log := (s.dev.die tgt).log.drop 1 }) ∧
      (num = 0x201 → t.dev.die tgt = { s.dev.die tgt with ovf := v.getLsbD 63, uncorr := v.toNat / 2 ^ 32 % 2 ^ 31, corr := v.toNat % 2 ^ 32 }) ∧
      (num = 0x202 → t.dev.die tgt = { s.dev.die tgt with errwin := v &&& 0xFFFFFFFF0000FFFF }) ∧ (∀ k, k ≠ tgt → t.dev.die k = s.dev.die k) ∧
      t.dev = { s.dev with dies := t.dev.dies } ∧ t.sec = s.sec)

/-- R345, R442, R464, R475, R476, R483, R486, R526: a whole write of a register of the control aperture stores the bits that it has, and nothing else
that the aperture reads changes; a write that covers a register in part changes none and is an event of KIND 3. -/
def Sys2Proof.Claims.ControlRegistersWritten : Prop :=
  (∀ (s : State) (off : Nat) (v m : Word64) (d : Dev), Writes s off v d → ctlMask off = some m → Leads .registerWrite s fun t =>
    ctlReg t.dev off = (v &&& m).toNat ∧ (∀ o, o ≠ off → o % 8 = 0 → ctlReg t.dev o = ctlReg s.dev o) ∧ t.dev.ctlq = d.ctlq ∧ t.dev.host = d.host ∧
      t.dev.mem = s.dev.mem ∧ t.dev.graphs = s.dev.graphs ∧ t.sec = s.sec) ∧
  (∀ (s : State) (v : Word64) (d : Dev), Writes s 0x54200 v d → s.dev.dies.length = 5 → 1000 ≤ v.toNat % 2 ^ 16 → v.toNat % 2 ^ 16 ≤ 5400 →
    Leads .registerWrite s fun t =>
    t.dev.die 4 = { s.dev.die 4 with plim := v.toNat % 2 ^ 16 } ∧ t.dev = { d with dies := t.dev.dies } ∧ t.sec = s.sec) ∧
  (∀ (s : State) (v : Word64) (d : Dev), Writes s 0x20000 v d → v.getLsbD 0 = s.dev.sb.ctl.getLsbD 0 →
    Gives .registerWrite s { d with sb := { d.sb with ctl := v &&& 0x0000FFFFFFFF0001 } }) ∧
  (∀ (s : State) (v : Word64) (d : Dev), Writes s 0x18 v d → v.toNat % 4 = 0 →
    Gives .registerWrite s { d with glob := { d.glob with dbgEn := false } }) ∧
  (∀ (s : State) (v : Word64) (d : Dev), Writes s 0x18 v d → v.toNat % 4 = 2 →
    Gives .dbgctlWerrClear s { d with glob := { d.glob with dbgEn := false, dbgWerr := false } }) ∧
  (∀ (s : State) (v : Word64) (d : Dev), Writes s 8 v d → Gives .brkstClear s { d with glob := { d.glob with brkst := d.glob.brkst &&& ~~~v } }) ∧
  (∀ (s : State) (v : Word64) (d : Dev), Writes s 0x10058 v d →
    Gives .lvstatWrite s { d with leaven := { d.leaven with regs := { d.leaven.regs with stat := 0 } } }) ∧
  (∀ (s : State) (v : Word64) (d : Dev), Writes s 0x10038 v d →
    let i : Instr := if v.getLsbD 40 then .lvshcmdAll else .lvshcmdRange
    ((s.dev.leaven.shoots.any (·.cmd)) = true → Gives i s d) ∧
    ((s.dev.leaven.shoots.any (·.cmd)) = false → Leads i s fun t =>
      (∃ x : Shoot, t.dev.leaven.shoots = s.dev.leaven.shoots ++ [x] ∧ x.cmd = true ∧ x.cid = v.toNat / 2 ^ 32 % 64 ∧ x.migr = none ∧
        (v.getLsbD 40 = true → x.size = none) ∧
        (v.getLsbD 40 = false → x.size = some (v.toNat % 2 ^ 32 * 2 ^ 16) ∧ x.va = s.dev.leaven.regs.shva.toNat / 2 ^ 16 % 2 ^ 41 * 2 ^ 16)) ∧
      (∀ e ∈ t.dev.pages, ∀ y ∈ e.2.tlb, v.getLsbD 40 = true → y.cid ≠ v.toNat / 2 ^ 32 % 64) ∧
      t.dev.mem.cells = s.dev.mem.cells ∧ t.dev.mem.wlog = s.dev.mem.wlog ∧ t.dev.graphs = s.dev.graphs ∧ t.dev.net = s.dev.net ∧ t.sec = s.sec)) ∧
  (∀ (s : State) (w : CtlWrite) (d : Dev), Asked s w d → 0x800000 ≤ w.off → w.off + w.size ≤ 0x1000000 → Leads .registerWrite s fun t =>
    (∀ k < w.size, t.dev.host.recovery.getD (w.off + k - 0x800000) 0 = BitVec.ofNat 8 (w.val / 2 ^ (8 * k))) ∧
    (∀ o, (o < w.off - 0x800000 ∨ w.off + w.size - 0x800000 ≤ o) → t.dev.host.recovery.getD o 0 = s.dev.host.recovery.getD o 0) ∧
      t.dev.mem = s.dev.mem ∧ t.sec = s.sec) ∧
  -- a longer write counts as one of each register that it reaches (log 53)
  (∀ (s : State) (w : CtlWrite) (d : Dev), Asked s w d → 8 < w.size → w.off < 0x800000 →
    Gives .registerWrite s { d with host := { d.host with pieces := w.pieces ++ d.host.pieces } }) ∧
  (∀ (s : State) (w : CtlWrite) (d : Dev), Asked s w d → w.partly = true → s.dev.dies.length = 5 → Leads .partialRegisterWrite s fun t =>
    Raised s.dev t.dev 4 ⟨3, 8, 0, 0x200000000000 + w.off, 0⟩ ∧ t.dev = { d with dies := t.dev.dies } ∧ t.sec = s.sec)

/-- R455, R456, R464: SBPST takes a port down, trains it while Sterabel is enabled, and clears its counters at any write; SBID is written while
Sterabel is disabled; a change of SBCTL.EN holds every port down or starts its training. A port whose state changes raises an event. -/
def Sys2Proof.Claims.PortRegistersWritten : Prop :=
  (∀ (s : State) (k : Nat) (v : Word64) (d : Dev), Writes s (0x20400 + 8 * k) v d → k < 64 → s.dev.dies.length = 5 →
    let p := port s.dev k
    (v.toNat % 8 = 4 → Leads .sbpstDisable s fun t =>
      port t.dev k = { cleared p with state := 4, lanes := 0, tries := 0, down := if p.state = 2 ∨ p.state = 3 then s.dev.now.toNat else p.down } ∧
      (∀ j, j ≠ k → port t.dev j = port s.dev j) ∧ (t.dev.die 4).events = (s.dev.die 4).events ++ (if p.state = 4 then [] else [⟨4, 7, k, 0, 0⟩]) ∧
      t.dev = { d with sb := { d.sb with ports := t.dev.sb.ports, out := released s.dev k }, dies := t.dev.dies } ∧ t.sec = s.sec) ∧
    (v.toNat % 8 = 1 → s.dev.sb.ctl.getLsbD 0 = true → Leads .sbpstTrain s fun t =>
      port t.dev k = { cleared p with state := 1, lanes := 0, tries := 0, down := if p.state = 2 ∨ p.state = 3 then s.dev.now.toNat else p.down } ∧
      (∀ j, j ≠ k → port t.dev j = port s.dev j) ∧ (t.dev.die 4).events = (s.dev.die 4).events ++ (if p.state = 1 then [] else [⟨4, 7, k, 0, 0⟩]) ∧
      t.dev = { d with sb := { d.sb with ports := t.dev.sb.ports, out := released s.dev k }, dies := t.dev.dies } ∧ t.sec = s.sec) ∧
    (v.toNat % 8 = 1 → s.dev.sb.ctl.getLsbD 0 = false → Leads .sbpstTrain s fun t => port t.dev k = cleared p ∧ (∀ j, j ≠ k →
      port t.dev j = port s.dev j) ∧ t.dev.dies = s.dev.dies ∧ t.sec = s.sec) ∧
    (v.toNat % 8 ≠ 1 → v.toNat % 8 ≠ 4 → Leads .sbpstClearCounters s fun t =>
      port t.dev k = cleared p ∧ (∀ j, j ≠ k → port t.dev j = port s.dev j) ∧ t.dev = { d with sb := { d.sb with ports := t.dev.sb.ports } } ∧
        t.sec = s.sec)) ∧
  (∀ (s : State) (v : Word64) (d : Dev), Writes s 0x20008 v d →
    Gives .sbidWrite s (if s.dev.sb.ctl.getLsbD 0 then d else { d with sb := { d.sb with id := v &&& 0x7FF } })) ∧
  (∀ (s : State) (v : Word64) (d : Dev), Writes s 0x20000 v d → v.getLsbD 0 ≠ s.dev.sb.ctl.getLsbD 0 → Leads .sbctlEnWrite s fun t =>
    t.dev.sb.ctl = v &&& 0x0000FFFFFFFF0001 ∧
    (∀ k < 64, (port t.dev k).state = if (port s.dev k).state = 4 then 4 else if v.getLsbD 0 then 1 else 0) ∧ (∀ k < 64, (port s.dev k).state ≠ 4 →
      (port t.dev k).lanes = 0) ∧
    t.dev.sb.rt = s.dev.sb.rt ∧ t.dev.sb.id = s.dev.sb.id ∧ t.dev.mem = s.dev.mem ∧ t.dev.graphs = s.dev.graphs ∧ t.sec = s.sec)

/-- R345, R442, R455, R456, R464, R475, R476, R483, R486, R526: writes of the registers of the control aperture. -/
def Obligations.ApertureWritesComplete : Prop := Claims.ControlRegistersWritten ∧ Claims.PortRegistersWritten

/-- R413, R476: CTXCMD pre-empts, halts, clears or kills a context where its state admits the command, with result 0; otherwise its result is 1 and
nothing else changes. -/
def Sys2Proof.Claims.ContextCommandsComplete : Prop :=
  ∀ (s : State) (v : Word64) (d : Dev), Writes s 0x10 v d →
    let c := v.toNat / 2 ^ 32 % 64
    let g := s.dev.graph c
    let live := (g.st = .queued ∨ g.st = .resident ∨ g.st = .parked) ∧ g.ending = none
    let refused (i : Instr) (cmd : Nat) : Prop := Gives i s { d with glob := { d.glob with cmdCid := c, cmd := cmd, cmdRes := 1 } }
    (v.toNat % 8 = 1 →
      let may := (g.st = .resident ∨ g.st = .parked) ∧ g.ending = none ∧ g.preempt = none ∧ g.skip = false ∧ ∃ l, g.load = some l ∧
        saveFits s.dev c (captureLoad s.dev c l 1) = true
      (may → Leads .ctxcmdPreempt s fun t => c ∈ t.dev.loader.asks ∧ (∀ x, x ≠ c → (x ∈ t.dev.loader.asks ↔ x ∈ s.dev.loader.asks)) ∧
        Commanded s.dev t.dev c 1 0 ∧
        t.dev = { d with loader := t.dev.loader, glob := t.dev.glob } ∧ t.sec = s.sec) ∧ (¬ may → refused .ctxcmdPreempt 1)) ∧
    (v.toNat % 8 = 2 →
      (live → Leads .ctxcmdHalt s fun t => (t.dev.graph c).st = .stopped ∧ (t.dev.graph c).halt = some 0 ∧
        (∀ q ∈ t.dev.loader.runq, c ∉ q) ∧ c ∉ t.dev.loader.asks ∧ Commanded s.dev t.dev c 2 0 ∧
        (g.msfull = none → t.dev.graph c = { g with st := .stopped, halt := some 0, preempt := none, victim := false, draining := false, forced := false, reloc := false } ∧
          t.dev = { d with loader := t.dev.loader, glob := t.dev.glob, graphs := t.dev.graphs }) ∧
        (∀ r, g.msfull = some r → MsfullFirst c r s.dev t.dev) ∧
        (∀ x, x ≠ c → t.dev.graph x = s.dev.graph x) ∧ t.dev.mem = s.dev.mem ∧ t.sec = s.sec) ∧ (¬ live → refused .ctxcmdHalt 2)) ∧
    (v.toNat % 8 = 3 →
      (g.st = .stopped → g.ending = none → Leads .ctxcmdClear s fun t => (t.dev.graph c).ending = some ⟨.clear, g.halt.getD 0, false⟩ ∧
        Commanded s.dev t.dev c 3 0 ∧
        (g.msfull = none → t.dev.graph c = { g with ending := some ⟨.clear, g.halt.getD 0, false⟩, preempt := none, victim := false, draining := false, forced := false } ∧
          t.dev.ctxs = s.dev.ctxs) ∧
        (∀ x, x ≠ c → t.dev.graph x = s.dev.graph x) ∧ t.dev.mem = s.dev.mem ∧ t.sec = s.sec) ∧ (¬ (g.st = .stopped ∧ g.ending = none) →
          refused .ctxcmdClear 3)) ∧
    (v.toNat % 8 = 4 →
      ((s.dev.ctx c).en = true → Leads .ctxcmdKill s fun t =>
        (t.dev.ctx c).en = false ∧ (t.dev.ctx c).priv = (s.dev.ctx c).priv ∧ (t.dev.ctx c).jobid = (s.dev.ctx c).jobid ∧ (g.st = .idle →
          (t.dev.graph c).st = .free) ∧
        (g.st ≠ .idle → g.st ≠ .free → (t.dev.graph c).ending = if g.ending.isSome then g.ending else some ⟨.kill, 0, false⟩) ∧
          Commanded s.dev t.dev c 4 0 ∧
        (∀ x, x ≠ c → t.dev.graph x = s.dev.graph x ∧ t.dev.ctx x = s.dev.ctx x) ∧ t.dev.mem = s.dev.mem ∧ t.sec = s.sec) ∧
          ((s.dev.ctx c).en = false → refused .ctxcmdKill 4))

/-- R482 to R484: a write through the debug window changes the bytes of an idle unit that DBGSEL selects; with EN 0, on a unit that is not there or
that a load holds, or beyond its state, it is dropped with WERR set (logs 54, 73). -/
def Sys2Proof.Claims.DebugWritesComplete : Prop :=
  ∀ (s : State) (w : CtlWrite) (d : Dev), Asked s w d → 0x1000000 ≤ w.off → w.off < 0x3000000 →
    let sel := s.dev.glob.dbgsel.toNat
    let cls := sel / 2 ^ 60 % 16
    let die := sel / 2 ^ 55 % 8
    let unit := sel / 2 ^ 40 % 256
    let a := sel % 2 ^ 40 + (w.off - 0x1000000)
    let pg := die * 80 + unit
    let tile := die * 48 + unit
    let idle := ∀ x, debugBinder s.dev cls die unit a = some x → (s.dev.graph x).st = .stopped
    let fits := ∃ n, debugSize cls die unit = some n ∧ a + w.size ≤ n
    ((s.dev.glob.dbgEn = false ∨ ¬ fits ∨ ¬ idle) → Gives .debugWindowWrite s { d with glob := { d.glob with dbgWerr := true } }) ∧
    (s.dev.glob.dbgEn = true → fits → idle →
      (Leads .debugWindowWrite s fun t => t.dev.glob = s.dev.glob ∧ t.dev.mem.cells = s.dev.mem.cells ∧ t.dev.mem.wlog = s.dev.mem.wlog ∧
        t.dev.mem.poison = s.dev.mem.poison ∧
        t.dev.ctxs = s.dev.ctxs ∧ t.dev.graphs = s.dev.graphs ∧ t.dev.net = s.dev.net ∧ t.sec = s.sec) ∧
      (cls = 0 → a + w.size ≤ 0x3E0000 → Leads .debugWindowWrite s fun t =>
        (∀ k < w.size, (t.dev.page pg).store.getD (a + k) 0 = BitVec.ofNat 8 (w.val / 2 ^ (8 * k))) ∧
        (∀ o, (o < a ∨ a + w.size ≤ o) → (t.dev.page pg).store.getD o 0 = (s.dev.page pg).store.getD o 0) ∧ (∀ p, p ≠ pg →
          t.dev.page p = s.dev.page p) ∧
        { t.dev.page pg with store := [], toks := [] } = { s.dev.page pg with store := [], toks := [] } ∧
        -- a byte of an entry in use of the spill table changes its token
        ((∀ k < w.size, tabledAt s.dev pg (a + k) = none) → (t.dev.page pg).toks = (s.dev.page pg).toks) ∧
        t.dev = { d with pages := t.dev.pages } ∧ t.sec = s.sec) ∧
      -- in the loop area a byte is one of a loop's bitmap (R169)
      (cls = 0 → 0x3E0000 ≤ a → Leads .debugWindowWrite s fun t =>
        (∀ p, (t.dev.page p).store = (s.dev.page p).store) ∧ (∀ k, k / 64 ≠ pg → t.dev.span k = s.dev.span k) ∧
        (∀ k, { t.dev.span k with loops := [] } = { s.dev.span k with loops := [] }) ∧
          t.dev = { d with spans := t.dev.spans, pages := t.dev.pages } ∧ t.sec = s.sec) ∧
      (cls = 4 → Leads .debugWindowWrite s fun t =>
        (∀ k < w.size, (t.dev.tile tile).ws.getD (a + k) 0 = BitVec.ofNat 8 (w.val / 2 ^ (8 * k))) ∧
        (∀ o, (o < a ∨ a + w.size ≤ o) → (t.dev.tile tile).ws.getD o 0 = (s.dev.tile tile).ws.getD o 0) ∧ (∀ p, p ≠ tile →
          t.dev.tile p = s.dev.tile p) ∧
        t.dev = { d with tiles := t.dev.tiles } ∧ t.sec = s.sec) ∧
      -- one byte of the record of a node: byte `a % 12` of node `a / 12 % 1024` of FE `a / 12288` (R419)
      (cls = 1 → a < 0xC0000 → w.size = 1 → w.val < 256 → Leads .debugWindowWrite s fun t =>
        let key := pg * 64 + a / 12288
        let node := a / 12 % 1024
        (∀ j < 12, ((t.dev.span key).nodes.getD node 0).toNat / 2 ^ (8 * j) % 256 = if j = a % 12 then w.val else ((s.dev.span key).nodes.getD node 0).toNat / 2 ^ (8 * j) % 256) ∧
        (∀ n, n ≠ node → (t.dev.span key).nodes.getD n 0 = (s.dev.span key).nodes.getD n 0) ∧ (∀ k, k ≠ key → t.dev.span k = s.dev.span k) ∧
        t.dev = { d with spans := t.dev.spans } ∧ t.sec = s.sec))

/-- R413, R476, R482 to R484: context commands and the debug window. -/
def Obligations.CommandsAndDebugComplete : Prop := Claims.ContextCommandsComplete ∧ Claims.DebugWritesComplete

namespace Sys2Proof.Claims

/-! ### The host, the links, the security processor -/

/-- A channel's window. -/
def win (d : Dev) (ch : Nat) : Window := d.host.wins.getD ch {}

/-- An accepted access of which a part is not answered: the access that the occasion names, and the part. -/
structure Unanswered (d : Dev) (pg : Nat) (a : Access) (e : Elem) (t : Nat → Bool) : Prop where
  open_ : openAcc d = some (pg, a)
  part : openPart d a t = some e
  live : (d.graph a.cid).ending = none ∧ (d.graph a.cid).st ≠ .stopped

/-- A fault has been raised against an access, which holds its port until it is resolved (R233, R405). -/
def HeldBy (s t : State) (pg : Nat) (a : Access) (code : FCode) (va : Nat) : Prop :=
  { a with fault := some (s.dev.graph a.cid).nextFid } ∈ (t.dev.page pg).accs ∧
  (∃ r, (t.dev.graph a.cid).posts = (s.dev.graph a.cid).posts ++ [r] ∧ (t.dev.graph a.cid).faults = (s.dev.graph a.cid).faults ++ [r] ∧
    r.fid = (s.dev.graph a.cid).nextFid ∧
    r.code = code ∧ r.port = true ∧ r.addr = va ∧ r.frame = some a.tok.tag.frame) ∧
  (∀ c, c ≠ a.cid → t.dev.graph c = s.dev.graph c) ∧ t.dev.mem = s.dev.mem ∧
  t.dev.net = s.dev.net.filter (fun f => (s.dev.graph a.cid).load.isNone || (inQueue a.cid a.tok.tag.frame f).isNone) ∧ t.dev.ctxs = s.dev.ctxs ∧
    t.sec = s.sec

/-- A task is abandoned, and its record names the firing that sent its packet (R264, R274). -/
def TaskEnded (s t : State) (isl : Isle) (id : Nat) (p : Packet) (code : FCode) : Prop :=
  (t.dev.chan isl).tasks = Without s.dev isl id ∧
  (∃ r, (t.dev.graph p.cid).posts = (s.dev.graph p.cid).posts ++ [r] ∧ (t.dev.graph p.cid).faults = (s.dev.graph p.cid).faults ++ [r] ∧
    r.fid = (s.dev.graph p.cid).nextFid ∧
    r.code = code ∧ r.eng = true ∧ r.port = false ∧ r.hdr = p.hdr ∧ r.loc = p.loc ∧ r.frame = some p.tag.frame) ∧
  (∀ c, c ≠ p.cid → t.dev.graph c = s.dev.graph c) ∧ (∀ j, j.key ≠ isl.key → t.dev.chan j = s.dev.chan j) ∧ t.dev.ctxs = s.dev.ctxs ∧ t.sec = s.sec

/-- A request is answered: a flit of channel RSP with the next end-to-end number waits to leave for its requester (R457, R459, R460). -/
def Answered (d d' : Dev) (pkg : Nat) : Prop :=
  let k := pkg * 4 + 1
  let n := d.sb.eseq.getD k 0
  (pkg = d.pkg → d'.sb = d.sb) ∧
  (pkg ≠ d.pkg → ∃ o : OutFlit, d'.sb = { d.sb with out := d.sb.out ++ [o], eseq := d.sb.eseq.set k (n + 1) } ∧ o.flit.vc = 1 ∧ o.flit.src = d.pkg ∧
    o.flit.dst = pkg ∧ o.flit.eseq = n ∧
    o.flit.payload.length = 240 ∧ o.at_ = .waiting ∧ o.own = true)

/-- Corrected errors of a line are events of KIND 1 of its port, one for each (R477). -/
def Corrected (d d' : Dev) (k n : Nat) (l : List Event) : Prop :=
  ∃ c, (d'.die 4).events = (d.die 4).events ++ c ++ l ∧ c.length = n ∧ ∀ e ∈ c, e.kind = 1 ∧ e.src = 7 ∧ e.idx = k

/-- The peer of port `k` has taken the flits before link number `n` that the port had sent: the flits that the package still has, and whether there are
such (R456). -/
def takenFlits (d : Dev) (k n : Nat) : List OutFlit × Bool :=
  let taken := fun o : OutFlit => o.at_ == .sent k && decide (o.flit.lseq < n)
  if d.sb.out.any taken then ((d.sb.out.map fun o => if taken o then { o with at_ := .taken } else o).filter fun o => o.own || o.at_ != .taken, true) else (d.sb.out, false)

/-- The package after a cold reset but for its memory: every register at its value after reset. -/
def ColdDev (d : Dev) (m : Mem) : Dev := { mem := m, ids := d.ids, tick := d.tick, occ := d.occ }

end Sys2Proof.Claims

/-- R388 to R391: RING checks the record of its channel and answers status and generation; with status 0 the graph is launched. IRING puts a token into
the inbound queue of a context, or gives it to its RESIDENT load, or answers why not. Before boot the windows refuse every write. -/
def Obligations.RingsComplete : Prop :=
  (∀ (s : State) (ch : Nat) (bs : List Byte), s.dev.occ = .bar0 (4096 * ch + 0x40) bs → bs.length = 4 → ch < 256 →
    let c := ch / 4
    let v := (win s.dev ch).lrec.toNat
    let st := if v / 2 ^ 256 % 64 ≠ c then 4 else match (s.dev.graph c).st with | .free => 1 | .idle => 0 | _ => 2
    (s.sec.boot = 1 → Leads .ring s fun t =>
      win t.dev ch = { win s.dev ch with lstat := st, lgen := if st = 0 then (s.dev.graph c).gen + 1 else (s.dev.graph c).gen } ∧ (∀ k, k ≠ ch →
        win t.dev k = win s.dev k) ∧
      (st = 0 → (t.dev.graph c).st = .queued ∧ (t.dev.graph c).lrec = recOf v ∧ (t.dev.graph c).gen = (s.dev.graph c).gen ∧
        i64 (t.dev.ctx c).deficit = max 1 (s.dev.ctx c).quantum ∧
        (∀ q, s.dev.loader.runq[(s.dev.ctx c).cls]? = some q → t.dev.loader.runq[(s.dev.ctx c).cls]? = some (q.filter (· != c) ++ [c]))) ∧
      (st ≠ 0 → t.dev = { s.dev with host := t.dev.host }) ∧ (∀ k, k ≠ c → t.dev.graph k = s.dev.graph k) ∧ t.dev.mem.cells = s.dev.mem.cells ∧
        t.dev.net = s.dev.net ∧ t.sec = s.sec) ∧
    (s.sec.boot ≠ 1 → s.dev.dies.length = 5 → Leads .ring s fun t => Raised s.dev t.dev 4 ⟨3, 8, 0, 0, 0⟩ ∧ DiesOnly s t)) ∧
  (∀ (s : State) (off : Nat) (bs : List Byte), s.dev.occ = .bar0 off bs → s.sec.boot ≠ 1 → off < 0x100000 → bs ≠ [] →
    touches off bs.length 0x40 = none → touches off bs.length 0xC0 = none →
    s.dev.dies.length = 5 → Leads .registerWrite s fun t => Raised s.dev t.dev 4 ⟨3, 8, 0, 0, 0⟩ ∧ DiesOnly s t) ∧
  (∀ (s : State) (ch : Nat) (bs : List Byte), s.dev.occ = .bar0 (4096 * ch + 0xC0) bs → bs.length = 4 → ch < 256 →
    let c := ch / 4
    let g := s.dev.graph c
    let live := g.st = .queued ∨ g.st = .resident ∨ g.st = .parked
    (s.sec.boot = 1 →
      (¬ live → Leads .iring s fun t => win t.dev ch = { win s.dev ch with istat := 1 } ∧ t.dev = { s.dev with host := t.dev.host } ∧ t.sec = s.sec) ∧
      (live → 64 ≤ (s.dev.hold c).inbound.length → Leads .iring s fun t => win t.dev ch = { win s.dev ch with istat := 3 } ∧
        t.dev = { s.dev with host := t.dev.host } ∧ t.sec = s.sec) ∧
      (live → (s.dev.hold c).inbound.length < 64 → Leads .iring s fun t =>
        win t.dev ch = { win s.dev ch with istat := 0 } ∧ (∀ k, k ≠ ch → win t.dev k = win s.dev k) ∧ t.dev.mem = s.dev.mem ∧
          t.dev.ctxs = s.dev.ctxs ∧ t.sec = s.sec ∧
        (g.st ≠ .resident ∨ g.load = none ∨ g.ending ≠ none → ∃ k : Token, t.dev.net = s.dev.net ∧
          (t.dev.hold c).inbound = (s.dev.hold c).inbound ++ [k] ∧
          k.tag = ⟨BitVec.ofNat 6 c, 0, BitVec.ofNat 16 ((win s.dev ch).irec.toNat / 2 ^ 32)⟩ ∧ k.seq = 0 ∧
          k.cls = .data ∧ k.poi = false ∧ k.payload = (List.range 8).map (fun j =>
            if bitAt (win s.dev ch).irec.toNat (56 + j) then Lane.some ((win s.dev ch).irec.toNat / 2 ^ (256 + 32 * j) % 2 ^ 32) else .none)) ∧
        -- at a RESIDENT load it goes to its place; one that the load has no place for is refused, and kept to be examined again
        (g.st = .resident → g.ending = none → ∀ l, g.load = some l →
          let v := (win s.dev ch).irec.toNat
          (t.dev.hold c).inbound = (s.dev.hold c).inbound ∧
          (∀ k, l.feAt (v / 2 ^ 23 % 16 * 8 + v / 2 ^ 17 % 8) (v / 2 ^ 20 % 8 * 8 + v / 2 ^ 14 % 8) = some k →
            ∃ f, t.dev.net = s.dev.net ++ [f] ∧ f.src = .loader ∧ f.tok.dest = destAt k (v / 2 ^ 4 % 2 ^ 10) (portOf (v / 2 ^ 2 % 4)) ∧
              f.tok.payload.length = lanesOf (s.dev.span k).wid) ∧
          (l.feAt (v / 2 ^ 23 % 16 * 8 + v / 2 ^ 17 % 8) (v / 2 ^ 20 % 8 * 8 + v / 2 ^ 14 % 8) = none →
            (∃ k, (t.dev.hold c).away = (s.dev.hold c).away ++ [k]) ∧
            (s.dev.parkedFrame c 0 = false → ∃ r, (t.dev.graph c).posts = g.posts ++ [r] ∧ r.code = .illop ∧ r.frame = some 0 ∧
              r.fid = g.nextFid))))) ∧
    (s.sec.boot ≠ 1 → s.dev.dies.length = 5 → Leads .iring s fun t => Raised s.dev t.dev 4 ⟨3, 8, 0, 0, 0⟩ ∧ DiesOnly s t))

/-- R312, R321, R465, R466, R475, R526: BAR 2 reads and writes the tiers, and refuses any other place under an event of KIND 3; an AtomicOp gets
Unsupported Request; a read of a register gives its value; HWBASE and the launch records take host writes; a Function Level Reset clears EN of every
context and resets the windows. -/
def Obligations.HostAccessesComplete : Prop :=
  (∀ (s : State) (off n : Nat), s.dev.occ = .bar2 off (.read n) → s.sec.boot = 1 → off < 2 ^ s.dev.host.barLog → 0 < n →
    let a := s.dev.host.hwbase.toNat + off
    (bar2Ok s.dev a n = true → Leads .hostBar2Access s fun t =>
      t.dev.host = { s.dev.host with replies := s.dev.host.replies ++ [.data (readEl s.dev.mem .host a n).1 (readEl s.dev.mem .host a n).2.1] } ∧
      (frameEntry s.dev a = none → t.dev = { s.dev with host := t.dev.host }) ∧ t.sec = s.sec) ∧
    (bar2Ok s.dev a n = false → s.dev.dies.length = 5 → Leads .hostBar2Access s fun t =>
      t.dev.host = { s.dev.host with replies := s.dev.host.replies ++ [.abort] } ∧ Raised s.dev t.dev 4 ⟨3, 8, 0, a, 0⟩ ∧
        t.dev = { s.dev with host := t.dev.host, dies := t.dev.dies } ∧ t.sec = s.sec)) ∧
  (∀ (s : State) (off : Nat) (bs : List Byte) (ep : Bool), s.dev.occ = .bar2 off (.write bs ep) → s.sec.boot = 1 → off < 2 ^ s.dev.host.barLog →
    bs ≠ [] →
    let a := s.dev.host.hwbase.toNat + off
    (bar2Ok s.dev a bs.length = true → frameEntry s.dev a = none → s.dev.leaven.migrs = [] → Leads .hostBar2Access s fun t =>
      homeBytes t.dev.mem a bs.length = bs ∧
      (ep = true ∨ (∀ b, a ≤ b → b < a + bs.length → isCxlKey b = false) → homePoi t.dev.mem a bs.length = ep) ∧ (∀ b, (b < a ∨ a + bs.length ≤ b) →
        homeBytes t.dev.mem b 1 = homeBytes s.dev.mem b 1) ∧
      t.dev = { s.dev with mem := t.dev.mem } ∧ t.sec = s.sec) ∧
    (bar2Ok s.dev a bs.length = false → s.dev.dies.length = 5 → Leads .hostBar2Access s fun t => Raised s.dev t.dev 4 ⟨3, 8, 0, a, 0⟩ ∧
      DiesOnly s t)) ∧
  -- an AtomicOp is an Unsupported Request
  (∀ (s : State) (off : Nat), s.dev.occ = .bar2 off .atomic ∨ s.dev.occ = .bar0Atomic off →
    Gives .hostBar2Access s { s.dev with host := { s.dev.host with replies := s.dev.host.replies ++ [.unsupported] } }) ∧
  -- a read of a register of the control aperture, and of a system register by its number (the model's choice: log 83)
  (∀ (s : State) (o : Nat), s.dev.occ = .bar0Read (0x1000000 + o) 8 → s.sec.boot = 1 → o % 8 = 0 → o < 0x800000 →
    Gives .hostBar2Access s { s.dev with host := { s.dev.host with replies := s.dev.host.replies ++ [.data (bytesOf (ctlReg s.dev o) 8) false] } }) ∧
  (∀ (s : State) (num tgt v : Nat), s.dev.occ = .regRead num tgt → s.sec.boot = 1 → targetOk num tgt = true → sysReg s.dev num tgt tgt tgt = some v →
    Gives .hostBar2Access s { s.dev with host := { s.dev.host with replies := s.dev.host.replies ++ [.data (bytesOf v 8) false] } }) ∧
  -- the function's configuration space
  (∀ (s : State) (n : Nat), s.dev.occ = .config (.barSize n) → s.sec.boot = 1 → 34 ≤ n → n ≤ 43 →
    Gives .registerWrite s { s.dev with host := { s.dev.host with barLog := n } }) ∧
  (∀ (s : State) (on : Bool), s.dev.occ = .config (.atomicOps on) → s.sec.boot = 1 →
    Gives .registerWrite s { s.dev with host := { s.dev.host with atomicOp := on } }) ∧
  (∀ (s : State) (bs : List Byte), s.dev.occ = .bar0 0x200000 bs → bs.length = 8 → s.sec.boot = 1 →
    Gives .registerWrite s { s.dev with host := { s.dev.host with hwbase := BitVec.ofNat 64 (natOfBytes bs) &&& 0x000FFFFC00000000 } }) ∧
  (∀ (s : State) (ch k : Nat) (bs : List Byte), s.dev.occ = .bar0 (4096 * ch + 4 * k) bs → bs.length = 4 → ch < 256 → k < 16 → s.sec.boot = 1 →
    Leads .registerWrite s fun t =>
    (∀ j < 16, (win t.dev ch).lrec.toNat / 2 ^ (32 * j) % 2 ^ 32 = if j = k then natOfBytes bs else (win s.dev ch).lrec.toNat / 2 ^ (32 * j) % 2 ^ 32) ∧
    (∀ j, j ≠ ch → win t.dev j = win s.dev j) ∧ t.dev = { s.dev with host := t.dev.host } ∧ t.sec = s.sec) ∧
  (∀ s : State, Leads .functionLevelReset s fun t =>
    (∀ c < 64, (t.dev.ctx c).en = false ∧ (t.dev.ctx c).priv = (s.dev.ctx c).priv ∧ (t.dev.ctx c).jobid = (s.dev.ctx c).jobid ∧
      ((s.dev.ctx c).en = true → (s.dev.graph c).st = .idle → (t.dev.graph c).st = .free) ∧
      ((s.dev.ctx c).en = true → (s.dev.graph c).st ≠ .idle → (s.dev.graph c).st ≠ .free →
        (t.dev.graph c).ending = if (s.dev.graph c).ending.isSome then (s.dev.graph c).ending else some ⟨.kill, 0, false⟩) ∧
      ((s.dev.ctx c).en = false → t.dev.graph c = s.dev.graph c)) ∧
    (∀ k, win t.dev k = {}) ∧ t.dev.host = { s.dev.host with wins := [] } ∧ t.dev.mem = s.dev.mem ∧
    ((∀ c < 64, (s.dev.graph c).msfull = none) → t.dev.pages = s.dev.pages ∧ t.dev.net = s.dev.net) ∧ t.sec = s.sec)

/-- R455 to R459, R464: a port that is up takes a flit whose CRC and number are right, delivers it in order where it is for this package and forwards
it where it is not; it refuses another, and trains again at the refusal of its eighth replay. It sends flits of RSP first, keeps what it has sent
until it is acknowledged, and replays from a flit that its peer refuses. Training ends up, degraded or down. -/
def Sys2Proof.Claims.FlitsAndTrainingComplete : Prop :=
  (∀ (s : State) (k cor : Nat) (f : Flit), s.dev.occ = .flit k cor f → s.sec.boot = 1 → k < 64 → (port s.dev k).state = 2 ∨
    (port s.dev k).state = 3 → s.dev.dies.length = 5 →
    let p := port s.dev k
    let key := (f.src * 1024 + f.dst) * 4 + f.vc
    let fecc := min (p.fecc + cor) 0xFFFF
    let kept := takenFlits s.dev k f.ack
    let beside := fun t : State => (∀ j, j ≠ k → port t.dev j = port s.dev j) ∧
      t.dev = { s.dev with sb := t.dev.sb, dies := t.dev.dies, tick := t.dev.tick } ∧ t.sec = s.sec
    (f.crcOk = true → f.lseq = p.next → Leads .flitReceive s fun t =>
      port t.dev k = { p with fecc, next := p.next + 1, tries := 0, replays := if kept.2 then 0 else p.replays } ∧ Corrected s.dev t.dev k cor [] ∧
      (f.dst ≠ s.dev.pkg → t.dev.sb.given = s.dev.sb.given ∧ t.dev.sb.out = kept.1 ++ [⟨f, .waiting, false⟩]) ∧
      (f.dst = s.dev.pkg → t.dev.sb.out = kept.1 ∧
        (f.eseq = s.dev.sb.expect.getD key 0 → s.dev.sb.early = [] → t.dev.sb.given = s.dev.sb.given ++ [f] ∧
          t.dev.sb.expect.getD key 0 = f.eseq + 1) ∧
        (f.eseq < s.dev.sb.expect.getD key 0 → t.dev.sb.given = s.dev.sb.given ∧ t.dev.sb.early = s.dev.sb.early) ∧
        (s.dev.sb.expect.getD key 0 < f.eseq → t.dev.sb.given = s.dev.sb.given ∧ f ∈ t.dev.sb.early)) ∧ beside t) ∧
    (f.crcOk = false ∨ f.lseq ≠ p.next →
      -- what follows a refused flit is refused too, and is no replay of it
      let tries := if f.lseq = p.next then p.tries + 1 else p.tries
      let errs := cor + (if f.crcOk then 0 else 1)
      (tries ≤ 8 → Leads .flitReceive s fun t =>
        port t.dev k = { p with fecc, crcf := if f.crcOk then p.crcf else min (p.crcf + 1) 0xFFFF, tries } ∧ Corrected s.dev t.dev k errs [] ∧
        t.dev.sb.given = s.dev.sb.given ∧ t.dev.sb.out = s.dev.sb.out ∧ beside t) ∧
      (8 < tries → Leads .flitReceive s fun t =>
        (port t.dev k).state = 1 ∧ (port t.dev k).tries = 0 ∧ (port t.dev k).down = s.dev.now.toNat ∧
          Corrected s.dev t.dev k errs [⟨4, 7, k, 0, 0⟩, ⟨4, 7, k, 0, 0⟩] ∧
        t.dev.sb.given = s.dev.sb.given ∧ t.dev.sb.out = released s.dev k ∧ beside t))) ∧
  (∀ (s : State) (k : Nat) (a : PortAct), s.dev.occ = .portAct k a → s.sec.boot = 1 → k < 64 →
    let p := port s.dev k
    let up := p.state = 2 ∨ p.state = 3
    (∀ vc n, a = .credit vc n → Gives .flitReceive s (putPort s.dev k { p with credit := modNth (· + n) vc p.credit })) ∧
    (∀ dst vc n, a = .arrived dst vc n → Leads .flitReceive s fun t =>
      (∀ o, o ∈ t.dev.sb.out ↔ o ∈ s.dev.sb.out ∧ ¬ (o.own = true ∧ o.flit.dst = dst ∧ o.flit.vc = vc ∧ o.flit.eseq ≤ n)) ∧
      t.dev = { s.dev with sb := { s.dev.sb with out := t.dev.sb.out } } ∧ t.sec = s.sec) ∧
    (∀ vc o, a = .send → up → servedVc s.dev k = some vc → readyFlit s.dev k vc = some o → Leads .flitReceive s fun t =>
      port t.dev k = { p with sendNo := p.sendNo + 1, credit := modNth (· - 1) vc p.credit, lastVc := vc, turn := if vc = 1 then p.turn else vc } ∧
        (∀ j, j ≠ k → port t.dev j = port s.dev j) ∧
      (∃ f : Flit, ⟨f, .sent k, o.own⟩ ∈ t.dev.sb.out ∧ f = { o.flit with lseq := p.sendNo, ack := p.next, crc := f.crc } ∧ f.crcOk = true) ∧
      t.dev = { s.dev with sb := { s.dev.sb with ports := t.dev.sb.ports, out := t.dev.sb.out } } ∧ t.sec = s.sec) ∧
    (∀ n, a = .refused n → up → ((takenFlits s.dev k n).1.any fun o => o.at_ == .sent k) = true →
      let kept := takenFlits s.dev k n
      let again := (kept.1.filter fun o => o.at_ == .sent k).length
      let replays := if kept.2 then 0 else p.replays
      (replays < 8 → Leads .flitReceive s fun t => port t.dev k = { p with replays := replays + 1, retry := min (p.retry + again) 0xFFFF } ∧
        t.dev.sb.out = kept.1 ∧
        (∀ j, j ≠ k → port t.dev j = port s.dev j) ∧ t.dev = { s.dev with sb := t.dev.sb } ∧ t.sec = s.sec) ∧
      (8 ≤ replays → s.dev.dies.length = 5 → Leads .flitReceive s fun t => (port t.dev k).state = 1 ∧ (∀ j, j ≠ k → port t.dev j = port s.dev j) ∧
        (∀ o ∈ t.dev.sb.out, o.at_ ≠ .sent k) ∧ (t.dev.die 4).events = (s.dev.die 4).events ++ [⟨4, 7, k, 0, 0⟩, ⟨4, 7, k, 0, 0⟩] ∧
        t.dev = { s.dev with sb := t.dev.sb, dies := t.dev.dies } ∧ t.sec = s.sec))) ∧
  (∀ (d : Dev) (k : Nat), (readyFlit d k 1).isSome = true → (port d k).lastVc ≠ 1 → servedVc d k = some 1) ∧
  (∀ (s : State) (k st lanes peer : Nat), s.dev.occ = .port k st lanes peer → k < 64 → (port s.dev k).state = 1 → s.dev.sb.ctl.getLsbD 0 = true →
    s.dev.dies.length = 5 →
    (st = 2 ∧ lanes = 4) ∨ (st = 3 ∧ lanes = 2) ∨ (st = 0 ∧ lanes = 0) → Leads .portTrainingComplete s fun t =>
      (port t.dev k).state = st ∧ (port t.dev k).lanes = lanes ∧ (st ≠ 0 → (port t.dev k).peer = peer % 1024 ∧ (port t.dev k).next = 0 ∧
        (port t.dev k).sendNo = 0) ∧ (∀ j, j ≠ k → port t.dev j = port s.dev j) ∧
      Raised s.dev t.dev 4 ⟨4, 7, k, 0, 0⟩ ∧ t.dev = { s.dev with sb := t.dev.sb, dies := t.dev.dies } ∧ t.sec = s.sec)

/-- R459, R462, R468, R470: an access that gets no response within RSPDL, no route for 2^20 cycles, or no completion from the host raises TIMEOUT or
LINKF and holds its port, and an engine task whose write waits so is abandoned; a CXL link that goes down raises LINKF against the accesses and the
tasks under way. -/
def Sys2Proof.Claims.DeadlinesComplete : Prop :=
  (∀ (s : State) (pg : Nat) (a : Access) (e : Elem), Unanswered s.dev pg a e (fun k => toRemote k || toCxl s.dev k) →
    let n := s.dev.sb.ctl.toNat / 2 ^ 16 % 2 ^ 16
    n ≠ 0 → a.since + n * 2 ^ 10 ≤ s.dev.now.toNat → Leads .responseTimeout s fun t => HeldBy s t pg a .timeout e.va) ∧
  (∀ (s : State) (pg : Nat) (a : Access) (e : Elem), Unanswered s.dev pg a e (fun k => toRemote k && routeDead s.dev (k / 2 ^ 52 - 1) a.since) →
    Leads .routeLinkTimeout s fun t => HeldBy s t pg a .linkf e.va) ∧
  -- the write of an engine task
  (∀ (s : State) (isl : Isle) (id : Nat) (u : Task) (p : Packet), s.dev.occ = .task isl id → getTask s.dev isl id = some u → u.pk = some p →
    (s.dev.graph p.cid).ending = none → (s.dev.graph p.cid).st ≠ .stopped →
    let n := s.dev.sb.ctl.toNat / 2 ^ 16 % 2 ^ 16
    (∀ x, n ≠ 0 → openWrite s.dev u = true → u.since = some x → x + n * 2 ^ 10 ≤ s.dev.now.toNat →
      Leads .responseTimeout s fun t => TaskEnded s t isl id p .timeout) ∧
    (waitsForRoute s.dev u = true → Leads .routeLinkTimeout s fun t => TaskEnded s t isl id p .linkf)) ∧
  (∀ (s : State) (pg : Nat) (a : Access) (e : Elem) (k : Nat), openAcc s.dev = some (pg, a) → isRead a.kind = true → a.els = [e] → e.st = .todo →
    e.pa = some k → k < 2 ^ 52 →
    regionOf s.dev k = .hostWin → (s.dev.graph a.cid).ending = none → (s.dev.graph a.cid).st ≠ .stopped →
      Leads .completionTimeout s fun t => HeldBy s t pg a .timeout e.va) ∧
  (∀ (s : State) (k cap : Nat), s.dev.occ = .cxl k → s.dev.mem.cxl[k]? = some (true, cap) → s.dev.dies.length = 5 →
    (∀ e ∈ s.dev.pages, e.2.accs = []) → openTasks s.dev (fun b => !toRemote b && regionOf s.dev b == .cxl k) = [] → Leads .cxlPortLinkDown s fun t =>
      t.dev.mem = { s.dev.mem with cxl := t.dev.mem.cxl } ∧ t.dev.mem.cxl[k]? = some (false, cap) ∧ (∀ j, j ≠ k →
        t.dev.mem.cxl[j]? = s.dev.mem.cxl[j]?) ∧ Raised s.dev t.dev 4 ⟨4, 2, k, 0, 0⟩ ∧
      t.dev = { s.dev with mem := t.dev.mem, dies := t.dev.dies } ∧ t.sec = s.sec) ∧
  (∀ (s : State) (k cap pg : Nat) (p : Page) (a : Access) (e : Elem), s.dev.occ = .cxl k → s.dev.mem.cxl[k]? = some (true, cap) →
    s.dev.pages = [(pg, p)] → p.accs = [a] → a.acc.isSome = true → a.fault = none →
    openTasks s.dev (fun b => !toRemote b && regionOf s.dev b == .cxl k) = [] →
      openPart s.dev a (fun b => !toRemote b && regionOf s.dev b == .cxl k) = some e → (s.dev.graph a.cid).ending = none →
      (s.dev.graph a.cid).st ≠ .stopped → Leads .cxlPortLinkDown s fun t =>
      { a with fault := some (s.dev.graph a.cid).nextFid } ∈ (t.dev.page pg).accs ∧
      ∃ r, (t.dev.graph a.cid).posts = (s.dev.graph a.cid).posts ++ [r] ∧ r.code = .linkf ∧ r.port = true ∧ r.addr = e.va) ∧
  (∀ (s : State) (k cap : Nat) (isl : Isle) (u : Task) (p : Packet), s.dev.occ = .cxl k → s.dev.mem.cxl[k]? = some (true, cap) →
    (∀ e ∈ s.dev.pages, e.2.accs = []) →
    openTasks s.dev (fun b => !toRemote b && regionOf s.dev b == .cxl k) = [(isl, u)] → u.pk = some p → (s.dev.graph p.cid).ending = none →
      (s.dev.graph p.cid).st ≠ .stopped →
    Leads .cxlPortLinkDown s fun t => TaskEnded s t isl u.id p .linkf)

/-- R455 to R459, R462, R464, R468, R470: flits, training and deadlines. -/
def Obligations.LinksComplete : Prop := Claims.FlitsAndTrainingComplete ∧ Claims.DeadlinesComplete

/-- R230, R460, R461: a request of another package is served at the home of its location where the requester may reach it; otherwise it is refused, an
event of KIND 3 that names the requester. A response leaves either way. Nothing is served while Sterabel is disabled. -/
def Obligations.RemoteRequestsComplete : Prop :=
  ∀ (s : State) (r : RemReq), s.dev.occ = .request r → s.sec.boot = 1 →
    let en := s.dev.sb.ctl.getLsbD 0
    let may := (regionOf s.dev r.pa).isTier = true ∧ requestOk s.dev r = true ∧ frameEntry s.dev r.pa = none ∧ s.dev.leaven.migrs = []
    let told := fun (t : State) (d : Dev) => t.dev = { d with sb := t.dev.sb, tick := t.dev.tick } ∧ Answered s.dev t.dev r.pkg ∧ t.sec = s.sec
    let wrote := fun (t : State) (n : Nat) (bs : List Byte) (poi : Bool) =>
      homeBytes t.dev.mem r.pa n = bs ∧ (poi = homePoi s.dev.mem r.pa n ∨ poi = true ∨ (∀ b, r.pa ≤ b → b < r.pa + n → isCxlKey b = false) →
        homePoi t.dev.mem r.pa n = poi) ∧
      (∀ b, (b < r.pa ∨ r.pa + n ≤ b) → homeBytes t.dev.mem b 1 = homeBytes s.dev.mem b 1) ∧ told t { s.dev with mem := t.dev.mem }
    (en = false → Gives .remoteRequestArrival s s.dev) ∧
    (en = true → (∀ c b m, r.kind ≠ .msend c b m) → requestOk s.dev r = false → s.dev.dies.length = 5 → Leads .remoteRequestArrival s fun t =>
      Raised s.dev t.dev 4 ⟨3, 7, r.pkg, r.pa, 0⟩ ∧ told t { s.dev with dies := t.dev.dies }) ∧
    (en = true → may →
      (∀ n, r.kind = .read n → Leads .remoteRequestArrival s fun t => told t s.dev) ∧
      (∀ el bs poi, r.kind = .write el bs poi → bs ≠ [] → Leads .remoteRequestArrival s fun t => wrote t bs.length bs poi) ∧
      (∀ f op v ftz, r.kind = .atom f op v ftz → Leads .remoteRequestArrival s fun t =>
        let n := fmtBits f / 8
        wrote t n (bytesOf (atomicNew op (natOfBytes (homeBytes s.dev.mem r.pa n)) v f ftz).1 n) (homePoi s.dev.mem r.pa n)) ∧
      (∀ f cmp v, r.kind = .cas f cmp v →
        let n := fmtBits f / 8
        (natOfBytes (homeBytes s.dev.mem r.pa n) = cmp → Leads .remoteRequestArrival s fun t => wrote t n (bytesOf v n) (homePoi s.dev.mem r.pa n)) ∧
        (natOfBytes (homeBytes s.dev.mem r.pa n) ≠ cmp → Leads .remoteRequestArrival s fun t => told t s.dev))) ∧
    (en = true → r.priv = true → regionOf s.dev r.pa = .control → (∀ n, r.kind = .read n → Leads .remoteRequestArrival s fun t => told t s.dev) ∧
      (∀ el bs poi, r.kind = .write el bs poi → Leads .remoteRequestArrival s fun t =>
        told t { s.dev with ctlq := s.dev.ctlq ++ [⟨r.pa - 0x200000000000, bs.length, natOfBytes bs⟩] })) ∧
    (∀ cid box m, en = true → r.kind = .msend cid box m →
      ((s.dev.graph cid).st ≠ .free → (r.priv = true ∨ (s.dev.ctx cid).jobid = r.jobid) → ((s.dev.hold cid).mail.getD box []).length < 64 →
        Leads .remoteRequestArrival s fun t =>
        (t.dev.hold cid).mail.getD box [] = (s.dev.hold cid).mail.getD box [] ++ [m] ∧ told t { s.dev with holds := t.dev.holds }) ∧
      (((s.dev.graph cid).st = .free ∨ (r.priv = false ∧ (s.dev.ctx cid).jobid ≠ r.jobid)) → s.dev.dies.length = 5 →
        Leads .remoteRequestArrival s fun t =>
        Raised s.dev t.dev 4 ⟨3, 7, r.pkg, 0, 0⟩ ∧ told t { s.dev with dies := t.dev.dies }))

/-- R471 to R474, R482, R485: a cold reset verifies the images in order and brings every register to its value after reset, HBM and LPDDR to zero;
three good images bring BOOT 1, a bad one BOOT 2; recovery resumes it. System software extends slots 4 to 13, a write of 1 to DBGCTL.EN slot 15;
attestation answers in the order of the protocol. -/
def Obligations.SecurityStepsComplete : Prop :=
  (∀ (s : State) (imgs : List Firmware) (caps : List Nat), s.dev.occ = .firmware imgs caps →
    (∀ a b c rest, imgs = a :: b :: c :: rest → imageOk a = true → imageOk b = true → imageOk c = true → Leads .coldReset s fun t =>
      t.sec.boot = 1 ∧ t.sec.slots[0]? = some (extendWith 0 a.digest) ∧ t.sec.slots[1]? = some (extendWith 0 b.digest) ∧
        t.sec.slots[2]? = some (extendWith 0 c.digest) ∧
      t.sec.slots[3]? = some (extendWith 0 Config.fuseDigest) ∧ (∀ k, 4 ≤ k → k < 16 → t.sec.slots[k]? = some 0) ∧ t.dev = ColdDev s.dev t.dev.mem) ∧
    (∀ a rest, imgs = a :: rest → imageOk a = false → Leads .coldReset s fun t =>
      t.sec.boot = 2 ∧ t.sec.failed = 0 ∧ t.sec.slots = List.replicate 16 0 ∧ (∃ e : Event, (t.dev.die 4).events = [e] ∧ e.src = 11) ∧
      t.dev = { ColdDev s.dev t.dev.mem with dies := t.dev.dies, tick := s.dev.tick + 1 }) ∧
    Leads .coldReset s fun t =>
      (∀ a, isCxlKey a = false → homeBytes t.dev.mem a 1 = [0] ∧ (a % 4 = 0 → homePoi t.dev.mem a 4 = false)) ∧
      (s.dev.mem.wlog = [] → ∀ a, isCxlKey a = true → homeBytes t.dev.mem a 1 = homeBytes s.dev.mem a 1)) ∧
  (∀ s : State, s.dev.occ = .none → s.sec.boot = 2 → Machine.exec .recoveryVerify s = .next { s with sec := { s.sec with boot := 3 } }) ∧
  (∀ (s : State) (imgs : List Firmware) (caps : List Nat), s.dev.occ = .firmware imgs caps → s.sec.boot = 3 →
    -- the first image is the one that the host has written to the recovery buffer
    (∀ i r, imgs = i :: r → inRecovery s.dev i = false → Machine.exec .recoveryVerify s = .next s) ∧
    (∀ i, imgs = [i] → inRecovery s.dev i = true → s.sec.failed = 2 → imageOk i = true → s.sec.slots.length = 16 → Leads .recoveryVerify s fun t =>
      t.sec.boot = 1 ∧ (∀ v, s.sec.slots[2]? = some v → t.sec.slots[2]? = some (extendWith v i.digest)) ∧ t.dev = s.dev) ∧
    (∀ i r, imgs = i :: r → inRecovery s.dev i = true → s.sec.failed < 3 → imageOk i = false → Leads .recoveryVerify s fun t =>
      t.sec = { s.sec with boot := 2 } ∧ (4 < s.dev.dies.length → ∃ e : Event, Raised s.dev t.dev 4 e ∧ e.src = 11) ∧ t.dev.mem = s.dev.mem ∧
        t.dev.graphs = s.dev.graphs)) ∧
  (∀ (s : State) (k : Nat) (v x : BitVec 384), s.dev.occ = .slot k v → s.sec.boot = 1 → 4 ≤ k → k ≤ 13 → s.sec.slots[k]? = some x →
    Leads .measurementExtend s fun t =>
    t.sec.slots[k]? = some (sha384 (digestBytes x ++ digestBytes v)) ∧ (∀ j, j ≠ k → t.sec.slots[j]? = s.sec.slots[j]?) ∧
      t.sec = { s.sec with slots := t.sec.slots } ∧ t.dev = s.dev) ∧
  (∀ (s : State) (v : Word64) (d : Dev) (x : BitVec 384), Writes s 0x18 v d → v.getLsbD 0 = true → s.sec.slots[15]? = some x →
    Leads .dbgctlEnable s fun t =>
    t.dev = { d with glob := { d.glob with dbgEn := !Config.debugFuse, dbgWerr := d.glob.dbgWerr && !v.getLsbD 1 } } ∧
    t.sec.slots[15]? = some (extendWith x (sha384 (bytesOf s.dev.now.toNat 8))) ∧ (∀ j, j ≠ 15 → t.sec.slots[j]? = s.sec.slots[j]?) ∧
      t.sec = { s.sec with slots := t.sec.slots }) ∧
  (∀ (s : State) (r : SpdmReq), s.dev.occ = .spdm r → s.sec.boot = 1 → Leads .spdmRequest s fun t =>
    ∃ y : SpdmReply, t.sec = { s.sec with spdm := t.sec.spdm, replies := s.sec.replies ++ [y] } ∧ t.dev = s.dev ∧
      (r = .getVersion → y = .version ∧ t.sec.spdm = 1) ∧ (r = .getCapabilities → 1 ≤ s.sec.spdm → y = .capabilities ∧ t.sec.spdm = 2) ∧
      (r = .negotiate true true → 2 ≤ s.sec.spdm → y = .algorithms ∧ t.sec.spdm = 3) ∧ (r = .getDigests → 3 ≤ s.sec.spdm → y = .digests) ∧
      (r = .getCertificate 0 → 3 ≤ s.sec.spdm → y = .certificate [⟨Config.identityKey, Config.makerSig⟩,
        ⟨Config.aliasKey (s.sec.slots.take 4), Config.identitySign (sha384 (keyBytes (Config.aliasKey (s.sec.slots.take 4))))⟩]) ∧
      (∀ n, r = .challenge 0 n → 3 ≤ s.sec.spdm → y = .challenge s.sec.slots n (signResponse s.sec.slots s.sec.slots n)) ∧
      (∀ b n, r = .getMeasurements 0xFF b n → 3 ≤ s.sec.spdm →
        y = .measurements s.sec.slots n (if b then some (signResponse s.sec.slots s.sec.slots n) else none)) ∧
      (∀ b n k, r = .getMeasurements k b n → 1 ≤ k → k ≤ 16 → 3 ≤ s.sec.spdm →
        let shown := (s.sec.slots[k - 1]?).toList
        y = .measurements shown n (if b then some (signResponse s.sec.slots shown n) else none)) ∧ (s.sec.spdm = 0 → r ≠ .getVersion →
          ∃ e, y = .error e))
end

