-- ==== Sys2Proof/Laws/Encoding.lean ====
section
/-! SUPPORT. Bit fields and the causes of an ill-formed record. -/

namespace Sys2Proof.Machine

theorem fld_lt (x hi lo : Nat) : fld x hi lo < 2 ^ (hi + 1 - lo) := Nat.mod_lt _ (Nat.two_pow_pos _)

/-- A field read under a mask. -/
theorem fld_of_mask {x hi lo v : Nat} (h : x &&& ((2 ^ (hi + 1 - lo) - 1) * 2 ^ lo) = v * 2 ^ lo) : fld x hi lo = v := by
  have h' := congrArg (· >>> lo) h
  simp only [Nat.shiftRight_and_distrib, ← Nat.shiftLeft_eq, Nat.shiftLeft_shiftRight, Nat.and_two_pow_sub_one_eq_mod] at h'
  exact h'

theorem firstCause_none {l : List (Option Nat)} (h : firstCause l = none) : ∀ x ∈ l, x = none := by
  induction l with
  | nil => simp
  | cons a l ih =>
    cases a with
    | some k => simp [firstCause, orCause] at h
    | none =>
      intro x hx
      rcases List.mem_cons.1 hx with rfl | hx
      · rfl
      · exact ih (by simpa [firstCause, orCause] using h) x hx

theorem need_none {b : Bool} {k : Nat} (h : need b k = none) : b = true := by
  unfold need at h
  split at h
  · assumption
  · cases h

/-- A record with no cause: its fields have none, and no destination has (R111). -/
theorem nodeCause_parts {i : Instr} {n : NodeRec} {lanes : Nat} (h : nodeCause i n lanes = none) :
    fieldCause i n lanes = none ∧ dstCause n.dsta = none ∧ dstCause n.dstb = none := by
  have := firstCause_none h
  exact ⟨this _ (by simp), this _ (by simp), this _ (by simp)⟩

theorem nodeCause_none {i : Instr} {n : NodeRec} {lanes : Nat} {r : Row} (hr : rowOf i = some r) (h : nodeCause i n lanes = none) :
    rowCause r n = none ∧ dstCause n.dsta = none ∧ dstCause n.dstb = none := by
  obtain ⟨hf, hd⟩ := nodeCause_parts h
  simp only [fieldCause, hr] at hf
  exact ⟨firstCause_none hf _ (by simp), hd⟩

/-- A well-formed instruction's literal holds its mode bits. -/
theorem mode_of_wellFormed {i : Instr} {op m : Nat} {n : NodeRec} {r : Row} {lanes : Nat} (h : partsOf i = some (op, m, n))
    (hr : rowOf i = some r) (hw : WellFormed lanes i = true) : n.lit.toNat &&& r.modeMask = r.mode := by
  simp only [WellFormed, h, Option.isNone_iff_eq_none] at hw
  have := firstCause_none (nodeCause_none hr hw).1 (need (n.lit.toNat &&& r.modeMask == r.mode) 4) (by simp)
  exact beq_iff_eq.1 (need_none this)

end Sys2Proof.Machine
end

