-- ==== Sys2Proof/Laws/Tables.lean ====
section
/-! SUPPORT. Laws of the sparse tables and of the list operations: a read after a write. -/

namespace Sys2Proof.Machine

namespace Tab

@[simp] theorem find?_set_self {α : Type} (t : Tab α) (k : Nat) (v : α) : (Tab.set t k v).find? k = some v := by
  induction t with
  | nil => simp [Tab.set, Tab.find?]
  | cons e r ih =>
    obtain ⟨k', v'⟩ := e
    simp only [Tab.set]
    split
    · simp [Tab.find?]
    · split
      · simp [Tab.find?]
      · rename_i h1 h2
        simp only [Tab.find?, List.find?] at ih ⊢
        have : (k' == k) = false := by simp; omega
        simp only [this]
        exact ih

theorem find?_set_ne {α : Type} (t : Tab α) {k j : Nat} (v : α) (h : j ≠ k) : (Tab.set t k v).find? j = t.find? j := by
  induction t with
  | nil => simp [Tab.set, Tab.find?, List.find?, (beq_eq_false_iff_ne.2 (Ne.symm h) : (k == j) = false)]
  | cons e r ih =>
    obtain ⟨k', v'⟩ := e
    have hk : (k == j) = false := beq_eq_false_iff_ne.2 (Ne.symm h)
    simp only [Tab.set]
    split
    · simp [Tab.find?, List.find?, hk]
    · split
      · rename_i h1 h2
        subst h2
        simp [Tab.find?, List.find?, hk]
      · simp only [Tab.find?, List.find?] at ih ⊢
        cases h' : k' == j <;> simp only
        exact ih

@[simp] theorem getD_set_self {α : Type} (t : Tab α) (k : Nat) (v d : α) : (Tab.set t k v).getD k d = v := by
  simp [Tab.getD]

theorem getD_set_ne {α : Type} (t : Tab α) {k j : Nat} (v : α) {d : α} (h : j ≠ k) : (Tab.set t k v).getD j d = t.getD j d := by
  simp [Tab.getD, find?_set_ne t v h]

end Tab

/-! ### The k-th element -/

@[simp] theorem modNth_length {α : Type} (f : α → α) (k : Nat) (l : List α) : (modNth f k l).length = l.length := by
  induction l generalizing k with
  | nil => cases k <;> rfl
  | cons a l ih => cases k <;> simp [modNth, ih]

theorem modNth_getElem?_self {α : Type} (f : α → α) (k : Nat) (l : List α) : (modNth f k l)[k]? = (l[k]?).map f := by
  induction l generalizing k with
  | nil => cases k <;> simp [modNth]
  | cons a l ih => cases k <;> simp [modNth, ih]

theorem modNth_getElem?_ne {α : Type} (f : α → α) {k j : Nat} (l : List α) (h : j ≠ k) : (modNth f k l)[j]? = l[j]? := by
  induction l generalizing k j with
  | nil => cases k <;> simp [modNth]
  | cons a l ih =>
    cases k with
    | zero => cases j with
      | zero => exact absurd rfl h
      | succ j => simp [modNth]
    | succ k => cases j with
      | zero => simp [modNth]
      | succ j => simpa [modNth] using ih (k := k) (j := j) (fun e => h (by omega))

end Sys2Proof.Machine
end

