-- ==== Sys2Proof/Laws/State.lean ====
section
/-! SUPPORT. What each update of one part of the package leaves: one lemma for each field and update, and reading a part after an update. -/

namespace Sys2Proof.Machine.Dev

/-! ### modSpan -/

section
variable (d : Dev) (k : Nat) (f : Span → Span)
@[simp] theorem modSpan_now : (d.modSpan k f).now = d.now := rfl
@[simp] theorem modSpan_pages : (d.modSpan k f).pages = d.pages := rfl
@[simp] theorem modSpan_ctxs : (d.modSpan k f).ctxs = d.ctxs := rfl
@[simp] theorem modSpan_graphs : (d.modSpan k f).graphs = d.graphs := rfl
@[simp] theorem modSpan_holds : (d.modSpan k f).holds = d.holds := rfl
@[simp] theorem modSpan_net : (d.modSpan k f).net = d.net := rfl
@[simp] theorem modSpan_combs : (d.modSpan k f).combs = d.combs := rfl
@[simp] theorem modSpan_slots : (d.modSpan k f).slots = d.slots := rfl
@[simp] theorem modSpan_loader : (d.modSpan k f).loader = d.loader := rfl
@[simp] theorem modSpan_mem : (d.modSpan k f).mem = d.mem := rfl
@[simp] theorem modSpan_leaven : (d.modSpan k f).leaven = d.leaven := rfl
@[simp] theorem modSpan_chans : (d.modSpan k f).chans = d.chans := rfl
@[simp] theorem modSpan_tiles : (d.modSpan k f).tiles = d.tiles := rfl
@[simp] theorem modSpan_sifters : (d.modSpan k f).sifters = d.sifters := rfl
@[simp] theorem modSpan_racks : (d.modSpan k f).racks = d.racks := rfl
@[simp] theorem modSpan_braid : (d.modSpan k f).braid = d.braid := rfl
@[simp] theorem modSpan_emsgs : (d.modSpan k f).emsgs = d.emsgs := rfl
@[simp] theorem modSpan_rankCache : (d.modSpan k f).rankCache = d.rankCache := rfl
@[simp] theorem modSpan_ctlq : (d.modSpan k f).ctlq = d.ctlq := rfl
@[simp] theorem modSpan_sb : (d.modSpan k f).sb = d.sb := rfl
@[simp] theorem modSpan_rt : (d.modSpan k f).rt = d.rt := rfl
@[simp] theorem modSpan_host : (d.modSpan k f).host = d.host := rfl
@[simp] theorem modSpan_glob : (d.modSpan k f).glob = d.glob := rfl
@[simp] theorem modSpan_dies : (d.modSpan k f).dies = d.dies := rfl
@[simp] theorem modSpan_offTiles : (d.modSpan k f).offTiles = d.offTiles := rfl
@[simp] theorem modSpan_tripped : (d.modSpan k f).tripped = d.tripped := rfl
@[simp] theorem modSpan_ids : (d.modSpan k f).ids = d.ids := rfl
@[simp] theorem modSpan_tick : (d.modSpan k f).tick = d.tick := rfl
@[simp] theorem modSpan_focus : (d.modSpan k f).focus = d.focus := rfl
@[simp] theorem modSpan_occ : (d.modSpan k f).occ = d.occ := rfl
@[simp] theorem modSpan_opRound : (d.modSpan k f).opRound = d.opRound := rfl
end

/-! ### modPage -/

section
variable (d : Dev) (k : Nat) (f : Page → Page)
@[simp] theorem modPage_now : (d.modPage k f).now = d.now := rfl
@[simp] theorem modPage_spans : (d.modPage k f).spans = d.spans := rfl
@[simp] theorem modPage_ctxs : (d.modPage k f).ctxs = d.ctxs := rfl
@[simp] theorem modPage_graphs : (d.modPage k f).graphs = d.graphs := rfl
@[simp] theorem modPage_holds : (d.modPage k f).holds = d.holds := rfl
@[simp] theorem modPage_net : (d.modPage k f).net = d.net := rfl
@[simp] theorem modPage_combs : (d.modPage k f).combs = d.combs := rfl
@[simp] theorem modPage_slots : (d.modPage k f).slots = d.slots := rfl
@[simp] theorem modPage_loader : (d.modPage k f).loader = d.loader := rfl
@[simp] theorem modPage_mem : (d.modPage k f).mem = d.mem := rfl
@[simp] theorem modPage_leaven : (d.modPage k f).leaven = d.leaven := rfl
@[simp] theorem modPage_chans : (d.modPage k f).chans = d.chans := rfl
@[simp] theorem modPage_tiles : (d.modPage k f).tiles = d.tiles := rfl
@[simp] theorem modPage_sifters : (d.modPage k f).sifters = d.sifters := rfl
@[simp] theorem modPage_racks : (d.modPage k f).racks = d.racks := rfl
@[simp] theorem modPage_braid : (d.modPage k f).braid = d.braid := rfl
@[simp] theorem modPage_emsgs : (d.modPage k f).emsgs = d.emsgs := rfl
@[simp] theorem modPage_rankCache : (d.modPage k f).rankCache = d.rankCache := rfl
@[simp] theorem modPage_ctlq : (d.modPage k f).ctlq = d.ctlq := rfl
@[simp] theorem modPage_sb : (d.modPage k f).sb = d.sb := rfl
@[simp] theorem modPage_rt : (d.modPage k f).rt = d.rt := rfl
@[simp] theorem modPage_host : (d.modPage k f).host = d.host := rfl
@[simp] theorem modPage_glob : (d.modPage k f).glob = d.glob := rfl
@[simp] theorem modPage_dies : (d.modPage k f).dies = d.dies := rfl
@[simp] theorem modPage_offTiles : (d.modPage k f).offTiles = d.offTiles := rfl
@[simp] theorem modPage_tripped : (d.modPage k f).tripped = d.tripped := rfl
@[simp] theorem modPage_ids : (d.modPage k f).ids = d.ids := rfl
@[simp] theorem modPage_tick : (d.modPage k f).tick = d.tick := rfl
@[simp] theorem modPage_focus : (d.modPage k f).focus = d.focus := rfl
@[simp] theorem modPage_occ : (d.modPage k f).occ = d.occ := rfl
@[simp] theorem modPage_opRound : (d.modPage k f).opRound = d.opRound := rfl
end

/-! ### modCtx -/

section
variable (d : Dev) (k : Nat) (f : Ctx → Ctx)
@[simp] theorem modCtx_now : (d.modCtx k f).now = d.now := rfl
@[simp] theorem modCtx_spans : (d.modCtx k f).spans = d.spans := rfl
@[simp] theorem modCtx_pages : (d.modCtx k f).pages = d.pages := rfl
@[simp] theorem modCtx_graphs : (d.modCtx k f).graphs = d.graphs := rfl
@[simp] theorem modCtx_holds : (d.modCtx k f).holds = d.holds := rfl
@[simp] theorem modCtx_net : (d.modCtx k f).net = d.net := rfl
@[simp] theorem modCtx_combs : (d.modCtx k f).combs = d.combs := rfl
@[simp] theorem modCtx_slots : (d.modCtx k f).slots = d.slots := rfl
@[simp] theorem modCtx_loader : (d.modCtx k f).loader = d.loader := rfl
@[simp] theorem modCtx_mem : (d.modCtx k f).mem = d.mem := rfl
@[simp] theorem modCtx_leaven : (d.modCtx k f).leaven = d.leaven := rfl
@[simp] theorem modCtx_chans : (d.modCtx k f).chans = d.chans := rfl
@[simp] theorem modCtx_tiles : (d.modCtx k f).tiles = d.tiles := rfl
@[simp] theorem modCtx_sifters : (d.modCtx k f).sifters = d.sifters := rfl
@[simp] theorem modCtx_racks : (d.modCtx k f).racks = d.racks := rfl
@[simp] theorem modCtx_braid : (d.modCtx k f).braid = d.braid := rfl
@[simp] theorem modCtx_emsgs : (d.modCtx k f).emsgs = d.emsgs := rfl
@[simp] theorem modCtx_rankCache : (d.modCtx k f).rankCache = d.rankCache := rfl
@[simp] theorem modCtx_ctlq : (d.modCtx k f).ctlq = d.ctlq := rfl
@[simp] theorem modCtx_sb : (d.modCtx k f).sb = d.sb := rfl
@[simp] theorem modCtx_rt : (d.modCtx k f).rt = d.rt := rfl
@[simp] theorem modCtx_host : (d.modCtx k f).host = d.host := rfl
@[simp] theorem modCtx_glob : (d.modCtx k f).glob = d.glob := rfl
@[simp] theorem modCtx_dies : (d.modCtx k f).dies = d.dies := rfl
@[simp] theorem modCtx_offTiles : (d.modCtx k f).offTiles = d.offTiles := rfl
@[simp] theorem modCtx_tripped : (d.modCtx k f).tripped = d.tripped := rfl
@[simp] theorem modCtx_ids : (d.modCtx k f).ids = d.ids := rfl
@[simp] theorem modCtx_tick : (d.modCtx k f).tick = d.tick := rfl
@[simp] theorem modCtx_focus : (d.modCtx k f).focus = d.focus := rfl
@[simp] theorem modCtx_occ : (d.modCtx k f).occ = d.occ := rfl
@[simp] theorem modCtx_opRound : (d.modCtx k f).opRound = d.opRound := rfl
end

/-! ### modGraph -/

section
variable (d : Dev) (k : Nat) (f : Graph → Graph)
@[simp] theorem modGraph_now : (d.modGraph k f).now = d.now := rfl
@[simp] theorem modGraph_spans : (d.modGraph k f).spans = d.spans := rfl
@[simp] theorem modGraph_pages : (d.modGraph k f).pages = d.pages := rfl
@[simp] theorem modGraph_ctxs : (d.modGraph k f).ctxs = d.ctxs := rfl
@[simp] theorem modGraph_holds : (d.modGraph k f).holds = d.holds := rfl
@[simp] theorem modGraph_net : (d.modGraph k f).net = d.net := rfl
@[simp] theorem modGraph_combs : (d.modGraph k f).combs = d.combs := rfl
@[simp] theorem modGraph_slots : (d.modGraph k f).slots = d.slots := rfl
@[simp] theorem modGraph_loader : (d.modGraph k f).loader = d.loader := rfl
@[simp] theorem modGraph_mem : (d.modGraph k f).mem = d.mem := rfl
@[simp] theorem modGraph_leaven : (d.modGraph k f).leaven = d.leaven := rfl
@[simp] theorem modGraph_chans : (d.modGraph k f).chans = d.chans := rfl
@[simp] theorem modGraph_tiles : (d.modGraph k f).tiles = d.tiles := rfl
@[simp] theorem modGraph_sifters : (d.modGraph k f).sifters = d.sifters := rfl
@[simp] theorem modGraph_racks : (d.modGraph k f).racks = d.racks := rfl
@[simp] theorem modGraph_braid : (d.modGraph k f).braid = d.braid := rfl
@[simp] theorem modGraph_emsgs : (d.modGraph k f).emsgs = d.emsgs := rfl
@[simp] theorem modGraph_rankCache : (d.modGraph k f).rankCache = d.rankCache := rfl
@[simp] theorem modGraph_ctlq : (d.modGraph k f).ctlq = d.ctlq := rfl
@[simp] theorem modGraph_sb : (d.modGraph k f).sb = d.sb := rfl
@[simp] theorem modGraph_rt : (d.modGraph k f).rt = d.rt := rfl
@[simp] theorem modGraph_host : (d.modGraph k f).host = d.host := rfl
@[simp] theorem modGraph_glob : (d.modGraph k f).glob = d.glob := rfl
@[simp] theorem modGraph_dies : (d.modGraph k f).dies = d.dies := rfl
@[simp] theorem modGraph_offTiles : (d.modGraph k f).offTiles = d.offTiles := rfl
@[simp] theorem modGraph_tripped : (d.modGraph k f).tripped = d.tripped := rfl
@[simp] theorem modGraph_ids : (d.modGraph k f).ids = d.ids := rfl
@[simp] theorem modGraph_tick : (d.modGraph k f).tick = d.tick := rfl
@[simp] theorem modGraph_focus : (d.modGraph k f).focus = d.focus := rfl
@[simp] theorem modGraph_occ : (d.modGraph k f).occ = d.occ := rfl
@[simp] theorem modGraph_opRound : (d.modGraph k f).opRound = d.opRound := rfl
end

/-! ### modHold -/

section
variable (d : Dev) (k : Nat) (f : Hold → Hold)
@[simp] theorem modHold_now : (d.modHold k f).now = d.now := rfl
@[simp] theorem modHold_spans : (d.modHold k f).spans = d.spans := rfl
@[simp] theorem modHold_pages : (d.modHold k f).pages = d.pages := rfl
@[simp] theorem modHold_ctxs : (d.modHold k f).ctxs = d.ctxs := rfl
@[simp] theorem modHold_graphs : (d.modHold k f).graphs = d.graphs := rfl
@[simp] theorem modHold_net : (d.modHold k f).net = d.net := rfl
@[simp] theorem modHold_combs : (d.modHold k f).combs = d.combs := rfl
@[simp] theorem modHold_slots : (d.modHold k f).slots = d.slots := rfl
@[simp] theorem modHold_loader : (d.modHold k f).loader = d.loader := rfl
@[simp] theorem modHold_mem : (d.modHold k f).mem = d.mem := rfl
@[simp] theorem modHold_leaven : (d.modHold k f).leaven = d.leaven := rfl
@[simp] theorem modHold_chans : (d.modHold k f).chans = d.chans := rfl
@[simp] theorem modHold_tiles : (d.modHold k f).tiles = d.tiles := rfl
@[simp] theorem modHold_sifters : (d.modHold k f).sifters = d.sifters := rfl
@[simp] theorem modHold_racks : (d.modHold k f).racks = d.racks := rfl
@[simp] theorem modHold_braid : (d.modHold k f).braid = d.braid := rfl
@[simp] theorem modHold_emsgs : (d.modHold k f).emsgs = d.emsgs := rfl
@[simp] theorem modHold_rankCache : (d.modHold k f).rankCache = d.rankCache := rfl
@[simp] theorem modHold_ctlq : (d.modHold k f).ctlq = d.ctlq := rfl
@[simp] theorem modHold_sb : (d.modHold k f).sb = d.sb := rfl
@[simp] theorem modHold_rt : (d.modHold k f).rt = d.rt := rfl
@[simp] theorem modHold_host : (d.modHold k f).host = d.host := rfl
@[simp] theorem modHold_glob : (d.modHold k f).glob = d.glob := rfl
@[simp] theorem modHold_dies : (d.modHold k f).dies = d.dies := rfl
@[simp] theorem modHold_offTiles : (d.modHold k f).offTiles = d.offTiles := rfl
@[simp] theorem modHold_tripped : (d.modHold k f).tripped = d.tripped := rfl
@[simp] theorem modHold_ids : (d.modHold k f).ids = d.ids := rfl
@[simp] theorem modHold_tick : (d.modHold k f).tick = d.tick := rfl
@[simp] theorem modHold_focus : (d.modHold k f).focus = d.focus := rfl
@[simp] theorem modHold_occ : (d.modHold k f).occ = d.occ := rfl
@[simp] theorem modHold_opRound : (d.modHold k f).opRound = d.opRound := rfl
end

/-! ### modChan -/

section
variable (d : Dev) (k : Isle) (f : Chan → Chan)
@[simp] theorem modChan_now : (d.modChan k f).now = d.now := rfl
@[simp] theorem modChan_spans : (d.modChan k f).spans = d.spans := rfl
@[simp] theorem modChan_pages : (d.modChan k f).pages = d.pages := rfl
@[simp] theorem modChan_ctxs : (d.modChan k f).ctxs = d.ctxs := rfl
@[simp] theorem modChan_graphs : (d.modChan k f).graphs = d.graphs := rfl
@[simp] theorem modChan_holds : (d.modChan k f).holds = d.holds := rfl
@[simp] theorem modChan_net : (d.modChan k f).net = d.net := rfl
@[simp] theorem modChan_combs : (d.modChan k f).combs = d.combs := rfl
@[simp] theorem modChan_slots : (d.modChan k f).slots = d.slots := rfl
@[simp] theorem modChan_loader : (d.modChan k f).loader = d.loader := rfl
@[simp] theorem modChan_mem : (d.modChan k f).mem = d.mem := rfl
@[simp] theorem modChan_leaven : (d.modChan k f).leaven = d.leaven := rfl
@[simp] theorem modChan_tiles : (d.modChan k f).tiles = d.tiles := rfl
@[simp] theorem modChan_sifters : (d.modChan k f).sifters = d.sifters := rfl
@[simp] theorem modChan_racks : (d.modChan k f).racks = d.racks := rfl
@[simp] theorem modChan_braid : (d.modChan k f).braid = d.braid := rfl
@[simp] theorem modChan_emsgs : (d.modChan k f).emsgs = d.emsgs := rfl
@[simp] theorem modChan_rankCache : (d.modChan k f).rankCache = d.rankCache := rfl
@[simp] theorem modChan_ctlq : (d.modChan k f).ctlq = d.ctlq := rfl
@[simp] theorem modChan_sb : (d.modChan k f).sb = d.sb := rfl
@[simp] theorem modChan_rt : (d.modChan k f).rt = d.rt := rfl
@[simp] theorem modChan_host : (d.modChan k f).host = d.host := rfl
@[simp] theorem modChan_glob : (d.modChan k f).glob = d.glob := rfl
@[simp] theorem modChan_dies : (d.modChan k f).dies = d.dies := rfl
@[simp] theorem modChan_offTiles : (d.modChan k f).offTiles = d.offTiles := rfl
@[simp] theorem modChan_tripped : (d.modChan k f).tripped = d.tripped := rfl
@[simp] theorem modChan_ids : (d.modChan k f).ids = d.ids := rfl
@[simp] theorem modChan_tick : (d.modChan k f).tick = d.tick := rfl
@[simp] theorem modChan_focus : (d.modChan k f).focus = d.focus := rfl
@[simp] theorem modChan_occ : (d.modChan k f).occ = d.occ := rfl
@[simp] theorem modChan_opRound : (d.modChan k f).opRound = d.opRound := rfl
end

/-! ### modTile -/

section
variable (d : Dev) (k : Nat) (f : Tile → Tile)
@[simp] theorem modTile_now : (d.modTile k f).now = d.now := rfl
@[simp] theorem modTile_spans : (d.modTile k f).spans = d.spans := rfl
@[simp] theorem modTile_pages : (d.modTile k f).pages = d.pages := rfl
@[simp] theorem modTile_ctxs : (d.modTile k f).ctxs = d.ctxs := rfl
@[simp] theorem modTile_graphs : (d.modTile k f).graphs = d.graphs := rfl
@[simp] theorem modTile_holds : (d.modTile k f).holds = d.holds := rfl
@[simp] theorem modTile_net : (d.modTile k f).net = d.net := rfl
@[simp] theorem modTile_combs : (d.modTile k f).combs = d.combs := rfl
@[simp] theorem modTile_slots : (d.modTile k f).slots = d.slots := rfl
@[simp] theorem modTile_loader : (d.modTile k f).loader = d.loader := rfl
@[simp] theorem modTile_mem : (d.modTile k f).mem = d.mem := rfl
@[simp] theorem modTile_leaven : (d.modTile k f).leaven = d.leaven := rfl
@[simp] theorem modTile_chans : (d.modTile k f).chans = d.chans := rfl
@[simp] theorem modTile_sifters : (d.modTile k f).sifters = d.sifters := rfl
@[simp] theorem modTile_racks : (d.modTile k f).racks = d.racks := rfl
@[simp] theorem modTile_braid : (d.modTile k f).braid = d.braid := rfl
@[simp] theorem modTile_emsgs : (d.modTile k f).emsgs = d.emsgs := rfl
@[simp] theorem modTile_rankCache : (d.modTile k f).rankCache = d.rankCache := rfl
@[simp] theorem modTile_ctlq : (d.modTile k f).ctlq = d.ctlq := rfl
@[simp] theorem modTile_sb : (d.modTile k f).sb = d.sb := rfl
@[simp] theorem modTile_rt : (d.modTile k f).rt = d.rt := rfl
@[simp] theorem modTile_host : (d.modTile k f).host = d.host := rfl
@[simp] theorem modTile_glob : (d.modTile k f).glob = d.glob := rfl
@[simp] theorem modTile_dies : (d.modTile k f).dies = d.dies := rfl
@[simp] theorem modTile_offTiles : (d.modTile k f).offTiles = d.offTiles := rfl
@[simp] theorem modTile_tripped : (d.modTile k f).tripped = d.tripped := rfl
@[simp] theorem modTile_ids : (d.modTile k f).ids = d.ids := rfl
@[simp] theorem modTile_tick : (d.modTile k f).tick = d.tick := rfl
@[simp] theorem modTile_focus : (d.modTile k f).focus = d.focus := rfl
@[simp] theorem modTile_occ : (d.modTile k f).occ = d.occ := rfl
@[simp] theorem modTile_opRound : (d.modTile k f).opRound = d.opRound := rfl
end

/-! ### modSifter -/

section
variable (d : Dev) (k : Nat) (f : Sifter → Sifter)
@[simp] theorem modSifter_now : (d.modSifter k f).now = d.now := rfl
@[simp] theorem modSifter_spans : (d.modSifter k f).spans = d.spans := rfl
@[simp] theorem modSifter_pages : (d.modSifter k f).pages = d.pages := rfl
@[simp] theorem modSifter_ctxs : (d.modSifter k f).ctxs = d.ctxs := rfl
@[simp] theorem modSifter_graphs : (d.modSifter k f).graphs = d.graphs := rfl
@[simp] theorem modSifter_holds : (d.modSifter k f).holds = d.holds := rfl
@[simp] theorem modSifter_net : (d.modSifter k f).net = d.net := rfl
@[simp] theorem modSifter_combs : (d.modSifter k f).combs = d.combs := rfl
@[simp] theorem modSifter_slots : (d.modSifter k f).slots = d.slots := rfl
@[simp] theorem modSifter_loader : (d.modSifter k f).loader = d.loader := rfl
@[simp] theorem modSifter_mem : (d.modSifter k f).mem = d.mem := rfl
@[simp] theorem modSifter_leaven : (d.modSifter k f).leaven = d.leaven := rfl
@[simp] theorem modSifter_chans : (d.modSifter k f).chans = d.chans := rfl
@[simp] theorem modSifter_tiles : (d.modSifter k f).tiles = d.tiles := rfl
@[simp] theorem modSifter_racks : (d.modSifter k f).racks = d.racks := rfl
@[simp] theorem modSifter_braid : (d.modSifter k f).braid = d.braid := rfl
@[simp] theorem modSifter_emsgs : (d.modSifter k f).emsgs = d.emsgs := rfl
@[simp] theorem modSifter_rankCache : (d.modSifter k f).rankCache = d.rankCache := rfl
@[simp] theorem modSifter_ctlq : (d.modSifter k f).ctlq = d.ctlq := rfl
@[simp] theorem modSifter_sb : (d.modSifter k f).sb = d.sb := rfl
@[simp] theorem modSifter_rt : (d.modSifter k f).rt = d.rt := rfl
@[simp] theorem modSifter_host : (d.modSifter k f).host = d.host := rfl
@[simp] theorem modSifter_glob : (d.modSifter k f).glob = d.glob := rfl
@[simp] theorem modSifter_dies : (d.modSifter k f).dies = d.dies := rfl
@[simp] theorem modSifter_offTiles : (d.modSifter k f).offTiles = d.offTiles := rfl
@[simp] theorem modSifter_tripped : (d.modSifter k f).tripped = d.tripped := rfl
@[simp] theorem modSifter_ids : (d.modSifter k f).ids = d.ids := rfl
@[simp] theorem modSifter_tick : (d.modSifter k f).tick = d.tick := rfl
@[simp] theorem modSifter_focus : (d.modSifter k f).focus = d.focus := rfl
@[simp] theorem modSifter_occ : (d.modSifter k f).occ = d.occ := rfl
@[simp] theorem modSifter_opRound : (d.modSifter k f).opRound = d.opRound := rfl
end

/-! ### modRack -/

section
variable (d : Dev) (k : Nat) (f : Rack → Rack)
@[simp] theorem modRack_now : (d.modRack k f).now = d.now := rfl
@[simp] theorem modRack_spans : (d.modRack k f).spans = d.spans := rfl
@[simp] theorem modRack_pages : (d.modRack k f).pages = d.pages := rfl
@[simp] theorem modRack_ctxs : (d.modRack k f).ctxs = d.ctxs := rfl
@[simp] theorem modRack_graphs : (d.modRack k f).graphs = d.graphs := rfl
@[simp] theorem modRack_holds : (d.modRack k f).holds = d.holds := rfl
@[simp] theorem modRack_net : (d.modRack k f).net = d.net := rfl
@[simp] theorem modRack_combs : (d.modRack k f).combs = d.combs := rfl
@[simp] theorem modRack_slots : (d.modRack k f).slots = d.slots := rfl
@[simp] theorem modRack_loader : (d.modRack k f).loader = d.loader := rfl
@[simp] theorem modRack_mem : (d.modRack k f).mem = d.mem := rfl
@[simp] theorem modRack_leaven : (d.modRack k f).leaven = d.leaven := rfl
@[simp] theorem modRack_chans : (d.modRack k f).chans = d.chans := rfl
@[simp] theorem modRack_tiles : (d.modRack k f).tiles = d.tiles := rfl
@[simp] theorem modRack_sifters : (d.modRack k f).sifters = d.sifters := rfl
@[simp] theorem modRack_braid : (d.modRack k f).braid = d.braid := rfl
@[simp] theorem modRack_emsgs : (d.modRack k f).emsgs = d.emsgs := rfl
@[simp] theorem modRack_rankCache : (d.modRack k f).rankCache = d.rankCache := rfl
@[simp] theorem modRack_ctlq : (d.modRack k f).ctlq = d.ctlq := rfl
@[simp] theorem modRack_sb : (d.modRack k f).sb = d.sb := rfl
@[simp] theorem modRack_rt : (d.modRack k f).rt = d.rt := rfl
@[simp] theorem modRack_host : (d.modRack k f).host = d.host := rfl
@[simp] theorem modRack_glob : (d.modRack k f).glob = d.glob := rfl
@[simp] theorem modRack_dies : (d.modRack k f).dies = d.dies := rfl
@[simp] theorem modRack_offTiles : (d.modRack k f).offTiles = d.offTiles := rfl
@[simp] theorem modRack_tripped : (d.modRack k f).tripped = d.tripped := rfl
@[simp] theorem modRack_ids : (d.modRack k f).ids = d.ids := rfl
@[simp] theorem modRack_tick : (d.modRack k f).tick = d.tick := rfl
@[simp] theorem modRack_focus : (d.modRack k f).focus = d.focus := rfl
@[simp] theorem modRack_occ : (d.modRack k f).occ = d.occ := rfl
@[simp] theorem modRack_opRound : (d.modRack k f).opRound = d.opRound := rfl
end

/-! ### modDie -/

section
variable (d : Dev) (k : Nat) (f : DieSt → DieSt)
@[simp] theorem modDie_now : (d.modDie k f).now = d.now := rfl
@[simp] theorem modDie_spans : (d.modDie k f).spans = d.spans := rfl
@[simp] theorem modDie_pages : (d.modDie k f).pages = d.pages := rfl
@[simp] theorem modDie_ctxs : (d.modDie k f).ctxs = d.ctxs := rfl
@[simp] theorem modDie_graphs : (d.modDie k f).graphs = d.graphs := rfl
@[simp] theorem modDie_holds : (d.modDie k f).holds = d.holds := rfl
@[simp] theorem modDie_net : (d.modDie k f).net = d.net := rfl
@[simp] theorem modDie_combs : (d.modDie k f).combs = d.combs := rfl
@[simp] theorem modDie_slots : (d.modDie k f).slots = d.slots := rfl
@[simp] theorem modDie_loader : (d.modDie k f).loader = d.loader := rfl
@[simp] theorem modDie_mem : (d.modDie k f).mem = d.mem := rfl
@[simp] theorem modDie_leaven : (d.modDie k f).leaven = d.leaven := rfl
@[simp] theorem modDie_chans : (d.modDie k f).chans = d.chans := rfl
@[simp] theorem modDie_tiles : (d.modDie k f).tiles = d.tiles := rfl
@[simp] theorem modDie_sifters : (d.modDie k f).sifters = d.sifters := rfl
@[simp] theorem modDie_racks : (d.modDie k f).racks = d.racks := rfl
@[simp] theorem modDie_braid : (d.modDie k f).braid = d.braid := rfl
@[simp] theorem modDie_emsgs : (d.modDie k f).emsgs = d.emsgs := rfl
@[simp] theorem modDie_rankCache : (d.modDie k f).rankCache = d.rankCache := rfl
@[simp] theorem modDie_ctlq : (d.modDie k f).ctlq = d.ctlq := rfl
@[simp] theorem modDie_sb : (d.modDie k f).sb = d.sb := rfl
@[simp] theorem modDie_rt : (d.modDie k f).rt = d.rt := rfl
@[simp] theorem modDie_host : (d.modDie k f).host = d.host := rfl
@[simp] theorem modDie_glob : (d.modDie k f).glob = d.glob := rfl
@[simp] theorem modDie_offTiles : (d.modDie k f).offTiles = d.offTiles := rfl
@[simp] theorem modDie_tripped : (d.modDie k f).tripped = d.tripped := rfl
@[simp] theorem modDie_ids : (d.modDie k f).ids = d.ids := rfl
@[simp] theorem modDie_tick : (d.modDie k f).tick = d.tick := rfl
@[simp] theorem modDie_focus : (d.modDie k f).focus = d.focus := rfl
@[simp] theorem modDie_occ : (d.modDie k f).occ = d.occ := rfl
@[simp] theorem modDie_opRound : (d.modDie k f).opRound = d.opRound := rfl
end

/-! ### Reading after an update -/

@[simp] theorem span_modSpan (d : Dev) (k : Nat) (f : Span → Span) : (d.modSpan k f).span k = f (d.span k) := by
  simp [modSpan, span]
theorem span_modSpan_ne (d : Dev) (k j : Nat) (f : Span → Span) (h : j ≠ k) : (d.modSpan k f).span j = d.span j := by
  simp [modSpan, span, Tab.getD_set_ne _ _ h]
@[simp] theorem span_modPage (d : Dev) (j : Nat) (k : Nat) (f : Page → Page) : (d.modPage k f).span j = d.span j := rfl
@[simp] theorem span_modCtx (d : Dev) (j : Nat) (k : Nat) (f : Ctx → Ctx) : (d.modCtx k f).span j = d.span j := rfl
@[simp] theorem span_modGraph (d : Dev) (j : Nat) (k : Nat) (f : Graph → Graph) : (d.modGraph k f).span j = d.span j := rfl
@[simp] theorem span_modHold (d : Dev) (j : Nat) (k : Nat) (f : Hold → Hold) : (d.modHold k f).span j = d.span j := rfl
@[simp] theorem span_modChan (d : Dev) (j : Nat) (k : Isle) (f : Chan → Chan) : (d.modChan k f).span j = d.span j := rfl
@[simp] theorem span_modTile (d : Dev) (j : Nat) (k : Nat) (f : Tile → Tile) : (d.modTile k f).span j = d.span j := rfl
@[simp] theorem span_modSifter (d : Dev) (j : Nat) (k : Nat) (f : Sifter → Sifter) : (d.modSifter k f).span j = d.span j := rfl
@[simp] theorem span_modRack (d : Dev) (j : Nat) (k : Nat) (f : Rack → Rack) : (d.modRack k f).span j = d.span j := rfl
@[simp] theorem span_modDie (d : Dev) (j : Nat) (k : Nat) (f : DieSt → DieSt) : (d.modDie k f).span j = d.span j := rfl

@[simp] theorem page_modPage (d : Dev) (k : Nat) (f : Page → Page) : (d.modPage k f).page k = f (d.page k) := by
  simp [modPage, page]
theorem page_modPage_ne (d : Dev) (k j : Nat) (f : Page → Page) (h : j ≠ k) : (d.modPage k f).page j = d.page j := by
  simp [modPage, page, Tab.getD_set_ne _ _ h]
@[simp] theorem page_modSpan (d : Dev) (j : Nat) (k : Nat) (f : Span → Span) : (d.modSpan k f).page j = d.page j := rfl
@[simp] theorem page_modCtx (d : Dev) (j : Nat) (k : Nat) (f : Ctx → Ctx) : (d.modCtx k f).page j = d.page j := rfl
@[simp] theorem page_modGraph (d : Dev) (j : Nat) (k : Nat) (f : Graph → Graph) : (d.modGraph k f).page j = d.page j := rfl
@[simp] theorem page_modHold (d : Dev) (j : Nat) (k : Nat) (f : Hold → Hold) : (d.modHold k f).page j = d.page j := rfl
@[simp] theorem page_modChan (d : Dev) (j : Nat) (k : Isle) (f : Chan → Chan) : (d.modChan k f).page j = d.page j := rfl
@[simp] theorem page_modTile (d : Dev) (j : Nat) (k : Nat) (f : Tile → Tile) : (d.modTile k f).page j = d.page j := rfl
@[simp] theorem page_modSifter (d : Dev) (j : Nat) (k : Nat) (f : Sifter → Sifter) : (d.modSifter k f).page j = d.page j := rfl
@[simp] theorem page_modRack (d : Dev) (j : Nat) (k : Nat) (f : Rack → Rack) : (d.modRack k f).page j = d.page j := rfl
@[simp] theorem page_modDie (d : Dev) (j : Nat) (k : Nat) (f : DieSt → DieSt) : (d.modDie k f).page j = d.page j := rfl

@[simp] theorem ctx_modCtx (d : Dev) (k : Nat) (f : Ctx → Ctx) : (d.modCtx k f).ctx k = f (d.ctx k) := by
  simp [modCtx, ctx]
theorem ctx_modCtx_ne (d : Dev) (k j : Nat) (f : Ctx → Ctx) (h : j ≠ k) : (d.modCtx k f).ctx j = d.ctx j := by
  simp [modCtx, ctx, Tab.getD_set_ne _ _ h]
@[simp] theorem ctx_modSpan (d : Dev) (j : Nat) (k : Nat) (f : Span → Span) : (d.modSpan k f).ctx j = d.ctx j := rfl
@[simp] theorem ctx_modPage (d : Dev) (j : Nat) (k : Nat) (f : Page → Page) : (d.modPage k f).ctx j = d.ctx j := rfl
@[simp] theorem ctx_modGraph (d : Dev) (j : Nat) (k : Nat) (f : Graph → Graph) : (d.modGraph k f).ctx j = d.ctx j := rfl
@[simp] theorem ctx_modHold (d : Dev) (j : Nat) (k : Nat) (f : Hold → Hold) : (d.modHold k f).ctx j = d.ctx j := rfl
@[simp] theorem ctx_modChan (d : Dev) (j : Nat) (k : Isle) (f : Chan → Chan) : (d.modChan k f).ctx j = d.ctx j := rfl
@[simp] theorem ctx_modTile (d : Dev) (j : Nat) (k : Nat) (f : Tile → Tile) : (d.modTile k f).ctx j = d.ctx j := rfl
@[simp] theorem ctx_modSifter (d : Dev) (j : Nat) (k : Nat) (f : Sifter → Sifter) : (d.modSifter k f).ctx j = d.ctx j := rfl
@[simp] theorem ctx_modRack (d : Dev) (j : Nat) (k : Nat) (f : Rack → Rack) : (d.modRack k f).ctx j = d.ctx j := rfl
@[simp] theorem ctx_modDie (d : Dev) (j : Nat) (k : Nat) (f : DieSt → DieSt) : (d.modDie k f).ctx j = d.ctx j := rfl

@[simp] theorem graph_modGraph (d : Dev) (k : Nat) (f : Graph → Graph) : (d.modGraph k f).graph k = f (d.graph k) := by
  simp [modGraph, graph]
theorem graph_modGraph_ne (d : Dev) (k j : Nat) (f : Graph → Graph) (h : j ≠ k) : (d.modGraph k f).graph j = d.graph j := by
  simp [modGraph, graph, Tab.getD_set_ne _ _ h]
@[simp] theorem graph_modSpan (d : Dev) (j : Nat) (k : Nat) (f : Span → Span) : (d.modSpan k f).graph j = d.graph j := rfl
@[simp] theorem graph_modPage (d : Dev) (j : Nat) (k : Nat) (f : Page → Page) : (d.modPage k f).graph j = d.graph j := rfl
@[simp] theorem graph_modCtx (d : Dev) (j : Nat) (k : Nat) (f : Ctx → Ctx) : (d.modCtx k f).graph j = d.graph j := rfl
@[simp] theorem graph_modHold (d : Dev) (j : Nat) (k : Nat) (f : Hold → Hold) : (d.modHold k f).graph j = d.graph j := rfl
@[simp] theorem graph_modChan (d : Dev) (j : Nat) (k : Isle) (f : Chan → Chan) : (d.modChan k f).graph j = d.graph j := rfl
@[simp] theorem graph_modTile (d : Dev) (j : Nat) (k : Nat) (f : Tile → Tile) : (d.modTile k f).graph j = d.graph j := rfl
@[simp] theorem graph_modSifter (d : Dev) (j : Nat) (k : Nat) (f : Sifter → Sifter) : (d.modSifter k f).graph j = d.graph j := rfl
@[simp] theorem graph_modRack (d : Dev) (j : Nat) (k : Nat) (f : Rack → Rack) : (d.modRack k f).graph j = d.graph j := rfl
@[simp] theorem graph_modDie (d : Dev) (j : Nat) (k : Nat) (f : DieSt → DieSt) : (d.modDie k f).graph j = d.graph j := rfl

@[simp] theorem hold_modHold (d : Dev) (k : Nat) (f : Hold → Hold) : (d.modHold k f).hold k = f (d.hold k) := by
  simp [modHold, hold]
theorem hold_modHold_ne (d : Dev) (k j : Nat) (f : Hold → Hold) (h : j ≠ k) : (d.modHold k f).hold j = d.hold j := by
  simp [modHold, hold, Tab.getD_set_ne _ _ h]
@[simp] theorem hold_modSpan (d : Dev) (j : Nat) (k : Nat) (f : Span → Span) : (d.modSpan k f).hold j = d.hold j := rfl
@[simp] theorem hold_modPage (d : Dev) (j : Nat) (k : Nat) (f : Page → Page) : (d.modPage k f).hold j = d.hold j := rfl
@[simp] theorem hold_modCtx (d : Dev) (j : Nat) (k : Nat) (f : Ctx → Ctx) : (d.modCtx k f).hold j = d.hold j := rfl
@[simp] theorem hold_modGraph (d : Dev) (j : Nat) (k : Nat) (f : Graph → Graph) : (d.modGraph k f).hold j = d.hold j := rfl
@[simp] theorem hold_modChan (d : Dev) (j : Nat) (k : Isle) (f : Chan → Chan) : (d.modChan k f).hold j = d.hold j := rfl
@[simp] theorem hold_modTile (d : Dev) (j : Nat) (k : Nat) (f : Tile → Tile) : (d.modTile k f).hold j = d.hold j := rfl
@[simp] theorem hold_modSifter (d : Dev) (j : Nat) (k : Nat) (f : Sifter → Sifter) : (d.modSifter k f).hold j = d.hold j := rfl
@[simp] theorem hold_modRack (d : Dev) (j : Nat) (k : Nat) (f : Rack → Rack) : (d.modRack k f).hold j = d.hold j := rfl
@[simp] theorem hold_modDie (d : Dev) (j : Nat) (k : Nat) (f : DieSt → DieSt) : (d.modDie k f).hold j = d.hold j := rfl

@[simp] theorem chan_modChan (d : Dev) (k : Isle) (f : Chan → Chan) : (d.modChan k f).chan k = f (d.chan k) := by
  simp [modChan, chan]
theorem chan_modChan_ne (d : Dev) (k j : Isle) (f : Chan → Chan) (h : j.key ≠ k.key) : (d.modChan k f).chan j = d.chan j := by
  simp [modChan, chan, Tab.getD_set_ne _ _ h]
@[simp] theorem chan_modSpan (d : Dev) (j : Isle) (k : Nat) (f : Span → Span) : (d.modSpan k f).chan j = d.chan j := rfl
@[simp] theorem chan_modPage (d : Dev) (j : Isle) (k : Nat) (f : Page → Page) : (d.modPage k f).chan j = d.chan j := rfl
@[simp] theorem chan_modCtx (d : Dev) (j : Isle) (k : Nat) (f : Ctx → Ctx) : (d.modCtx k f).chan j = d.chan j := rfl
@[simp] theorem chan_modGraph (d : Dev) (j : Isle) (k : Nat) (f : Graph → Graph) : (d.modGraph k f).chan j = d.chan j := rfl
@[simp] theorem chan_modHold (d : Dev) (j : Isle) (k : Nat) (f : Hold → Hold) : (d.modHold k f).chan j = d.chan j := rfl
@[simp] theorem chan_modTile (d : Dev) (j : Isle) (k : Nat) (f : Tile → Tile) : (d.modTile k f).chan j = d.chan j := rfl
@[simp] theorem chan_modSifter (d : Dev) (j : Isle) (k : Nat) (f : Sifter → Sifter) : (d.modSifter k f).chan j = d.chan j := rfl
@[simp] theorem chan_modRack (d : Dev) (j : Isle) (k : Nat) (f : Rack → Rack) : (d.modRack k f).chan j = d.chan j := rfl
@[simp] theorem chan_modDie (d : Dev) (j : Isle) (k : Nat) (f : DieSt → DieSt) : (d.modDie k f).chan j = d.chan j := rfl

@[simp] theorem tile_modTile (d : Dev) (k : Nat) (f : Tile → Tile) : (d.modTile k f).tile k = f (d.tile k) := by
  simp [modTile, tile]
theorem tile_modTile_ne (d : Dev) (k j : Nat) (f : Tile → Tile) (h : j ≠ k) : (d.modTile k f).tile j = d.tile j := by
  simp [modTile, tile, Tab.getD_set_ne _ _ h]
@[simp] theorem tile_modSpan (d : Dev) (j : Nat) (k : Nat) (f : Span → Span) : (d.modSpan k f).tile j = d.tile j := rfl
@[simp] theorem tile_modPage (d : Dev) (j : Nat) (k : Nat) (f : Page → Page) : (d.modPage k f).tile j = d.tile j := rfl
@[simp] theorem tile_modCtx (d : Dev) (j : Nat) (k : Nat) (f : Ctx → Ctx) : (d.modCtx k f).tile j = d.tile j := rfl
@[simp] theorem tile_modGraph (d : Dev) (j : Nat) (k : Nat) (f : Graph → Graph) : (d.modGraph k f).tile j = d.tile j := rfl
@[simp] theorem tile_modHold (d : Dev) (j : Nat) (k : Nat) (f : Hold → Hold) : (d.modHold k f).tile j = d.tile j := rfl
@[simp] theorem tile_modChan (d : Dev) (j : Nat) (k : Isle) (f : Chan → Chan) : (d.modChan k f).tile j = d.tile j := rfl
@[simp] theorem tile_modSifter (d : Dev) (j : Nat) (k : Nat) (f : Sifter → Sifter) : (d.modSifter k f).tile j = d.tile j := rfl
@[simp] theorem tile_modRack (d : Dev) (j : Nat) (k : Nat) (f : Rack → Rack) : (d.modRack k f).tile j = d.tile j := rfl
@[simp] theorem tile_modDie (d : Dev) (j : Nat) (k : Nat) (f : DieSt → DieSt) : (d.modDie k f).tile j = d.tile j := rfl

@[simp] theorem sifter_modSifter (d : Dev) (k : Nat) (f : Sifter → Sifter) : (d.modSifter k f).sifter k = f (d.sifter k) := by
  simp [modSifter, sifter]
theorem sifter_modSifter_ne (d : Dev) (k j : Nat) (f : Sifter → Sifter) (h : j ≠ k) : (d.modSifter k f).sifter j = d.sifter j := by
  simp [modSifter, sifter, Tab.getD_set_ne _ _ h]
@[simp] theorem sifter_modSpan (d : Dev) (j : Nat) (k : Nat) (f : Span → Span) : (d.modSpan k f).sifter j = d.sifter j := rfl
@[simp] theorem sifter_modPage (d : Dev) (j : Nat) (k : Nat) (f : Page → Page) : (d.modPage k f).sifter j = d.sifter j := rfl
@[simp] theorem sifter_modCtx (d : Dev) (j : Nat) (k : Nat) (f : Ctx → Ctx) : (d.modCtx k f).sifter j = d.sifter j := rfl
@[simp] theorem sifter_modGraph (d : Dev) (j : Nat) (k : Nat) (f : Graph → Graph) : (d.modGraph k f).sifter j = d.sifter j := rfl
@[simp] theorem sifter_modHold (d : Dev) (j : Nat) (k : Nat) (f : Hold → Hold) : (d.modHold k f).sifter j = d.sifter j := rfl
@[simp] theorem sifter_modChan (d : Dev) (j : Nat) (k : Isle) (f : Chan → Chan) : (d.modChan k f).sifter j = d.sifter j := rfl
@[simp] theorem sifter_modTile (d : Dev) (j : Nat) (k : Nat) (f : Tile → Tile) : (d.modTile k f).sifter j = d.sifter j := rfl
@[simp] theorem sifter_modRack (d : Dev) (j : Nat) (k : Nat) (f : Rack → Rack) : (d.modRack k f).sifter j = d.sifter j := rfl
@[simp] theorem sifter_modDie (d : Dev) (j : Nat) (k : Nat) (f : DieSt → DieSt) : (d.modDie k f).sifter j = d.sifter j := rfl

@[simp] theorem rack_modRack (d : Dev) (k : Nat) (f : Rack → Rack) : (d.modRack k f).rack k = f (d.rack k) := by
  simp [modRack, rack]
theorem rack_modRack_ne (d : Dev) (k j : Nat) (f : Rack → Rack) (h : j ≠ k) : (d.modRack k f).rack j = d.rack j := by
  simp [modRack, rack, Tab.getD_set_ne _ _ h]
@[simp] theorem rack_modSpan (d : Dev) (j : Nat) (k : Nat) (f : Span → Span) : (d.modSpan k f).rack j = d.rack j := rfl
@[simp] theorem rack_modPage (d : Dev) (j : Nat) (k : Nat) (f : Page → Page) : (d.modPage k f).rack j = d.rack j := rfl
@[simp] theorem rack_modCtx (d : Dev) (j : Nat) (k : Nat) (f : Ctx → Ctx) : (d.modCtx k f).rack j = d.rack j := rfl
@[simp] theorem rack_modGraph (d : Dev) (j : Nat) (k : Nat) (f : Graph → Graph) : (d.modGraph k f).rack j = d.rack j := rfl
@[simp] theorem rack_modHold (d : Dev) (j : Nat) (k : Nat) (f : Hold → Hold) : (d.modHold k f).rack j = d.rack j := rfl
@[simp] theorem rack_modChan (d : Dev) (j : Nat) (k : Isle) (f : Chan → Chan) : (d.modChan k f).rack j = d.rack j := rfl
@[simp] theorem rack_modTile (d : Dev) (j : Nat) (k : Nat) (f : Tile → Tile) : (d.modTile k f).rack j = d.rack j := rfl
@[simp] theorem rack_modSifter (d : Dev) (j : Nat) (k : Nat) (f : Sifter → Sifter) : (d.modSifter k f).rack j = d.rack j := rfl
@[simp] theorem rack_modDie (d : Dev) (j : Nat) (k : Nat) (f : DieSt → DieSt) : (d.modDie k f).rack j = d.rack j := rfl

@[simp] theorem die_modDie (d : Dev) (k : Nat) (f : DieSt → DieSt) (h : k < d.dies.length) : (d.modDie k f).die k = f (d.die k) := by
  simp only [modDie, die, modNth_getElem?_self, List.getElem?_eq_getElem h]; rfl
theorem die_modDie_ne (d : Dev) (k j : Nat) (f : DieSt → DieSt) (h : j ≠ k) : (d.modDie k f).die j = d.die j := by
  simp only [modDie, die, modNth_getElem?_ne f d.dies h]
@[simp] theorem die_modSpan (d : Dev) (j : Nat) (k : Nat) (f : Span → Span) : (d.modSpan k f).die j = d.die j := rfl
@[simp] theorem die_modPage (d : Dev) (j : Nat) (k : Nat) (f : Page → Page) : (d.modPage k f).die j = d.die j := rfl
@[simp] theorem die_modCtx (d : Dev) (j : Nat) (k : Nat) (f : Ctx → Ctx) : (d.modCtx k f).die j = d.die j := rfl
@[simp] theorem die_modGraph (d : Dev) (j : Nat) (k : Nat) (f : Graph → Graph) : (d.modGraph k f).die j = d.die j := rfl
@[simp] theorem die_modHold (d : Dev) (j : Nat) (k : Nat) (f : Hold → Hold) : (d.modHold k f).die j = d.die j := rfl
@[simp] theorem die_modChan (d : Dev) (j : Nat) (k : Isle) (f : Chan → Chan) : (d.modChan k f).die j = d.die j := rfl
@[simp] theorem die_modTile (d : Dev) (j : Nat) (k : Nat) (f : Tile → Tile) : (d.modTile k f).die j = d.die j := rfl
@[simp] theorem die_modSifter (d : Dev) (j : Nat) (k : Nat) (f : Sifter → Sifter) : (d.modSifter k f).die j = d.die j := rfl
@[simp] theorem die_modRack (d : Dev) (j : Nat) (k : Nat) (f : Rack → Rack) : (d.modRack k f).die j = d.die j := rfl

end Sys2Proof.Machine.Dev
end

