-- ==== Sys2Proof/Laws/Firing.lean ====
section
/-! SUPPORT. Laws of firings: what the one shape of a firing does where it goes ahead, and what sending tokens and taking operands leave. -/

namespace Sys2Proof.Machine

/-! ### A firing that goes ahead -/

/-- The destinations of a firing are checked only when it emits; where every one of them exists, both ways give them. -/
theorem destCheck_ok {d : Dev} {key : Nat} {n : NodeRec} {r : Option Dest × Option Dest} (h : resolveBoth d key n = .ok r)
    (ha : dstCause n.dsta = none) (hb : dstCause n.dstb = none) (e : Bool) : destCheck d key n e = .ok r := by
  cases e <;> simp [destCheck, h, ha, hb, orCause]

theorem fire_ready {i : Instr} {n : NodeRec} {pl : Plan} {d : Dev} {x : Fire} (h : Ready i n pl.ports pl.extra d x)
    (hw : pl.waits { x with a := none, b := none } d = false) (hc : pl.check x d = none) : fire i n pl d = pl.act x (taken x d) := by
  obtain ⟨f, n', o, a, b, lanes, cid⟩ := x
  obtain ⟨rfl, rfl, rfl, hctx, hrun, hop, hval, hnam, hpriv, hpoi, hgo, hdst, hsp⟩ := h
  have hp : (privileged i && !(d.ctx cid).priv) = false := by
    cases h : privileged i
    · rfl
    · simp [hpriv h]
  simp only at hctx hrun hop hval hnam hpoi hgo hdst hw hc hp
  obtain ⟨hf, ha, hb⟩ := nodeCause_parts hval
  unfold fire
  simp only [hctx, hrun, hop, hsp, hf, hnam, hp, hpoi, hgo, destCheck_ok hdst ha hb, hw, hc, Option.isSome_none, Bool.not_true, Bool.or_self,
    Bool.false_eq_true, if_false]
  rfl

/-- A firing with no wait and no fault of its own. -/
theorem fire_plain {i : Instr} {n : NodeRec} {ports : List Port} {act : Fire → Dev → Dev} {d : Dev} {x : Fire} (h : Ready i n ports [] d x) :
    fire i n { ports, act } d = act x (taken x d) := fire_ready h rfl rfl

/-! ### Sending tokens -/

/-- The tokens that a send adds to the networks, and nothing else changes. -/
theorem send_eq (d : Dev) (src : Src) (t : Token) : ∃ f, send d src t = { d with net := d.net ++ [f] } := ⟨_, rfl⟩

theorem sendAll_eq (d : Dev) (src : Src) (t : Token) (ds : List Dest) : ∃ l, sendAll d src t ds = { d with net := d.net ++ l } := by
  unfold sendAll
  induction ds generalizing d with
  | nil => exact ⟨[], by simp⟩
  | cons x ds ih =>
    obtain ⟨f, hf⟩ := send_eq d src { t with dest := x }
    obtain ⟨l, hl⟩ := ih { d with net := d.net ++ [f] }
    exact ⟨f :: l, by rw [List.foldl_cons, hf, hl]; simp⟩

/-- Taking a SEQ changes the firing span's own sequence counters at most. -/
theorem takeSeq_eq (x : Fire) (d : Dev) : ∃ g : Span → Span, (∀ s, ∃ q, g s = { s with seqs := q }) ∧
    ((takeSeq x d).2 = d.modSpan x.key g ∨ (takeSeq x d).2 = d) := by
  unfold takeSeq
  split
  · exact ⟨_, fun s => ⟨_, rfl⟩, .inl rfl⟩
  · exact ⟨id, fun s => ⟨s.seqs, rfl⟩, .inr rfl⟩

/-! ### Operands taken -/

/-- Taking the operands of a firing sends nothing. -/
theorem taken_net (x : Fire) (d : Dev) : (taken x d).net = d.net := rfl

/-- No page changes its context when operands are taken. -/
theorem taken_cidOf (x : Fire) (d : Dev) (p : Nat) : (taken x d).cidOf p = d.cidOf p := by
  unfold taken begin_ consume markFired Dev.cidOf Dev.modPage Dev.modSpan Dev.page
  by_cases h : p = pageOfFe x.f.span
  · subst h; simp
  · simp [Tab.getD_set_ne _ _ h]

/-- The firing span notes the cycle of its firing, and nothing else of it changes. -/
theorem taken_span (x : Fire) (d : Dev) : (taken x d).span x.key = { d.span x.key with fired := some d.now.toNat } := by
  unfold taken begin_ consume markFired Dev.modPage Dev.modSpan Dev.span
  simp [Fire.key]

end Sys2Proof.Machine
end

