-- ==== Sys2Proof/Laws/Memory.lean ====
section
/-! SUPPORT. Laws of memory: a read after a write, and every operation that writes the base contents keeps their canonical form. -/

namespace Sys2Proof.Machine

/-! ### The canonical form -/

theorem cellsWf_iff (l : List (Nat × Byte)) :
    cellsWf l = true ↔ l.Pairwise (fun x y => x.1 < y.1) ∧ ∀ e ∈ l, e.2 ≠ 0 := by
  induction l with
  | nil => simp [cellsWf]
  | cons e r ih =>
    obtain ⟨a, b⟩ := e
    cases r with
    | nil => simp [cellsWf]
    | cons e' r' =>
      obtain ⟨a', b'⟩ := e'
      simp only [cellsWf, Bool.and_eq_true, ih, bne_iff_ne, decide_eq_true_eq, List.pairwise_cons, List.mem_cons, forall_eq_or_imp]
      constructor
      · rintro ⟨⟨hb, ha⟩, ⟨h1, h2⟩, hb', h3⟩
        exact ⟨⟨⟨ha, fun x hx => Nat.lt_trans ha (h1 x hx)⟩, h1, h2⟩, hb, hb', h3⟩
      · rintro ⟨⟨⟨ha, -⟩, h1, h2⟩, hb, hb', h3⟩
        exact ⟨⟨hb, ha⟩, ⟨h1, h2⟩, hb', h3⟩

theorem mem_setCell {l : List (Nat × Byte)} {a : Nat} {b : Byte} {e : Nat × Byte} (h : e ∈ setCell l a b) : (e = (a, b) ∧ b ≠ 0) ∨ e ∈ l := by
  induction l with
  | nil =>
    simp only [setCell] at h
    split at h
    · simp at h
    · rename_i hb; exact .inl ⟨by simpa using h, hb⟩
  | cons x r ih =>
    obtain ⟨a', b'⟩ := x
    simp only [setCell] at h
    split at h
    · split at h
      · exact .inr h
      · rename_i hb
        rcases List.mem_cons.1 h with h | h
        · exact .inl ⟨h, hb⟩
        · exact .inr h
    · split at h
      · split at h
        · exact .inr (List.mem_cons_of_mem _ h)
        · rename_i hb
          rcases List.mem_cons.1 h with h | h
          · exact .inl ⟨h, hb⟩
          · exact .inr (List.mem_cons_of_mem _ h)
      · rcases List.mem_cons.1 h with h | h
        · exact .inr (h ▸ List.mem_cons_self ..)
        · rcases ih h with h | h
          · exact .inl h
          · exact .inr (List.mem_cons_of_mem _ h)

theorem setCell_wf {l : List (Nat × Byte)} (a : Nat) (b : Byte) (h : cellsWf l = true) : cellsWf (setCell l a b) = true := by
  rw [cellsWf_iff] at h ⊢
  obtain ⟨hp, hz⟩ := h
  refine ⟨?_, fun e he => (mem_setCell he).elim (fun h => h.1 ▸ h.2) (hz e)⟩
  induction l with
  | nil => simp only [setCell]; split <;> simp
  | cons x r ih =>
    obtain ⟨a', b'⟩ := x
    have hr := List.pairwise_cons.1 hp
    simp only [setCell]
    split
    · rename_i hlt
      split
      · exact hp
      · refine List.pairwise_cons.2 ⟨fun e he => ?_, hp⟩
        rcases List.mem_cons.1 he with he | he
        · rw [he]; exact hlt
        · exact Nat.lt_trans hlt (hr.1 e he)
    · split
      · split
        · exact hr.2
        · rename_i _ heq _
          exact List.pairwise_cons.2 ⟨fun e he => heq ▸ hr.1 e he, hr.2⟩
      · rename_i h1 h2
        refine List.pairwise_cons.2 ⟨fun e he => ?_, ih hr.2 fun e he => hz e (List.mem_cons_of_mem _ he)⟩
        rcases mem_setCell he with ⟨he, -⟩ | he
        · rw [he]; simp only; omega
        · exact hr.1 e he

theorem setBytes_wf {l : List (Nat × Byte)} (bs : List Byte) (a : Nat) (h : cellsWf l = true) : cellsWf (setBytes l a bs) = true := by
  induction bs generalizing l a with
  | nil => exact h
  | cons b bs ih => exact ih (a + 1) (setCell_wf a b h)

/-! ### Reading one byte -/

theorem getCell_setCell_ne (l : List (Nat × Byte)) {a x : Nat} (b : Byte) (h : x ≠ a) : getCell (setCell l a b) x = getCell l x := by
  have hx : (a == x) = false := beq_eq_false_iff_ne.2 (Ne.symm h)
  induction l with
  | nil => simp only [setCell]; split <;> simp [getCell, hx]
  | cons e r ih =>
    obtain ⟨a', b'⟩ := e
    simp only [setCell]
    split
    · split
      · rfl
      · simp [getCell, hx]
    · split
      · rename_i _ heq
        subst heq
        split <;> simp [getCell, hx]
      · simp only [getCell, List.find?_cons] at ih ⊢
        cases h' : a' == x <;> simp only
        · exact ih

theorem getCell_setCell {l : List (Nat × Byte)} (a : Nat) (b : Byte) (h : cellsWf l = true) : getCell (setCell l a b) a = b := by
  rw [cellsWf_iff] at h
  obtain ⟨hp, -⟩ := h
  induction l with
  | nil =>
    simp only [setCell]
    split
    · rename_i hb; simp [getCell, hb]
    · simp [getCell]
  | cons e r ih =>
    obtain ⟨a', b'⟩ := e
    have hr := List.pairwise_cons.1 hp
    have hnone : ∀ {c : Nat}, c ≤ a' → (List.find? (fun e : Nat × Byte => e.1 == c) r) = none := fun hc =>
      List.find?_eq_none.2 fun e he => by have := hr.1 e he; simp; omega
    simp only [setCell]
    split
    · rename_i hlt
      split
      · rename_i hb
        have : (a' == a) = false := by simp; omega
        simp [getCell, this, hnone (Nat.le_of_lt hlt), hb]
      · simp [getCell]
    · split
      · rename_i _ heq
        subst heq
        split
        · rename_i hb; simp [getCell, hnone (Nat.le_refl _), hb]
        · simp [getCell]
      · rename_i h1 h2
        have : (a' == a) = false := by simp; omega
        simp only [getCell, List.find?_cons, this] at ih ⊢
        exact ih hr.2

theorem getCell_setBytes_out (l : List (Nat × Byte)) (bs : List Byte) {a x : Nat} (h : x < a ∨ a + bs.length ≤ x) :
    getCell (setBytes l a bs) x = getCell l x := by
  induction bs generalizing l a with
  | nil => rfl
  | cons b bs ih =>
    simp only [setBytes, List.length_cons] at h ⊢
    rw [ih _ (by omega), getCell_setCell_ne _ _ (by omega)]

/-! ### Every operation on the base contents keeps the form -/

theorem applyEl_wf {m : Mem} {o : Party} {a : Nat} {bs : List Byte} {poi : List Nat} {full : Bool} {lv : Option Scope} (h : m.wf = true) :
    (applyEl m o a bs poi full lv).2.wf = true := h

theorem foldOne_wf {m : Mem} (h : m.wf = true) : (foldOne m).wf = true := by
  unfold foldOne
  split
  · split
    · exact setBytes_wf _ _ h
    · exact h
  · exact h

theorem writeNow_wf {m : Mem} {o : Party} {a : Nat} {bs : List Byte} {full : Bool} (h : m.wf = true) : (writeNow m o a bs full).wf = true := by
  unfold writeNow
  split
  · exact setBytes_wf _ _ h
  · exact h

theorem writeHome_wf {d : Dev} {o : Party} {a : Nat} {bs : List Byte} {full : Bool} (h : d.mem.wf = true) : (writeHome d o a bs full).mem.wf = true := by
  unfold writeHome
  simp only
  split
  · exact writeNow_wf h
  · split
    · exact writeNow_wf (writeNow_wf h)
    · exact writeNow_wf h

theorem logLine_mem (d : Dev) (c key : Nat) (old : List Byte) (poi : List Nat) : (logLine d c key old poi).mem = d.mem := by
  unfold logLine
  repeat' split
  all_goals rfl

theorem logRange_mem (d : Dev) (c a n : Nat) : (logRange d c a n).mem = d.mem := by
  unfold logRange
  generalize (List.range ((a + n + 63) / 64 - a / 64)).map (fun k => (a / 64 + k) * 64) = ls
  induction ls generalizing d with
  | nil => rfl
  | cons l ls ih => rw [List.foldl_cons, ih, logLine_mem]

theorem applyBoth_wf {d : Dev} {o : Party} {a : Nat} {bs : List Byte} {poi : List Nat} {full : Bool} {lv : Option Scope} (h : d.mem.wf = true) :
    (applyBoth d o a bs poi full lv).2.mem.wf = true := by
  unfold applyBoth
  simp only
  repeat' split
  all_goals exact h

theorem applyHome_wf {d : Dev} {c : Nat} {o : Party} {a : Nat} {bs : List Byte} {poi : List Nat} {full : Bool} {lv : Option Scope} (h : d.mem.wf = true) :
    (applyHome d c o a bs poi full lv).2.mem.wf = true := applyBoth_wf (by rw [logRange_mem]; exact h)

theorem writeRun_wf {d : Dev} {o : Party} {a : Nat} {bs : List Byte} (h : d.mem.wf = true) : (writeRun d o a bs).mem.wf = true := by
  unfold writeRun
  generalize linesOf (bs.length + 1) a bs = ls
  induction ls generalizing d with
  | nil => exact h
  | cons l ls ih => exact ih (writeHome_wf h)

/-- A write that waits for its place in home order changes no byte. -/
theorem queueEl_wf {d : Dev} {c : Nat} {o : Party} {a : Nat} {bs : List Byte} {poi : List Nat} {full : Bool} (h : d.mem.wf = true) :
    (queueEl d c o a bs poi full).2.mem.wf = true := h

theorem placeEl_wf {d : Dev} {p : Pend} (h : d.mem.wf = true) : (placeEl d p).mem.wf = true := by
  have hl : (logRange { d with opRound := p.round } p.cid p.el.addr p.el.bytes.length).mem = d.mem := logRange_mem _ _ _ _
  unfold placeEl
  simp only [hl]
  repeat' split
  all_goals exact h

theorem poisonHome_wf {m : Mem} {a n : Nat} (h : m.wf = true) : (poisonHome m a n).wf = true := by
  unfold poisonHome
  split <;> exact h

theorem copyLine_wf {d : Dev} {src dst : Nat} (h : d.mem.wf = true) : (copyLine d src dst).mem.wf = true := by
  unfold copyLine
  generalize homeBytes d.mem src 64 = bs
  generalize List.map (fun k => dst + 4 * k) _ = poi
  simp only
  split
  · exact setBytes_wf bs dst h
  · exact applyEl_wf h

theorem coldMem_wf {m : Mem} {caps : List Nat} (h : m.wf = true) : (coldMem m caps).wf = true := by
  have full : ∀ (ws : List WEl) (m : Mem), m.wf = true → (ws.foldl (fun (m : Mem) w =>
      { m with cells := setBytes m.cells w.addr w.bytes, poison := setPoison m.poison w.addr w.bytes.length w.poi w.full }) m).wf = true := by
    intro ws
    induction ws with
    | nil => exact fun m hm => hm
    | cons w ws ih => exact fun m hm => ih _ (setBytes_wf _ _ hm)
  have := (cellsWf_iff _).1 (full m.wlog m h)
  exact (cellsWf_iff _).2 ⟨this.1.filter _, fun e he => this.2 e (List.mem_filter.1 he).1⟩

/-- The memory of the machine after reset has the form. -/
theorem reset_mem_wf : State.reset.dev.mem.wf = true := rfl

end Sys2Proof.Machine
end

