-- ==== Sys2Proof/Laws/PerInstr.lean ====
section
/-! SUPPORT. Laws stated instruction by instruction. Family Opc: the opcode and the mode bits of a well-formed instruction select its own
constructor. -/

namespace Sys2Proof.Laws.Opc
open Sys2Proof.Machine

/-- What an instruction encodes as decodes to its constructor (R109, R110). -/
def Statement (i : Instr) : Prop :=
  ∀ (lanes : Nat) (x : Nat × Nat × NodeRec), WellFormed lanes i = true → partsOf i = some x →
    ∃ mk, ctorOf x.1 x.2.2.lit.toNat = .ok mk ∧ mk x.2.2 = i

/-- A step has no encoding. -/
theorem of_none {i : Instr} (h : partsOf i = none) : Statement i := fun _ _ _ hx => by rw [h] at hx; cases hx

/-- An opcode of one row. -/
theorem of_one {i : Instr} {op m : Nat} {n : NodeRec} {mk : NodeRec → Instr} (h : partsOf i = some (op, m, n))
    (hc : ctorOf op n.lit.toNat = .ok mk) (hm : mk n = i) : Statement i := fun _ x _ hx => by
  rw [h] at hx; cases hx; exact ⟨mk, hc, hm⟩

/-- An opcode of several rows, which the mode bits tell apart. -/
theorem of_mode {i : Instr} {op m : Nat} {n : NodeRec} {mk : NodeRec → Instr} {r : Row} {hi lo v : Nat} (h : partsOf i = some (op, m, n))
    (hr : rowOf i = some r) (hk : r.modeMask = (2 ^ (hi + 1 - lo) - 1) * 2 ^ lo) (hv : r.mode = v * 2 ^ lo)
    (hc : fld n.lit.toNat hi lo = v → ctorOf op n.lit.toNat = .ok mk) (hm : mk n = i) : Statement i := fun lanes x hw hx => by
  rw [h] at hx; cases hx
  refine ⟨mk, hc (fld_of_mask ?_), hm⟩
  rw [← hk, ← hv]
  exact mode_of_wellFormed h hr hw

theorem ctorOf_78 (lit : Nat) : ctorOf 0x78 lit = (match fld lit 0 0 with | 0 => .ok .cvtsDec | _ => .ok .cvtsEnc : Except DecodeError (NodeRec → Instr)) := rfl
theorem ctorOf_88 (lit : Nat) : ctorOf 0x88 lit = (match fld lit 0 0 with | 0 => .ok .vmaskSet | _ => .ok .vmaskGet : Except DecodeError (NodeRec → Instr)) := rfl
theorem ctorOf_A4 (lit : Nat) : ctorOf 0xA4 lit = (match fld lit 1 0 with | 0 => .ok .seqsIter | 1 => .ok .seqsLane | _ => .error .reservedMode : Except DecodeError (NodeRec → Instr)) := rfl
theorem ctorOf_A5 (lit : Nat) : ctorOf 0xA5 lit = (match fld lit 10 10 with | 0 => .ok .commitGet | _ => .ok .commitSet : Except DecodeError (NodeRec → Instr)) := rfl
theorem ctorOf_A8 (lit : Nat) : ctorOf 0xA8 lit = (match fld lit 0 0 with | 0 => .ok .doneGraph | _ => .ok .doneNext : Except DecodeError (NodeRec → Instr)) := rfl
theorem ctorOf_C1 (lit : Nat) : ctorOf 0xC1 lit = (match fld lit 18 18 with | 0 => .ok .bind | _ => .ok .bindUnbind : Except DecodeError (NodeRec → Instr)) := rfl
theorem ctorOf_D0 (lit : Nat) : ctorOf 0xD0 lit = (match fld lit 16 15 with | 0 => .ok .mtaskRun | 1 => .ok .mtaskDef | 2 => .ok .mtaskGo | _ => .error .reservedMode : Except DecodeError (NodeRec → Instr)) := rfl
theorem ctorOf_D2 (lit : Nat) : ctorOf 0xD2 lit = (match fld lit 16 15 with | 0 => .ok .mdrainTok | 1 => .ok .mdrainMem | 2 => .ok .mdrainRoute | _ => .error .reservedMode : Except DecodeError (NodeRec → Instr)) := rfl
theorem ctorOf_D4 (lit : Nat) : ctorOf 0xD4 lit = (match fld lit 16 15 with | 0 => .ok .mtrayCfg | 1 => .ok .mtrayPush | 2 => .ok .mtrayFlush | _ => .error .reservedMode : Except DecodeError (NodeRec → Instr)) := rfl
theorem ctorOf_E1 (lit : Nat) : ctorOf 0xE1 lit = (match fld lit 12 11 with | 0 => .ok .exdirBase | 1 => .ok .exdirWrite | 2 => .ok .exdirInval | _ => .error .reservedMode : Except DecodeError (NodeRec → Instr)) := rfl
theorem ctorOf_E2 (lit : Nat) : ctorOf 0xE2 lit = (match fld lit 12 11 with | 0 => .ok .combCfg | 1 => .ok .combSync | 2 => .ok .combStat | _ => .error .reservedMode : Except DecodeError (NodeRec → Instr)) := rfl
theorem ctorOf_F1 (lit : Nat) : ctorOf 0xF1 lit = (match fld lit 11 11 with | 0 => .ok .mpin | _ => .ok .mpinOff : Except DecodeError (NodeRec → Instr)) := rfl
theorem ctorOf_F2 (lit : Nat) : ctorOf 0xF2 lit = (match fld lit 13 11 with | 3 => .ok .mrdupMod | 4 => .ok .mrdupSys | _ => .error .reservedMode : Except DecodeError (NodeRec → Instr)) := rfl
theorem ctorOf_F7 (lit : Nat) : ctorOf 0xF7 lit = (match fld lit 12 11 with | 0 => .ok .bprobNorm | 1 => .ok .bprobMarg | 2 => .ok .bprobSamp | _ => .error .reservedMode : Except DecodeError (NodeRec → Instr)) := rfl
theorem ctorOf_FD (lit : Nat) : ctorOf 0xFD lit = (match fld lit 1 0 with | 0 => .ok .resumeRetry | 1 => .ok .resumeRelease | 2 => .ok .resumeKill | _ => .error .reservedMode : Except DecodeError (NodeRec → Instr)) := rfl

theorem id (n : NodeRec) : Statement (.id n) := of_one (mk := .id) rfl rfl rfl
theorem const (n : NodeRec) : Statement (.const n) := of_one (mk := .const) rfl rfl rfl
theorem add (n : NodeRec) : Statement (.add n) := of_one (mk := .add) rfl rfl rfl
theorem sub (n : NodeRec) : Statement (.sub n) := of_one (mk := .sub) rfl rfl rfl
theorem adds (n : NodeRec) : Statement (.adds n) := of_one (mk := .adds) rfl rfl rfl
theorem subs (n : NodeRec) : Statement (.subs n) := of_one (mk := .subs) rfl rfl rfl
theorem neg (n : NodeRec) : Statement (.neg n) := of_one (mk := .neg) rfl rfl rfl
theorem abs (n : NodeRec) : Statement (.abs n) := of_one (mk := .abs) rfl rfl rfl
theorem mul (n : NodeRec) : Statement (.mul n) := of_one (mk := .mul) rfl rfl rfl
theorem mulh (n : NodeRec) : Statement (.mulh n) := of_one (mk := .mulh) rfl rfl rfl
theorem mad (n : NodeRec) : Statement (.mad n) := of_one (mk := .mad) rfl rfl rfl
theorem div (n : NodeRec) : Statement (.div n) := of_one (mk := .div) rfl rfl rfl
theorem rem (n : NodeRec) : Statement (.rem n) := of_one (mk := .rem) rfl rfl rfl
theorem min (n : NodeRec) : Statement (.min n) := of_one (mk := .min) rfl rfl rfl
theorem max (n : NodeRec) : Statement (.max n) := of_one (mk := .max) rfl rfl rfl
theorem and (n : NodeRec) : Statement (.and n) := of_one (mk := .and) rfl rfl rfl
theorem or (n : NodeRec) : Statement (.or n) := of_one (mk := .or) rfl rfl rfl
theorem xor (n : NodeRec) : Statement (.xor n) := of_one (mk := .xor) rfl rfl rfl
theorem not (n : NodeRec) : Statement (.not n) := of_one (mk := .not) rfl rfl rfl
theorem andn (n : NodeRec) : Statement (.andn n) := of_one (mk := .andn) rfl rfl rfl
theorem shl (n : NodeRec) : Statement (.shl n) := of_one (mk := .shl) rfl rfl rfl
theorem shr (n : NodeRec) : Statement (.shr n) := of_one (mk := .shr) rfl rfl rfl
theorem sar (n : NodeRec) : Statement (.sar n) := of_one (mk := .sar) rfl rfl rfl
theorem rol (n : NodeRec) : Statement (.rol n) := of_one (mk := .rol) rfl rfl rfl
theorem clz (n : NodeRec) : Statement (.clz n) := of_one (mk := .clz) rfl rfl rfl
theorem popc (n : NodeRec) : Statement (.popc n) := of_one (mk := .popc) rfl rfl rfl
theorem brev (n : NodeRec) : Statement (.brev n) := of_one (mk := .brev) rfl rfl rfl
theorem bfx (n : NodeRec) : Statement (.bfx n) := of_one (mk := .bfx) rfl rfl rfl
theorem bfi (n : NodeRec) : Statement (.bfi n) := of_one (mk := .bfi) rfl rfl rfl
theorem sel (n : NodeRec) : Statement (.sel n) := of_one (mk := .sel) rfl rfl rfl
theorem cmpeq (n : NodeRec) : Statement (.cmpeq n) := of_one (mk := .cmpeq) rfl rfl rfl
theorem cmpne (n : NodeRec) : Statement (.cmpne n) := of_one (mk := .cmpne) rfl rfl rfl
theorem cmplt (n : NodeRec) : Statement (.cmplt n) := of_one (mk := .cmplt) rfl rfl rfl
theorem cmple (n : NodeRec) : Statement (.cmple n) := of_one (mk := .cmple) rfl rfl rfl
theorem cmpltn (n : NodeRec) : Statement (.cmpltn n) := of_one (mk := .cmpltn) rfl rfl rfl
theorem cmplen (n : NodeRec) : Statement (.cmplen n) := of_one (mk := .cmplen) rfl rfl rfl
theorem addc (n : NodeRec) : Statement (.addc n) := of_one (mk := .addc) rfl rfl rfl
theorem subb (n : NodeRec) : Statement (.subb n) := of_one (mk := .subb) rfl rfl rfl
theorem lea (n : NodeRec) : Statement (.lea n) := of_one (mk := .lea) rfl rfl rfl
theorem far (n : NodeRec) : Statement (.far n) := of_one (mk := .far) rfl rfl rfl
theorem tagv (n : NodeRec) : Statement (.tagv n) := of_one (mk := .tagv) rfl rfl rfl
theorem clamp (n : NodeRec) : Statement (.clamp n) := of_one (mk := .clamp) rfl rfl rfl
theorem hash (n : NodeRec) : Statement (.hash n) := of_one (mk := .hash) rfl rfl rfl
theorem rnd (n : NodeRec) : Statement (.rnd n) := of_one (mk := .rnd) rfl rfl rfl
theorem fadd (n : NodeRec) : Statement (.fadd n) := of_one (mk := .fadd) rfl rfl rfl
theorem fsub (n : NodeRec) : Statement (.fsub n) := of_one (mk := .fsub) rfl rfl rfl
theorem fmul (n : NodeRec) : Statement (.fmul n) := of_one (mk := .fmul) rfl rfl rfl
theorem ffma (n : NodeRec) : Statement (.ffma n) := of_one (mk := .ffma) rfl rfl rfl
theorem ffms (n : NodeRec) : Statement (.ffms n) := of_one (mk := .ffms) rfl rfl rfl
theorem fmin (n : NodeRec) : Statement (.fmin n) := of_one (mk := .fmin) rfl rfl rfl
theorem fmax (n : NodeRec) : Statement (.fmax n) := of_one (mk := .fmax) rfl rfl rfl
theorem fabs (n : NodeRec) : Statement (.fabs n) := of_one (mk := .fabs) rfl rfl rfl
theorem fneg (n : NodeRec) : Statement (.fneg n) := of_one (mk := .fneg) rfl rfl rfl
theorem fcmpeq (n : NodeRec) : Statement (.fcmpeq n) := of_one (mk := .fcmpeq) rfl rfl rfl
theorem fcmplt (n : NodeRec) : Statement (.fcmplt n) := of_one (mk := .fcmplt) rfl rfl rfl
theorem fcmple (n : NodeRec) : Statement (.fcmple n) := of_one (mk := .fcmple) rfl rfl rfl
theorem fcmpun (n : NodeRec) : Statement (.fcmpun n) := of_one (mk := .fcmpun) rfl rfl rfl
theorem frcp (n : NodeRec) : Statement (.frcp n) := of_one (mk := .frcp) rfl rfl rfl
theorem frsq (n : NodeRec) : Statement (.frsq n) := of_one (mk := .frsq) rfl rfl rfl
theorem fsqrt (n : NodeRec) : Statement (.fsqrt n) := of_one (mk := .fsqrt) rfl rfl rfl
theorem fdiv (n : NodeRec) : Statement (.fdiv n) := of_one (mk := .fdiv) rfl rfl rfl
theorem fexp2 (n : NodeRec) : Statement (.fexp2 n) := of_one (mk := .fexp2) rfl rfl rfl
theorem flog2 (n : NodeRec) : Statement (.flog2 n) := of_one (mk := .flog2) rfl rfl rfl
theorem fsin (n : NodeRec) : Statement (.fsin n) := of_one (mk := .fsin) rfl rfl rfl
theorem fcos (n : NodeRec) : Statement (.fcos n) := of_one (mk := .fcos) rfl rfl rfl
theorem ftanh (n : NodeRec) : Statement (.ftanh n) := of_one (mk := .ftanh) rfl rfl rfl
theorem frnd (n : NodeRec) : Statement (.frnd n) := of_one (mk := .frnd) rfl rfl rfl
theorem fclass (n : NodeRec) : Statement (.fclass n) := of_one (mk := .fclass) rfl rfl rfl
theorem fscale (n : NodeRec) : Statement (.fscale n) := of_one (mk := .fscale) rfl rfl rfl
theorem cvtf (n : NodeRec) : Statement (.cvtf n) := of_one (mk := .cvtf) rfl rfl rfl
theorem cvtfi (n : NodeRec) : Statement (.cvtfi n) := of_one (mk := .cvtfi) rfl rfl rfl
theorem cvtif (n : NodeRec) : Statement (.cvtif n) := of_one (mk := .cvtif) rfl rfl rfl
theorem cmul (n : NodeRec) : Statement (.cmul n) := of_one (mk := .cmul) rfl rfl rfl
theorem cfma (n : NodeRec) : Statement (.cfma n) := of_one (mk := .cfma) rfl rfl rfl
theorem dot2 (n : NodeRec) : Statement (.dot2 n) := of_one (mk := .dot2) rfl rfl rfl
theorem dot4 (n : NodeRec) : Statement (.dot4 n) := of_one (mk := .dot4) rfl rfl rfl
theorem amax (n : NodeRec) : Statement (.amax n) := of_one (mk := .amax) rfl rfl rfl
theorem scaleq (n : NodeRec) : Statement (.scaleq n) := of_one (mk := .scaleq) rfl rfl rfl
theorem qnt (n : NodeRec) : Statement (.qnt n) := of_one (mk := .qnt) rfl rfl rfl
theorem dqnt (n : NodeRec) : Statement (.dqnt n) := of_one (mk := .dqnt) rfl rfl rfl
theorem pack (n : NodeRec) : Statement (.pack n) := of_one (mk := .pack) rfl rfl rfl
theorem unpack (n : NodeRec) : Statement (.unpack n) := of_one (mk := .unpack) rfl rfl rfl
theorem stat (n : NodeRec) : Statement (.stat n) := of_one (mk := .stat) rfl rfl rfl
theorem ssum (n : NodeRec) : Statement (.ssum n) := of_one (mk := .ssum) rfl rfl rfl
theorem cvtsDec (n : NodeRec) : Statement (.cvtsDec n) :=
  of_mode (mk := .cvtsDec) (hi := 0) (lo := 0) (v := 0) rfl rfl rfl rfl (fun h => by rw [ctorOf_78, h]; rfl) rfl
theorem cvtsEnc (n : NodeRec) : Statement (.cvtsEnc n) :=
  of_mode (mk := .cvtsEnc) (hi := 0) (lo := 0) (v := 1) rfl rfl rfl rfl (fun h => by rw [ctorOf_78, h]; rfl) rfl
theorem bcast (n : NodeRec) : Statement (.bcast n) := of_one (mk := .bcast) rfl rfl rfl
theorem shuf (n : NodeRec) : Statement (.shuf n) := of_one (mk := .shuf) rfl rfl rfl
theorem perm (n : NodeRec) : Statement (.perm n) := of_one (mk := .perm) rfl rfl rfl
theorem red (n : NodeRec) : Statement (.red n) := of_one (mk := .red) rfl rfl rfl
theorem scan (n : NodeRec) : Statement (.scan n) := of_one (mk := .scan) rfl rfl rfl
theorem laneid (n : NodeRec) : Statement (.laneid n) := of_one (mk := .laneid) rfl rfl rfl
theorem split (n : NodeRec) : Statement (.split n) := of_one (mk := .split) rfl rfl rfl
theorem join (n : NodeRec) : Statement (.join n) := of_one (mk := .join) rfl rfl rfl
theorem vmaskSet (n : NodeRec) : Statement (.vmaskSet n) :=
  of_mode (mk := .vmaskSet) (hi := 0) (lo := 0) (v := 0) rfl rfl rfl rfl (fun h => by rw [ctorOf_88, h]; rfl) rfl
theorem vmaskGet (n : NodeRec) : Statement (.vmaskGet n) :=
  of_mode (mk := .vmaskGet) (hi := 0) (lo := 0) (v := 1) rfl rfl rfl rfl (fun h => by rw [ctorOf_88, h]; rfl) rfl
theorem compact (n : NodeRec) : Statement (.compact n) := of_one (mk := .compact) rfl rfl rfl
theorem expand (n : NodeRec) : Statement (.expand n) := of_one (mk := .expand) rfl rfl rfl
theorem steer (n : NodeRec) : Statement (.steer n) := of_one (mk := .steer) rfl rfl rfl
theorem merge (n : NodeRec) : Statement (.merge n) := of_one (mk := .merge) rfl rfl rfl
theorem carry (n : NodeRec) : Statement (.carry n) := of_one (mk := .carry) rfl rfl rfl
theorem loopb (n : NodeRec) : Statement (.loopb n) := of_one (mk := .loopb) rfl rfl rfl
theorem lexit (n : NodeRec) : Statement (.lexit n) := of_one (mk := .lexit) rfl rfl rfl
theorem fan (n : NodeRec) : Statement (.fan n) := of_one (mk := .fan) rfl rfl rfl
theorem sink (n : NodeRec) : Statement (.sink n) := of_one (mk := .sink) rfl rfl rfl
theorem gate (n : NodeRec) : Statement (.gate n) := of_one (mk := .gate) rfl rfl rfl
theorem ord (n : NodeRec) : Statement (.ord n) := of_one (mk := .ord) rfl rfl rfl
theorem fcall (n : NodeRec) : Statement (.fcall n) := of_one (mk := .fcall) rfl rfl rfl
theorem fretn (n : NodeRec) : Statement (.fretn n) := of_one (mk := .fretn) rfl rfl rfl
theorem stick (n : NodeRec) : Statement (.stick n) := of_one (mk := .stick) rfl rfl rfl
theorem purge (n : NodeRec) : Statement (.purge n) := of_one (mk := .purge) rfl rfl rfl
theorem eos (n : NodeRec) : Statement (.eos n) := of_one (mk := .eos) rfl rfl rfl
theorem eosw (n : NodeRec) : Statement (.eosw n) := of_one (mk := .eosw) rfl rfl rfl
theorem round (n : NodeRec) : Statement (.round n) := of_one (mk := .round) rfl rfl rfl
theorem tagset (n : NodeRec) : Statement (.tagset n) := of_one (mk := .tagset) rfl rfl rfl
theorem tagget (n : NodeRec) : Statement (.tagget n) := of_one (mk := .tagget) rfl rfl rfl
theorem timer (n : NodeRec) : Statement (.timer n) := of_one (mk := .timer) rfl rfl rfl
theorem cntr (n : NodeRec) : Statement (.cntr n) := of_one (mk := .cntr) rfl rfl rfl
theorem seqsIter (n : NodeRec) : Statement (.seqsIter n) :=
  of_mode (mk := .seqsIter) (hi := 1) (lo := 0) (v := 0) rfl rfl rfl rfl (fun h => by rw [ctorOf_A4, h]; rfl) rfl
theorem seqsLane (n : NodeRec) : Statement (.seqsLane n) :=
  of_mode (mk := .seqsLane) (hi := 1) (lo := 0) (v := 1) rfl rfl rfl rfl (fun h => by rw [ctorOf_A4, h]; rfl) rfl
theorem commitGet (n : NodeRec) : Statement (.commitGet n) :=
  of_mode (mk := .commitGet) (hi := 10) (lo := 10) (v := 0) rfl rfl rfl rfl (fun h => by rw [ctorOf_A5, h]; rfl) rfl
theorem commitSet (n : NodeRec) : Statement (.commitSet n) :=
  of_mode (mk := .commitSet) (hi := 10) (lo := 10) (v := 1) rfl rfl rfl rfl (fun h => by rw [ctorOf_A5, h]; rfl) rfl
theorem launch (n : NodeRec) : Statement (.launch n) := of_one (mk := .launch) rfl rfl rfl
theorem waitl (n : NodeRec) : Statement (.waitl n) := of_one (mk := .waitl) rfl rfl rfl
theorem doneGraph (n : NodeRec) : Statement (.doneGraph n) :=
  of_mode (mk := .doneGraph) (hi := 0) (lo := 0) (v := 0) rfl rfl rfl rfl (fun h => by rw [ctorOf_A8, h]; rfl) rfl
theorem doneNext (n : NodeRec) : Statement (.doneNext n) :=
  of_mode (mk := .doneNext) (hi := 0) (lo := 0) (v := 1) rfl rfl rfl rfl (fun h => by rw [ctorOf_A8, h]; rfl) rfl
theorem trap (n : NodeRec) : Statement (.trap n) := of_one (mk := .trap) rfl rfl rfl
theorem brk (n : NodeRec) : Statement (.brk n) := of_one (mk := .brk) rfl rfl rfl
theorem rdsr (n : NodeRec) : Statement (.rdsr n) := of_one (mk := .rdsr) rfl rfl rfl
theorem wrsr (n : NodeRec) : Statement (.wrsr n) := of_one (mk := .wrsr) rfl rfl rfl
theorem yield (n : NodeRec) : Statement (.yield n) := of_one (mk := .yield) rfl rfl rfl
theorem resumeRetry (n : NodeRec) : Statement (.resumeRetry n) :=
  of_mode (mk := .resumeRetry) (hi := 1) (lo := 0) (v := 0) rfl rfl rfl rfl (fun h => by rw [ctorOf_FD, h]; rfl) rfl
theorem resumeRelease (n : NodeRec) : Statement (.resumeRelease n) :=
  of_mode (mk := .resumeRelease) (hi := 1) (lo := 0) (v := 1) rfl rfl rfl rfl (fun h => by rw [ctorOf_FD, h]; rfl) rfl
theorem resumeKill (n : NodeRec) : Statement (.resumeKill n) :=
  of_mode (mk := .resumeKill) (hi := 1) (lo := 0) (v := 2) rfl rfl rfl rfl (fun h => by rw [ctorOf_FD, h]; rfl) rfl
theorem halt (n : NodeRec) : Statement (.halt n) := of_one (mk := .halt) rfl rfl rfl
theorem ld (n : NodeRec) : Statement (.ld n) := of_one (mk := .ld) rfl rfl rfl
theorem st (n : NodeRec) : Statement (.st n) := of_one (mk := .st) rfl rfl rfl
theorem lds (n : NodeRec) : Statement (.lds n) := of_one (mk := .lds) rfl rfl rfl
theorem sts (n : NodeRec) : Statement (.sts n) := of_one (mk := .sts) rfl rfl rfl
theorem ldg (n : NodeRec) : Statement (.ldg n) := of_one (mk := .ldg) rfl rfl rfl
theorem stg (n : NodeRec) : Statement (.stg n) := of_one (mk := .stg) rfl rfl rfl
theorem atom (n : NodeRec) : Statement (.atom n) := of_one (mk := .atom) rfl rfl rfl
theorem cas (n : NodeRec) : Statement (.cas n) := of_one (mk := .cas) rfl rfl rfl
theorem atomf (n : NodeRec) : Statement (.atomf n) := of_one (mk := .atomf) rfl rfl rfl
theorem atoms (n : NodeRec) : Statement (.atoms n) := of_one (mk := .atoms) rfl rfl rfl
theorem xlat (n : NodeRec) : Statement (.xlat n) := of_one (mk := .xlat) rfl rfl rfl
theorem ldp (n : NodeRec) : Statement (.ldp n) := of_one (mk := .ldp) rfl rfl rfl
theorem stp (n : NodeRec) : Statement (.stp n) := of_one (mk := .stp) rfl rfl rfl
theorem sbar (n : NodeRec) : Statement (.sbar n) := of_one (mk := .sbar) rfl rfl rfl
theorem fence (n : NodeRec) : Statement (.fence n) := of_one (mk := .fence) rfl rfl rfl
theorem flush (n : NodeRec) : Statement (.flush n) := of_one (mk := .flush) rfl rfl rfl
theorem inval (n : NodeRec) : Statement (.inval n) := of_one (mk := .inval) rfl rfl rfl
theorem bind (n : NodeRec) : Statement (.bind n) :=
  of_mode (mk := .bind) (hi := 18) (lo := 18) (v := 0) rfl rfl rfl rfl (fun h => by rw [ctorOf_C1, h]; rfl) rfl
theorem bindUnbind (n : NodeRec) : Statement (.bindUnbind n) :=
  of_mode (mk := .bindUnbind) (hi := 18) (lo := 18) (v := 1) rfl rfl rfl rfl (fun h => by rw [ctorOf_C1, h]; rfl) rfl
theorem msend (n : NodeRec) : Statement (.msend n) := of_one (mk := .msend) rfl rfl rfl
theorem mrecv (n : NodeRec) : Statement (.mrecv n) := of_one (mk := .mrecv) rfl rfl rfl
theorem pref (n : NodeRec) : Statement (.pref n) := of_one (mk := .pref) rfl rfl rfl
theorem ldnode (n : NodeRec) : Statement (.ldnode n) := of_one (mk := .ldnode) rfl rfl rfl
theorem wrnode (n : NodeRec) : Statement (.wrnode n) := of_one (mk := .wrnode) rfl rfl rfl
theorem mtaskRun (n : NodeRec) : Statement (.mtaskRun n) :=
  of_mode (mk := .mtaskRun) (hi := 16) (lo := 15) (v := 0) rfl rfl rfl rfl (fun h => by rw [ctorOf_D0, h]; rfl) rfl
theorem mtaskDef (n : NodeRec) : Statement (.mtaskDef n) :=
  of_mode (mk := .mtaskDef) (hi := 16) (lo := 15) (v := 1) rfl rfl rfl rfl (fun h => by rw [ctorOf_D0, h]; rfl) rfl
theorem mtaskGo (n : NodeRec) : Statement (.mtaskGo n) :=
  of_mode (mk := .mtaskGo) (hi := 16) (lo := 15) (v := 2) rfl rfl rfl rfl (fun h => by rw [ctorOf_D0, h]; rfl) rfl
theorem mzero (n : NodeRec) : Statement (.mzero n) := of_one (mk := .mzero) rfl rfl rfl
theorem mdrainTok (n : NodeRec) : Statement (.mdrainTok n) :=
  of_mode (mk := .mdrainTok) (hi := 16) (lo := 15) (v := 0) rfl rfl rfl rfl (fun h => by rw [ctorOf_D2, h]; rfl) rfl
theorem mdrainMem (n : NodeRec) : Statement (.mdrainMem n) :=
  of_mode (mk := .mdrainMem) (hi := 16) (lo := 15) (v := 1) rfl rfl rfl rfl (fun h => by rw [ctorOf_D2, h]; rfl) rfl
theorem mdrainRoute (n : NodeRec) : Statement (.mdrainRoute n) :=
  of_mode (mk := .mdrainRoute) (hi := 16) (lo := 15) (v := 2) rfl rfl rfl rfl (fun h => by rw [ctorOf_D2, h]; rfl) rfl
theorem mwload (n : NodeRec) : Statement (.mwload n) := of_one (mk := .mwload) rfl rfl rfl
theorem mtrayCfg (n : NodeRec) : Statement (.mtrayCfg n) :=
  of_mode (mk := .mtrayCfg) (hi := 16) (lo := 15) (v := 0) rfl rfl rfl rfl (fun h => by rw [ctorOf_D4, h]; rfl) rfl
theorem mtrayPush (n : NodeRec) : Statement (.mtrayPush n) :=
  of_mode (mk := .mtrayPush) (hi := 16) (lo := 15) (v := 1) rfl rfl rfl rfl (fun h => by rw [ctorOf_D4, h]; rfl) rfl
theorem mtrayFlush (n : NodeRec) : Statement (.mtrayFlush n) :=
  of_mode (mk := .mtrayFlush) (hi := 16) (lo := 15) (v := 2) rfl rfl rfl rfl (fun h => by rw [ctorOf_D4, h]; rfl) rfl
theorem mwait (n : NodeRec) : Statement (.mwait n) := of_one (mk := .mwait) rfl rfl rfl
theorem mscale (n : NodeRec) : Statement (.mscale n) := of_one (mk := .mscale) rfl rfl rfl
theorem mconv (n : NodeRec) : Statement (.mconv n) := of_one (mk := .mconv) rfl rfl rfl
theorem mstat (n : NodeRec) : Statement (.mstat n) := of_one (mk := .mstat) rfl rfl rfl
theorem route (n : NodeRec) : Statement (.route n) := of_one (mk := .route) rfl rfl rfl
theorem exdirBase (n : NodeRec) : Statement (.exdirBase n) :=
  of_mode (mk := .exdirBase) (hi := 12) (lo := 11) (v := 0) rfl rfl rfl rfl (fun h => by rw [ctorOf_E1, h]; rfl) rfl
theorem exdirWrite (n : NodeRec) : Statement (.exdirWrite n) :=
  of_mode (mk := .exdirWrite) (hi := 12) (lo := 11) (v := 1) rfl rfl rfl rfl (fun h => by rw [ctorOf_E1, h]; rfl) rfl
theorem exdirInval (n : NodeRec) : Statement (.exdirInval n) :=
  of_mode (mk := .exdirInval) (hi := 12) (lo := 11) (v := 2) rfl rfl rfl rfl (fun h => by rw [ctorOf_E1, h]; rfl) rfl
theorem combCfg (n : NodeRec) : Statement (.combCfg n) :=
  of_mode (mk := .combCfg) (hi := 12) (lo := 11) (v := 0) rfl rfl rfl rfl (fun h => by rw [ctorOf_E2, h]; rfl) rfl
theorem combSync (n : NodeRec) : Statement (.combSync n) :=
  of_mode (mk := .combSync) (hi := 12) (lo := 11) (v := 1) rfl rfl rfl rfl (fun h => by rw [ctorOf_E2, h]; rfl) rfl
theorem combStat (n : NodeRec) : Statement (.combStat n) :=
  of_mode (mk := .combStat) (hi := 12) (lo := 11) (v := 2) rfl rfl rfl rfl (fun h => by rw [ctorOf_E2, h]; rfl) rfl
theorem pcopy (n : NodeRec) : Statement (.pcopy n) := of_one (mk := .pcopy) rfl rfl rfl
theorem pgath (n : NodeRec) : Statement (.pgath n) := of_one (mk := .pgath) rfl rfl rfl
theorem pscat (n : NodeRec) : Statement (.pscat n) := of_one (mk := .pscat) rfl rfl rfl
theorem pfill (n : NodeRec) : Statement (.pfill n) := of_one (mk := .pfill) rfl rfl rfl
theorem pdec (n : NodeRec) : Statement (.pdec n) := of_one (mk := .pdec) rfl rfl rfl
theorem coll (n : NodeRec) : Statement (.coll n) := of_one (mk := .coll) rfl rfl rfl
theorem rlinv (n : NodeRec) : Statement (.rlinv n) := of_one (mk := .rlinv) rfl rfl rfl
theorem migr (n : NodeRec) : Statement (.migr n) := of_one (mk := .migr) rfl rfl rfl
theorem mpin (n : NodeRec) : Statement (.mpin n) :=
  of_mode (mk := .mpin) (hi := 11) (lo := 11) (v := 0) rfl rfl rfl rfl (fun h => by rw [ctorOf_F1, h]; rfl) rfl
theorem mpinOff (n : NodeRec) : Statement (.mpinOff n) :=
  of_mode (mk := .mpinOff) (hi := 11) (lo := 11) (v := 1) rfl rfl rfl rfl (fun h => by rw [ctorOf_F1, h]; rfl) rfl
theorem mrdupSys (n : NodeRec) : Statement (.mrdupSys n) :=
  of_mode (mk := .mrdupSys) (hi := 13) (lo := 11) (v := 4) rfl rfl rfl rfl (fun h => by rw [ctorOf_F2, h]; rfl) rfl
theorem mrdupMod (n : NodeRec) : Statement (.mrdupMod n) :=
  of_mode (mk := .mrdupMod) (hi := 13) (lo := 11) (v := 3) rfl rfl rfl rfl (fun h => by rw [ctorOf_F2, h]; rfl) rfl
theorem mhint (n : NodeRec) : Statement (.mhint n) := of_one (mk := .mhint) rfl rfl rfl
theorem bgate (n : NodeRec) : Statement (.bgate n) := of_one (mk := .bgate) rfl rfl rfl
theorem bswap (n : NodeRec) : Statement (.bswap n) := of_one (mk := .bswap) rfl rfl rfl
theorem bdiag (n : NodeRec) : Statement (.bdiag n) := of_one (mk := .bdiag) rfl rfl rfl
theorem bprobNorm (n : NodeRec) : Statement (.bprobNorm n) :=
  of_mode (mk := .bprobNorm) (hi := 12) (lo := 11) (v := 0) rfl rfl rfl rfl (fun h => by rw [ctorOf_F7, h]; rfl) rfl
theorem bprobMarg (n : NodeRec) : Statement (.bprobMarg n) :=
  of_mode (mk := .bprobMarg) (hi := 12) (lo := 11) (v := 1) rfl rfl rfl rfl (fun h => by rw [ctorOf_F7, h]; rfl) rfl
theorem bprobSamp (n : NodeRec) : Statement (.bprobSamp n) :=
  of_mode (mk := .bprobSamp) (hi := 12) (lo := 11) (v := 2) rfl rfl rfl rfl (fun h => by rw [ctorOf_F7, h]; rfl) rfl
theorem loopbAdmit : Statement .loopbAdmit := of_none rfl
theorem loopbRetire : Statement .loopbRetire := of_none rfl
theorem loopbExitRequest : Statement .loopbExitRequest := of_none rfl
theorem orderedSinkRelease : Statement .orderedSinkRelease := of_none rfl
theorem markerArrival : Statement .markerArrival := of_none rfl
theorem timerDue : Statement .timerDue := of_none rfl
theorem waitlRelease : Statement .waitlRelease := of_none rfl
theorem accessAccept : Statement .accessAccept := of_none rfl
theorem accessPerform : Statement .accessPerform := of_none rfl
theorem hearthChainComplete : Statement .hearthChainComplete := of_none rfl
theorem trayFire : Statement .trayFire := of_none rfl
theorem trayTimerExpiry : Statement .trayTimerExpiry := of_none rfl
theorem pdecPatchEmit : Statement .pdecPatchEmit := of_none rfl
theorem collSrcfree : Statement .collSrcfree := of_none rfl
theorem collLocaldone : Statement .collLocaldone := of_none rfl
theorem collAlldone : Statement .collAlldone := of_none rfl
theorem braidTaskStart : Statement .braidTaskStart := of_none rfl
theorem engineTaskComplete : Statement .engineTaskComplete := of_none rfl
theorem islandPacketAccept : Statement .islandPacketAccept := of_none rfl
theorem islandResultDelivery : Statement .islandResultDelivery := of_none rfl
theorem tokenArrival : Statement .tokenArrival := of_none rfl
theorem spillInsert : Statement .spillInsert := of_none rfl
theorem spillLookup : Statement .spillLookup := of_none rfl
theorem switchCombine : Statement .switchCombine := of_none rfl
theorem manifestArrival : Statement .manifestArrival := of_none rfl
theorem dispatchArrival : Statement .dispatchArrival := of_none rfl
theorem contribArrival : Statement .contribArrival := of_none rfl
theorem nullArrival : Statement .nullArrival := of_none rfl
theorem creditArrival : Statement .creditArrival := of_none rfl
theorem overflowQueueScan : Statement .overflowQueueScan := of_none rfl
theorem rackRowCommit : Statement .rackRowCommit := of_none rfl
theorem directoryFill : Statement .directoryFill := of_none rfl
theorem shootdownComplete : Statement .shootdownComplete := of_none rfl
theorem migrationEnter : Statement .migrationEnter := of_none rfl
theorem migrationCopyLine : Statement .migrationCopyLine := of_none rfl
theorem migrationSwitch : Statement .migrationSwitch := of_none rfl
theorem migrationAbort : Statement .migrationAbort := of_none rfl
theorem migrationDeadline : Statement .migrationDeadline := of_none rfl
theorem hotDecay : Statement .hotDecay := of_none rfl
theorem tieringEvaluation : Statement .tieringEvaluation := of_none rfl
theorem expertResidencyAction : Statement .expertResidencyAction := of_none rfl
theorem popularityDecay : Statement .popularityDecay := of_none rfl
theorem uncorrectableError : Statement .uncorrectableError := of_none rfl
theorem rollback : Statement .rollback := of_none rfl
theorem faultPost : Statement .faultPost := of_none rfl
theorem msfullHandling : Statement .msfullHandling := of_none rfl
theorem loaderDecision : Statement .loaderDecision := of_none rfl
theorem deficitExhausted : Statement .deficitExhausted := of_none rfl
theorem loadBlocked : Statement .loadBlocked := of_none rfl
theorem placement : Statement .placement := of_none rfl
theorem preemptionRequest : Statement .preemptionRequest := of_none rfl
theorem preemptionSave : Statement .preemptionSave := of_none rfl
theorem forcedPreemption : Statement .forcedPreemption := of_none rfl
theorem relocation : Statement .relocation := of_none rfl
theorem compaction : Statement .compaction := of_none rfl
theorem compactionSkip : Statement .compactionSkip := of_none rfl
theorem loaderImageCheck : Statement .loaderImageCheck := of_none rfl
theorem contextCompletion : Statement .contextCompletion := of_none rfl
theorem ctxcfgEnSet : Statement .ctxcfgEnSet := of_none rfl
theorem ctxcfgEnClear : Statement .ctxcfgEnClear := of_none rfl
theorem contextFreed : Statement .contextFreed := of_none rfl
theorem stallcntWrite : Statement .stallcntWrite := of_none rfl
theorem tlbctlWrite : Statement .tlbctlWrite := of_none rfl
theorem errlogWrite : Statement .errlogWrite := of_none rfl
theorem prioWrite : Statement .prioWrite := of_none rfl
theorem weightWrite : Statement .weightWrite := of_none rfl
theorem spillRegisterWrite : Statement .spillRegisterWrite := of_none rfl
theorem registerWrite : Statement .registerWrite := of_none rfl
theorem partialRegisterWrite : Statement .partialRegisterWrite := of_none rfl
theorem lvshcmdRange : Statement .lvshcmdRange := of_none rfl
theorem lvshcmdAll : Statement .lvshcmdAll := of_none rfl
theorem lvstatWrite : Statement .lvstatWrite := of_none rfl
theorem sbpstClearCounters : Statement .sbpstClearCounters := of_none rfl
theorem sbpstDisable : Statement .sbpstDisable := of_none rfl
theorem sbpstTrain : Statement .sbpstTrain := of_none rfl
theorem sbidWrite : Statement .sbidWrite := of_none rfl
theorem ctxcmdPreempt : Statement .ctxcmdPreempt := of_none rfl
theorem ctxcmdHalt : Statement .ctxcmdHalt := of_none rfl
theorem ctxcmdClear : Statement .ctxcmdClear := of_none rfl
theorem ctxcmdKill : Statement .ctxcmdKill := of_none rfl
theorem brkstClear : Statement .brkstClear := of_none rfl
theorem dbgctlEnable : Statement .dbgctlEnable := of_none rfl
theorem dbgctlWerrClear : Statement .dbgctlWerrClear := of_none rfl
theorem debugWindowWrite : Statement .debugWindowWrite := of_none rfl
theorem ring : Statement .ring := of_none rfl
theorem iring : Statement .iring := of_none rfl
theorem hostBar2Access : Statement .hostBar2Access := of_none rfl
theorem functionLevelReset : Statement .functionLevelReset := of_none rfl
theorem spdmRequest : Statement .spdmRequest := of_none rfl
theorem measurementExtend : Statement .measurementExtend := of_none rfl
theorem recoveryVerify : Statement .recoveryVerify := of_none rfl
theorem coldReset : Statement .coldReset := of_none rfl
theorem flitReceive : Statement .flitReceive := of_none rfl
theorem portTrainingComplete : Statement .portTrainingComplete := of_none rfl
theorem routeLinkTimeout : Statement .routeLinkTimeout := of_none rfl
theorem remoteRequestArrival : Statement .remoteRequestArrival := of_none rfl
theorem responseTimeout : Statement .responseTimeout := of_none rfl
theorem collJoinTimeout : Statement .collJoinTimeout := of_none rfl
theorem eventArbitration : Statement .eventArbitration := of_none rfl
theorem throttleStart : Statement .throttleStart := of_none rfl
theorem throttleEnd : Statement .throttleEnd := of_none rfl
theorem thermalTrip : Statement .thermalTrip := of_none rfl
theorem clockCycle : Statement .clockCycle := of_none rfl
theorem spareRemapComplete : Statement .spareRemapComplete := of_none rfl
theorem weightStoreFillComplete : Statement .weightStoreFillComplete := of_none rfl
theorem sbctlEnWrite : Statement .sbctlEnWrite := of_none rfl
theorem completionTimeout : Statement .completionTimeout := of_none rfl
theorem cxlPortLinkDown : Statement .cxlPortLinkDown := of_none rfl

end Sys2Proof.Laws.Opc
end

