-- ==== Sys2Proof/Laws/Shape.lean ====
section
/-! SUPPORT. Every instruction answers a next state; all but the security processor's own steps act on the package alone. -/

namespace Sys2Proof.Machine

/-- An outcome that is a next state differing in the package alone. -/
def OnDev (s : State) (o : Out) : Prop := ∃ d, o = .next { s with dev := d }

theorem onDev_lift (f : Dev → Dev) (s : State) : OnDev s (lift f s) := ⟨_, rfl⟩
theorem onDev_next (s : State) : OnDev s (.next s) := ⟨s.dev, rfl⟩
theorem onDev_booted (f : Dev → Dev) (s : State) : OnDev s (booted f s) := by
  unfold booted; split
  · exact onDev_lift _ _
  · exact onDev_next _

theorem onDev_registerWrite (s : State) : OnDev s (execRegisterWrite s) := by
  unfold execRegisterWrite; split
  · exact onDev_lift _ _
  · exact onDev_lift _ _

theorem onDev_ring (s : State) : OnDev s (execRing s) := by
  unfold execRing windowStep; split <;> repeat (first | exact onDev_lift _ _ | exact onDev_next _ | split)

theorem onDev_iring (s : State) : OnDev s (execIring s) := by
  unfold execIring windowStep; split <;> repeat (first | exact onDev_lift _ _ | exact onDev_next _ | split)

theorem onDev_bar2 (s : State) : OnDev s (execHostBar2Access s) := by
  unfold execHostBar2Access; split <;> repeat (first | exact onDev_lift _ _ | exact onDev_next _ | split)

/-- The steps of the security processor on its own state. -/
def trustStep (i : Instr) : Bool :=
  match i with | .coldReset | .recoveryVerify | .measurementExtend | .dbgctlEnable | .spdmRequest => true | _ => false

theorem exec_onDev (i : Instr) (s : State) (h : trustStep i = false) : OnDev s (exec i s) := by
  cases i <;> first
    | exact ⟨_, rfl⟩
    | exact onDev_booted _ _
    | exact onDev_registerWrite _
    | exact onDev_ring _
    | exact onDev_iring _
    | exact onDev_bar2 _
    | exact absurd h (by decide)

theorem exec_next (i : Instr) (s : State) : ∃ d x, exec i s = .next { s with dev := d, sec := x } := by
  cases h : trustStep i with
  | false => obtain ⟨d, hd⟩ := exec_onDev i s h; exact ⟨d, s.sec, hd⟩
  | true => cases i <;> first | exact ⟨_, _, rfl⟩ | exact absurd h (by decide)

end Sys2Proof.Machine
end

