-- ==== Sys2Proof/Tests/Slice0.lean ====
section
/-! SUPPORT. Tests: ill-formed records, words written out from the encoding tables, and witnesses: for each statement, and each of its clauses, a
concrete state and operands that meet its hypotheses. -/

namespace Sys2Proof.Tests
set_option Elab.async false
open Sys2Proof Sys2Proof.Machine Sys2Proof.Claims

/-! ### Small states -/

/-- The firing of the site in focus, if its operands and destinations are there. -/
def fireOf (n : NodeRec) (ports : List Port) (d : Dev) : Option Fire :=
  match operandsOf d d.focus ports, resolveBoth d d.focus.span n, d.cidOf (pageOfFe d.focus.span) with
  | some o, .ok (a, b), some c => some ⟨d.focus, n, o, a, b, lanesOf (d.span d.focus.span).wid, c⟩
  | _, _, _ => none

def readyB (i : Instr) (n : NodeRec) (extra : List Dst) (d : Dev) (x : Fire) : Bool :=
  runs (d.graph x.cid) && (nodeCause i n x.lanes).isNone && namesOk i n d (pageOfFe d.focus.span) x.cid && (!privileged i || (d.ctx x.cid).priv) && !((x.o.p.map (·.poi)).getD false)
  && !suppresses n x.o && hasSpace d d.focus.span (named (n.dsta :: n.dstb :: extra))

/-- The firing is ready, and a test holds of it. -/
def fires (i : Instr) (n : NodeRec) (ports : List Port) (extra : List Dst) (d : Dev) (p : Fire → Bool) : Bool :=
  (fireOf n ports d).any fun x => readyB i n extra d x && p x

theorem ready_of {i : Instr} {n : NodeRec} {ports : List Port} {extra : List Dst} {d : Dev} {p : Fire → Bool}
    (h : fires i n ports extra d p = true) : ∃ x, Ready i n ports extra d x ∧ p x = true := by
  unfold fires at h
  cases hf : fireOf n ports d with
  | none => rw [hf] at h; cases h
  | some x =>
    rw [hf, Option.any_some, Bool.and_eq_true] at h
    refine ⟨x, ?_, h.2⟩
    have hb := h.1
    unfold readyB at hb
    simp only [Bool.and_eq_true] at hb
    obtain ⟨⟨⟨⟨⟨⟨h1, h2⟩, h0⟩, h3⟩, h4⟩, h5⟩, h6⟩ := hb
    unfold fireOf at hf
    split at hf
    case h_2 => cases hf
    case h_1 o a b c ho hr hc =>
      cases hf
      exact { site := rfl, record := rfl, lanes := rfl, context := hc, running := h1, operands := ho, valid := Option.isNone_iff_eq_none.mp h2, names := h0
              privilege := fun hp => (by rw [hp] at h3; exact h3), predicate := Bool.not_eq_true' _ ▸ h4, goes := Bool.not_eq_true' _ ▸ h5, dests := hr
              space := h6 }

/-- A record with no destination, or with one: port L of node 1 of its own span. -/
def rec_ (f : Fmt) (a : Ary) (lit : Nat) (dst : Dst := .none) : NodeRec :=
  { fmt := f, ary := a, prd := .none, tga := .keep, seq := false, dsta := dst, dstb := .none, lit := BitVec.ofNat 32 lit }
def next1 : Dst := .to 0 0 1 .l

/-- Eight lanes: the given integers, then valid zeros. -/
def pay (l : List Nat) : Payload := (l.map fun v => Lane.some v) ++ List.replicate (8 - l.length) (Lane.some 0)
def tokAt (q : Port) (p : Payload) : Token := { placedTok q with payload := p }

/-- Context 0 runs a load of one page; a record stands in slot 0 of FE (0,0), and a token of zeros on each port but as given. -/
def devOf (i : Instr) (l r c p : Payload := pay []) : Dev :=
  let d := placeRecord ((encode i).getD 0) { focus := placedSite }
  d.modPage 0 fun x => { x with toks := [⟨tokAt .l l, .store, false, .plain⟩, ⟨tokAt .r r, .store, false, .plain⟩, ⟨tokAt .c c, .store, false, .plain⟩,
    ⟨tokAt .p p, .store, false, .plain⟩] }
def stOf (d : Dev) : State := { dev := d, sec := { boot := 1 } }

/-! ### Ill-formed records, one for each check (R109 to R111) -/

def illFormed (mk : NodeRec → Instr) (n : NodeRec) : Bool := !WellFormed 8 (mk n)

theorem test_ill_fmt : illFormed .abs (rec_ .n32 .l 0) = true := by decide +kernel
theorem test_ill_ary : illFormed .add (rec_ .i32 .l 0) = true := by decide +kernel
theorem test_ill_prd : illFormed .steer (rec_ .i32 .l 0) = true := by decide +kernel
theorem test_ill_tga : illFormed .fcall (rec_ .i32 .l 0) = true := by decide +kernel
theorem test_ill_liti : illFormed .add { rec_ .i32 .lit 0 with tga := .liti } = true := by decide +kernel
theorem test_ill_reserved_lit : illFormed .steer { rec_ .i32 .l 2 with prd := .steer } = true := by decide +kernel
theorem test_ill_mode : illFormed .cvtsDec (rec_ .n32 .l 1) = true ∧ illFormed .mrdupMod (rec_ .i32 .l 0x0800) = true := by decide +kernel
theorem test_ill_seq : illFormed .far { rec_ .i32 .l 0 with seq := true } = true := by decide +kernel
theorem test_ill_dest_none : illFormed .far (rec_ .i32 .l 0 next1) = true := by decide +kernel
theorem test_ill_dx : illFormed .add (rec_ .i32 .lr 0 (.to 16 0 1 .l)) = true := by decide +kernel
theorem test_ill_dy : illFormed .add { rec_ .i32 .lr 0 with dstb := .to 0 16 1 .l } = true := by decide +kernel
theorem test_ill_node : illFormed .add (rec_ .i32 .lr 0 (.to 0 0 0x3FF .l)) = true := by decide +kernel
theorem test_ill_bit_field : illFormed .bfx (rec_ .i32 .l 0) = true ∧ illFormed .bfi (rec_ .i32 .lr (33 * 64)) = true := by decide +kernel
theorem test_ill_rounding : illFormed .frnd (rec_ .f32 .l 5) = true := by decide +kernel
theorem test_ill_conversion : illFormed .cvtf (rec_ .f32 .l 0) = true ∧ illFormed .cvtfi (rec_ .f32 .l 0x80) = true := by decide +kernel
theorem test_ill_part : illFormed .cvtif (rec_ .i32 .l 0x780) = true := by decide +kernel
theorem test_ill_block : illFormed .amax (rec_ .f32 .l 3) = true ∧ illFormed .scaleq (rec_ .f32 .l 0x10) = true := by decide +kernel
theorem test_ill_lanes : illFormed .split (rec_ .b32 .l 0) = true ∧ illFormed .join (rec_ .b32 .lr 0) = true := by decide +kernel
theorem test_ill_red : illFormed .red (rec_ .i32 .l 6) = true ∧ illFormed .scan (rec_ .f32 .l 3) = true := by decide +kernel
theorem test_ill_carry : illFormed .carry (rec_ .i32 .l 0) = true := by decide +kernel
theorem test_ill_loop : illFormed .loopb (rec_ .i32 .lrc (1 * 2 ^ 15)) = true := by decide +kernel
theorem test_ill_tagset : illFormed .tagset (rec_ .i32 .lr 0) = true := by decide +kernel
theorem test_ill_scope : illFormed .ld (rec_ .i32 .l 0x500) = true ∧ illFormed .fence (rec_ .i32 .l 0x500) = true := by decide +kernel
theorem test_ill_ord : illFormed .ld (rec_ .i32 .l 0x1000) = true ∧ illFormed .st (rec_ .i32 .lr 0x0800) = true := by decide +kernel
theorem test_ill_len : illFormed .ld (rec_ .i32 .l (9 * 2 ^ 13)) = true ∧ illFormed .ld (rec_ .i64 .l (1 * 2 ^ 13)) = true := by decide +kernel
theorem test_ill_atom : illFormed .atom (rec_ .i32 .lr (7 * 2 ^ 13)) = true ∧ illFormed .atomf (rec_ .f32 .lr 0) = true := by decide +kernel
theorem test_ill_route : illFormed .route (rec_ .i32 .lrc (8 * 2 ^ 17)) = true := by decide +kernel
theorem test_ill_gate : illFormed .bgate (rec_ .i32 .l (9 * 2 ^ 14)) = true ∧ illFormed .bdiag (rec_ .i32 .l (1 * 2 ^ 18)) = true := by decide +kernel
theorem test_ill_tier : illFormed .migr (rec_ .i32 .l (3 * 2 ^ 12)) = true ∧ illFormed .mhint (rec_ .i32 .l (3 * 2 ^ 11)) = true := by decide +kernel

/-! ### Words written out from the encoding (R86, R100, R109, and the opcode rows)

OPC W0[31:24], FMT [23:20], ARY [19:18], PRD [17:16], TGA [15:13], SEQ [12], DSTA over W0[11:0] and W1[31:22], DSTB W1[21:0], LIT W2; no
destination is 0x00_0FFC. So W0 and W1 of a record with neither are `opc fmt ary … 000 | 0FFC`-shaped: 0x…0_0003 and 0xFF00_0FFC. -/

def word (w0 w1 w2 : Nat) : Record := BitVec.ofNat 96 (w0 * 2 ^ 64 + w1 * 2 ^ 32 + w2)

-- ADD: 0x03, i32 0, ARY 01 (l, r); SUB.i64 with ARY 3: FMT 6, literal 7
theorem test_word_add : decodeRec (word 0x03040003 0xFF000FFC 0) = .ok (.add (rec_ .i32 .lr 0)) := by decide +kernel
theorem test_word_sub_lit : decodeRec (word 0x046C0003 0xFF000FFC 7) = .ok (.sub (rec_ .i64 .lit 7)) := by decide +kernel
-- FADD: 0x40, f32 8; DOT2: 0x5E, bf16x2 10, ARY 10
theorem test_word_fadd : decodeRec (word 0x40840003 0xFF000FFC 0) = .ok (.fadd (rec_ .f32 .lr 0)) := by decide +kernel
theorem test_word_dot2 : decodeRec (word 0x5EA80003 0xFF000FFC 0) = .ok (.dot2 (rec_ .bf16x2 .lrc 0)) := by decide +kernel
-- CVTS: 0x78, n32 1, DIR in LIT[0]; RED: 0x83, OP 1, OUT in LIT[8]
theorem test_word_cvts : decodeRec (word 0x78100003 0xFF000FFC 1) = .ok (.cvtsEnc (rec_ .n32 .l 1)) := by decide +kernel
theorem test_word_red : decodeRec (word 0x83000003 0xFF000FFC 0x101) = .ok (.red (rec_ .i32 .l 0x101)) := by decide +kernel
-- LOOPB: 0x93, ARY 10; W − 1 in LIT[14:0], B − 1 in LIT[29:15]
theorem test_word_loopb : decodeRec (word 0x93080003 0xFF000FFC 0x00018007) = .ok (.loopb (rec_ .i32 .lrc 0x18007)) := by decide +kernel
-- FCALL: 0x99, TGA 4 (100 in W0[15:13])
theorem test_word_fcall : decodeRec (word 0x99008003 0xFF000FFC 0) = .ok (.fcall { rec_ .i32 .l 0 with tga := .fnew }) := by decide +kernel
-- HALT: 0xFE (row F, column E of the opcode map)
theorem test_word_halt : decodeRec (word 0xFE000003 0xFF000FFC 5) = .ok (.halt (rec_ .i32 .l 5)) := by decide +kernel
-- LD: 0xB0; STREAM 3, SCOPE 1 in LIT[10:8], LEN 4 in LIT[19:13]
theorem test_word_ld : decodeRec (word 0xB0000003 0xFF000FFC 0x00008103) = .ok (.ld (rec_ .i32 .l 0x8103)) := by decide +kernel
-- MTASK: 0xD0, form in LIT[16:15]; PCOPY: 0xE3; MIGR: 0xF0 with its destination tier in LIT[13:12]; BGATE: 0xF4
theorem test_word_mtask : decodeRec (word 0xD0000003 0xFF000FFC 0x00008000) = .ok (.mtaskDef (rec_ .i32 .l 0x8000)) := by decide +kernel
theorem test_word_pcopy : decodeRec (word 0xE3000003 0xFF000FFC 0) = .ok (.pcopy (rec_ .i32 .l 0)) := by decide +kernel
theorem test_word_migr : decodeRec (word 0xF0000003 0xFF000FFC 0x1000) = .ok (.migr (rec_ .i32 .l 0x1000)) := by decide +kernel
theorem test_word_bgate : decodeRec (word 0xF4000003 0xFF000FFC 0) = .ok (.bgate (rec_ .i32 .l 0)) := by decide +kernel
-- destinations: DX −3 is 0b11101, DY 2 is 0b00010, node 700, port C (R104)
theorem test_word_dest : decodeRec (word 0x030C0E8A 0xBC800FFC 0xFFFFFFFF) = .ok (.add (rec_ .i32 .lit 0xFFFFFFFF (.to (-3) 2 700 .c))) := by decide +kernel
theorem test_word_illegal : decodeRec (word 0 0xFF000FFC 0) = .error .illegalOpcode ∧ decodeRec (word 0xFF000003 0xFF000FFC 0) = .error .illegalOpcode := by
  decide +kernel

/-! ### One word of every row of the opcode map (R110)

W0 is the opcode, FMT 8, ARY 01, PRD 01, TGA 001, SEQ 1 and the upper bits of DSTA; the mode bits stand in W2. -/

def rec1 (lit : Nat) : NodeRec :=
  { fmt := .f32, ary := .lr, prd := .t, tga := .inc, seq := true, dsta := .to (-3) 2 700 .c, dstb := .to 5 (-1) 3 .r, lit := BitVec.ofNat 32 lit }
def reads (l : List (Nat × Nat × (NodeRec → Instr))) : Bool :=
  l.all fun (e : Nat × Nat × (NodeRec → Instr)) => match decodeRec (word e.1 0xBC8BF00D e.2.1) with | .ok i => i == e.2.2 (rec1 e.2.1) | .error _ => false
theorem test_words_integer : reads ([(0x01853E8A, 0, .id), (0x02853E8A, 0, .const), (0x03853E8A, 0, .add), (0x04853E8A, 0, .sub), (0x05853E8A, 0, .adds), (0x06853E8A, 0, .subs),
    (0x07853E8A, 0, .neg), (0x08853E8A, 0, .abs), (0x09853E8A, 0, .mul), (0x0A853E8A, 0, .mulh), (0x0B853E8A, 0, .mad), (0x0C853E8A, 0, .div),
    (0x0D853E8A, 0, .rem), (0x0E853E8A, 0, .min), (0x0F853E8A, 0, .max), (0x10853E8A, 0, .and), (0x11853E8A, 0, .or), (0x12853E8A, 0, .xor),
    (0x13853E8A, 0, .not), (0x14853E8A, 0, .andn), (0x15853E8A, 0, .shl), (0x16853E8A, 0, .shr), (0x17853E8A, 0, .sar), (0x18853E8A, 0, .rol),
    (0x19853E8A, 0, .clz), (0x1A853E8A, 0, .popc), (0x1B853E8A, 0, .brev), (0x1C853E8A, 0, .bfx), (0x1D853E8A, 0, .bfi), (0x1E853E8A, 0, .sel),
    (0x1F853E8A, 0, .cmpeq), (0x20853E8A, 0, .cmpne), (0x21853E8A, 0, .cmplt), (0x22853E8A, 0, .cmple), (0x23853E8A, 0, .cmpltn),
    (0x24853E8A, 0, .cmplen), (0x25853E8A, 0, .addc), (0x26853E8A, 0, .subb), (0x27853E8A, 0, .lea),
    (0x28853E8A, 0, .far)] ++
   [(0x29853E8A, 0, .tagv), (0x2A853E8A, 0, .clamp), (0x2B853E8A, 0, .hash), (0x2C853E8A, 0, .rnd)]) = true := by decide +kernel
theorem test_words_float : reads ([(0x40853E8A, 0, .fadd), (0x41853E8A, 0, .fsub), (0x42853E8A, 0, .fmul), (0x43853E8A, 0, .ffma), (0x44853E8A, 0, .ffms), (0x45853E8A, 0, .fmin),
    (0x46853E8A, 0, .fmax), (0x47853E8A, 0, .fabs), (0x48853E8A, 0, .fneg), (0x49853E8A, 0, .fcmpeq), (0x4A853E8A, 0, .fcmplt),
    (0x4B853E8A, 0, .fcmple), (0x4C853E8A, 0, .fcmpun), (0x4D853E8A, 0, .frcp), (0x4E853E8A, 0, .frsq), (0x4F853E8A, 0, .fsqrt),
    (0x50853E8A, 0, .fdiv), (0x51853E8A, 0, .fexp2), (0x52853E8A, 0, .flog2), (0x53853E8A, 0, .fsin), (0x54853E8A, 0, .fcos), (0x55853E8A, 0, .ftanh),
    (0x56853E8A, 0, .frnd), (0x57853E8A, 0, .fclass), (0x58853E8A, 0, .fscale), (0x59853E8A, 0, .cvtf), (0x5A853E8A, 0, .cvtfi),
    (0x5B853E8A, 0, .cvtif), (0x5C853E8A, 0, .cmul), (0x5D853E8A, 0, .cfma), (0x5E853E8A, 0, .dot2), (0x5F853E8A, 0, .dot4)]) = true := by decide +kernel
theorem test_words_block_lane : reads ([(0x70853E8A, 0, .amax), (0x71853E8A, 0, .scaleq), (0x72853E8A, 0, .qnt), (0x73853E8A, 0, .dqnt), (0x74853E8A, 0, .pack), (0x75853E8A, 0, .unpack),
    (0x76853E8A, 0, .stat), (0x77853E8A, 0, .ssum), (0x78853E8A, 0, .cvtsDec), (0x78853E8A, 0x1, .cvtsEnc), (0x80853E8A, 0, .bcast),
    (0x81853E8A, 0, .shuf), (0x82853E8A, 0, .perm), (0x83853E8A, 0, .red), (0x84853E8A, 0, .scan), (0x85853E8A, 0, .laneid), (0x86853E8A, 0, .split),
    (0x87853E8A, 0, .join), (0x88853E8A, 0, .vmaskSet), (0x88853E8A, 0x1, .vmaskGet), (0x89853E8A, 0, .compact), (0x8A853E8A, 0, .expand)]) = true := by decide +kernel
theorem test_words_flow : reads ([(0x90853E8A, 0, .steer), (0x91853E8A, 0, .merge), (0x92853E8A, 0, .carry), (0x93853E8A, 0, .loopb), (0x94853E8A, 0, .lexit), (0x95853E8A, 0, .fan),
    (0x96853E8A, 0, .sink), (0x97853E8A, 0, .gate), (0x98853E8A, 0, .ord), (0x99853E8A, 0, .fcall), (0x9A853E8A, 0, .fretn), (0x9B853E8A, 0, .stick),
    (0x9C853E8A, 0, .purge), (0x9D853E8A, 0, .eos), (0x9E853E8A, 0, .eosw), (0x9F853E8A, 0, .round), (0xA0853E8A, 0, .tagset),
    (0xA1853E8A, 0, .tagget), (0xA2853E8A, 0, .timer), (0xA3853E8A, 0, .cntr), (0xA4853E8A, 0, .seqsIter), (0xA4853E8A, 0x1, .seqsLane),
    (0xA5853E8A, 0, .commitGet), (0xA5853E8A, 0x400, .commitSet), (0xA6853E8A, 0, .launch), (0xA7853E8A, 0, .waitl), (0xA8853E8A, 0, .doneGraph),
    (0xA8853E8A, 0x1, .doneNext)]) = true := by decide +kernel
theorem test_words_memory : reads ([(0xB0853E8A, 0, .ld), (0xB1853E8A, 0, .st), (0xB2853E8A, 0, .lds), (0xB3853E8A, 0, .sts), (0xB4853E8A, 0, .ldg), (0xB5853E8A, 0, .stg),
    (0xB6853E8A, 0, .atom), (0xB7853E8A, 0, .cas), (0xB8853E8A, 0, .atomf), (0xB9853E8A, 0, .atoms), (0xBA853E8A, 0, .xlat), (0xBB853E8A, 0, .ldp),
    (0xBC853E8A, 0, .stp), (0xBD853E8A, 0, .sbar), (0xBE853E8A, 0, .fence), (0xBF853E8A, 0, .flush), (0xC0853E8A, 0, .inval), (0xC1853E8A, 0, .bind),
    (0xC1853E8A, 0x40000, .bindUnbind), (0xC2853E8A, 0, .msend), (0xC3853E8A, 0, .mrecv), (0xC4853E8A, 0, .pref), (0xC5853E8A, 0, .ldnode),
    (0xC6853E8A, 0, .wrnode)]) = true := by decide +kernel
theorem test_words_engine : reads ([(0xD0853E8A, 0, .mtaskRun), (0xD0853E8A, 0x8000, .mtaskDef), (0xD0853E8A, 0x10000, .mtaskGo), (0xD1853E8A, 0, .mzero), (0xD2853E8A, 0, .mdrainTok),
    (0xD2853E8A, 0x8000, .mdrainMem), (0xD2853E8A, 0x10000, .mdrainRoute), (0xD3853E8A, 0, .mwload), (0xD4853E8A, 0, .mtrayCfg),
    (0xD4853E8A, 0x8000, .mtrayPush), (0xD4853E8A, 0x10000, .mtrayFlush), (0xD5853E8A, 0, .mwait), (0xD6853E8A, 0, .mscale), (0xD7853E8A, 0, .mconv),
    (0xD8853E8A, 0, .mstat), (0xE0853E8A, 0, .route), (0xE1853E8A, 0, .exdirBase), (0xE1853E8A, 0x800, .exdirWrite), (0xE1853E8A, 0x1000, .exdirInval),
    (0xE2853E8A, 0, .combCfg), (0xE2853E8A, 0x800, .combSync), (0xE2853E8A, 0x1000, .combStat), (0xE3853E8A, 0, .pcopy), (0xE4853E8A, 0, .pgath),
    (0xE5853E8A, 0, .pscat), (0xE6853E8A, 0, .pfill), (0xE7853E8A, 0, .pdec), (0xE8853E8A, 0, .coll), (0xE9853E8A, 0, .rlinv)]) = true := by decide +kernel
theorem test_words_system : reads ([(0xF0853E8A, 0, .migr), (0xF1853E8A, 0, .mpin), (0xF1853E8A, 0x800, .mpinOff), (0xF2853E8A, 0x1800, .mrdupMod), (0xF2853E8A, 0x2000, .mrdupSys),
    (0xF3853E8A, 0, .mhint), (0xF4853E8A, 0, .bgate), (0xF5853E8A, 0, .bswap), (0xF6853E8A, 0, .bdiag), (0xF7853E8A, 0, .bprobNorm),
    (0xF7853E8A, 0x800, .bprobMarg), (0xF7853E8A, 0x1000, .bprobSamp), (0xF8853E8A, 0, .trap), (0xF9853E8A, 0, .brk), (0xFA853E8A, 0, .rdsr),
    (0xFB853E8A, 0, .wrsr), (0xFC853E8A, 0, .yield), (0xFD853E8A, 0, .resumeRetry), (0xFD853E8A, 0x1, .resumeRelease), (0xFD853E8A, 0x2, .resumeKill),
    (0xFE853E8A, 0, .halt)]) = true := by decide +kernel

/-! ### Witnesses: encoding, steps, arithmetic -/

theorem wit_DecodeEncode : WellFormed 8 (.add (rec_ .i32 .lit 0xFFFFFFFF (.to 15 (-15) 0x3FE .p))) = true := by decide +kernel
theorem wit_EncodeDecode : decodeRec (word 0xFE000003 0xFF000FFC 5) = .ok (.halt (rec_ .i32 .l 5)) := test_word_halt
theorem wit_IllegalOpcodes : (word 0 0xFF000FFC 0) >>> 88 = 0x00 ∧ (word 0xFF000003 0xFF000FFC 0) >>> 88 = 0xFF := by decide +kernel

def addHere : State := { stOf (devOf (.add (rec_ .i32 .lr 0))) with agenda := [.fire placedSite] }
theorem wit_StepFires :
    addHere.agenda = [.fire placedSite] ∧ addHere.dev.tripped = false ∧ (addHere.dev.span 0).nodes.find? 0 = some (word 0x03040003 0xFF000FFC 0) ∧
    plainSite (.add (rec_ .i32 .lr 0)) = true ∧ (addHere.dev.span 0).fired ≠ some addHere.dev.now.toNat ∧
    (chosen addHere.dev 0 (candidates exec { addHere with agenda := [] } placedSite)).map (siteOf 0) = some placedSite := by decide +kernel
theorem wit_StepFires_next : ∃ t, exec (.add (rec_ .i32 .lr 0)) { addHere with agenda := [], dev := { addHere.dev with focus := placedSite, occ := .site placedSite } } = .next t :=
  ⟨_, rfl⟩
theorem wit_StepActs : ∃ s t : State, s.agenda = [Move.step .clockCycle .none] ∧ firesOnly .clockCycle = false ∧ s.dev.tripped = false ∧
    exec .clockCycle { s with agenda := [], dev := { s.dev with occ := .none } } = .next t :=
  ⟨{ agenda := [.step .clockCycle .none] }, _, rfl, rfl, rfl, rfl⟩
theorem wit_OneFiringACycle : ∃ s : State, s.agenda = [.fire placedSite] ∧ (s.dev.span 0).fired = some s.dev.now.toNat ∧ isFar (siteInstr s.dev placedSite) = false :=
  ⟨{ addHere with dev := addHere.dev.modSpan 0 fun x => { x with fired := some 0 } }, by decide +kernel⟩
theorem wit_SecInvKept : SecInv State.reset.sec := by unfold SecInv; decide +kernel
theorem wit_SecOnlyByItsSteps : ∃ t, exec .clockCycle State.reset = .next t ∧ Instr.clockCycle ≠ .coldReset := ⟨_, rfl, by decide⟩

-- for each arithmetic instruction, a format, an arity and a literal with which it fires on the small state
def integerCodes : List (Fmt × Ary × Nat) :=
  [(.i32, .l, 0), (.i32, .l, 0), (.i32, .lr, 0), (.i32, .lr, 0), (.i32, .lr, 0), (.i32, .lr, 0), (.i32, .l, 0), (.i32, .l, 0), (.i32, .lr, 0),
   (.i32, .lr, 0), (.i32, .lrc, 0), (.i32, .lr, 0), (.i32, .lr, 0), (.i32, .lr, 0), (.i32, .lr, 0), (.i32, .lr, 0), (.i32, .lr, 0), (.i32, .lr,
   0), (.i32, .l, 0), (.i32, .lr, 0), (.i32, .lr, 0), (.i32, .lr, 0), (.i32, .lr, 0), (.i32, .lr, 0), (.i32, .l, 0), (.i32, .l, 0), (.i32, .l,
   0), (.i32, .l, 64), (.i32, .lr, 64), (.i32, .lrc, 0), (.i32, .lr, 0), (.i32, .lr, 0), (.i32, .lr, 0), (.i32, .lr, 0), (.i32, .lr, 0), (.i32,
   .lr, 0), (.n32, .lrc, 0), (.n32, .lrc, 0), (.n64, .lr, 0), (.n32, .l, 0), (.i32, .lrc, 0), (.n32, .lr, 0), (.n32, .lr, 0)]

def floatCodes : List (Fmt × Ary × Nat) :=
  [(.f32, .lr, 0), (.f32, .lr, 0), (.f32, .lr, 0), (.f32, .lrc, 0), (.f32, .lrc, 0), (.f32, .lr, 0), (.f32, .lr, 0), (.f32, .l, 0), (.f32, .l,
   0), (.f32, .lr, 0), (.f32, .lr, 0), (.f32, .lr, 0), (.f32, .lr, 0), (.f32, .l, 0), (.f32, .l, 0), (.f32, .l, 0), (.f32, .lr, 0), (.f32, .l,
   0), (.f32, .l, 0), (.f32, .l, 0), (.f32, .l, 0), (.f32, .l, 0), (.f32, .l, 0), (.f32, .l, 0), (.f32, .lr, 0), (.f32, .l, 128), (.f32, .l, 0),
   (.i32, .l, 128), (.c64, .lr, 0), (.c64, .lrc, 0), (.bf16x2, .lr, 0), (.i8x4, .lr, 0)]

def blockCodes : List (Fmt × Ary × Nat) :=
  [(.f32, .l, 2), (.bf16x2, .l, 128), (.bf16x2, .l, 128), (.bf16x2, .l, 128), (.i8x4, .l, 1), (.i8x4, .l, 1), (.n32, .lr, 0), (.n32, .l, 0),
   (.n32, .l, 1)]

def laneCodes : List (Fmt × Ary × Nat) :=
  [(.n64, .l, 0), (.b32, .lr, 0), (.n64, .l, 0), (.i32, .l, 0), (.i32, .l, 0), (.n32, .l, 0), (.b32, .l, 0), (.b32, .lr, 0), (.b32, .lr, 0),
   (.b32, .l, 1), (.n64, .l, 0), (.n64, .lr, 0)]

/-- Every row of a table fires with its codes, on a span of 8 lanes, or of 16 (which SPLIT and JOIN need). -/
def allPlain (rows : List ArithRow) (codes : List (Fmt × Ary × Nat)) (wid : Nat := 0) : Bool :=
  rows.length == codes.length && (List.zip rows codes).all fun (e, c) =>
    let n := rec_ c.1 c.2.1 c.2.2
    fires (e.1 n) n (portsOf (e.1 n) n) [] ((devOf (e.1 n)).modSpan 0 fun s => { s with wid := wid }) fun _ => true

theorem wit_Integer : allPlain integerRows integerCodes = true := by decide +kernel
theorem wit_Float : allPlain floatRows floatCodes = true := by decide +kernel
theorem wit_Block : allPlain blockRows blockCodes = true := by decide +kernel
theorem wit_Lane : allPlain laneRows laneCodes 1 = true := by decide +kernel

/-- In the form of the statements: a ready firing of ADD with a destination, and one whose operand on R is not there. -/
theorem wit_ArithmeticFrame : ∃ x, Ready (.add (rec_ .i32 .lr 0)) (rec_ .i32 .lr 0) [.l, .r] [] (devOf (.add (rec_ .i32 .lr 0))) x ∧ true = true :=
  ready_of (p := fun _ => true) (by decide +kernel)
theorem wit_NotReady : operandsOf ((devOf (.add (rec_ .i32 .lr 0))).modPage 0 fun p => { p with toks := p.toks.take 1 }) placedSite [.l, .r] = none := by
  decide +kernel

/-- Sixteen tokens lie in the output queue of the span. -/
theorem wit_NotReady_space : let d := { devOf (.add (rec_ .i32 .lr 0 next1)) with net := List.replicate 16 ⟨0, .span 0, .elem, placedTok .l⟩ }
    hasSpace d 0 (named [next1, Dst.none]) = false := by decide +kernel

/-! ### Witnesses: results -/

def args (f : Fmt) (l r c : Payload) : Args :=
  { n := 8, fmt := f, lit := 0, ary := .lr, ftz := false, l := l, r := r, c := c, tag := placedTag, seq := 0, cls := .data, lvl := 0 }

/-- Lanes at the edges: largest, zero, the sign bit, and an invalid lane. -/
def edge : Payload := (pay [0xFFFFFFFF, 0, 0x80000000, 1]).set 3 .none
theorem wit_IntegerResults : Sized (args .i32 edge edge edge) ∧ (Fmt.i32, 32, true) ∈ intFormats ∧ (args .i64 edge edge edge).fmt = .i64 := by
  unfold Sized; decide +kernel
theorem wit_HashWords : fmtBits Fmt.n32 = 32 ∧ fmtBits Fmt.b32 = 32 := by decide +kernel
theorem wit_TagValues : ({ args .n32 edge edge edge with lit := 3 } : Args).lit = 3 := rfl

/-! ### Witnesses: dataflow control -/

/-- Records of the forwarding nodes, in the order of `forwarders`. -/
def forwarderRecs : List NodeRec :=
  [rec_ .i32 .lr 0 next1, rec_ .i32 .l 0 next1, rec_ .i32 .l 0 next1, rec_ .i32 .lr 0 next1, { rec_ .i32 .l 0 next1 with prd := .steer },
   { rec_ .i32 .l 1 next1 with prd := .steer }, rec_ .i32 .lr 0 next1, rec_ .i32 .l 7 next1, rec_ .i32 .l 0x7FFF next1, rec_ .i32 .l 0 next1,
   rec_ .i32 .lr 7 next1, rec_ .i32 .l 0 next1, rec_ .i32 .l 1 next1, rec_ .i32 .lr 0 next1, rec_ .i32 .l 1 next1]

/-- An ordered sink in slot 1 beside the record under test. -/
def sinkRec : NodeRec := { rec_ .i32 .l 0 with seq := true }
def withSink (d : Dev) : Dev := d.modSpan 0 fun s => { s with nodes := s.nodes ++ [(1, (encode (.sink sinkRec)).getD 0)] }

theorem wit_Forwarders : forwarders.length = forwarderRecs.length ∧ ((List.zip forwarders forwarderRecs).all fun (e, n) =>
    let d := withSink (devOf (e.ctor n))
    fires (e.ctor n) n (e.ports n d.focus) e.extra d fun _ => true) = true := by decide +kernel
theorem wit_Steer_whole : bitAt (rec_ .i32 .l 0).lit.toNat 0 = false ∧ bitAt (rec_ .i32 .l 1).lit.toNat 0 = true := by decide +kernel
theorem wit_CommitGet : ∃ m : NodeRec, nodeAt (withSink (devOf (.commitGet (rec_ .i32 .l 1)))) 0 1 = some (.sink m) ∧ m.seq = true :=
  ⟨sinkRec, by decide +kernel⟩

/-- FAN with its third destination, port C of node 2, in the literal; and with none there. -/
def fanRec : NodeRec := rec_ .i32 .l (2 * 2 ^ 2 + 2) next1
theorem wit_Fan : fires (.fan fanRec) fanRec [.l] [.to 0 0 2 .c] (devOf (.fan fanRec)) (fun x => decide (dstOfCode? (fld x.lit 21 0) = some (.to 0 0 2 .c))) = true ∧
    resolveDst (devOf (.fan fanRec)) 0 (.to 0 0 2 .c) = .ok (some ⟨0, 0, 0, 2, .c⟩) := by decide +kernel
theorem wit_Fan_none : let n := rec_ .i32 .l 0xFFC next1
    fires (.fan n) n [.l] [] (devOf (.fan n)) (fun x => decide (dstOfCode? (fld x.lit 21 0) = some .none)) = true := by decide +kernel
theorem wit_FiringConsumes : (operandsOf (devOf (.add (rec_ .i32 .lr 0))) placedSite [.l, .r]).isSome = true := by decide +kernel
theorem wit_FarRelays : let n := rec_ .i32 .l 5
    let d := devOf (.far n)
    (d.span 0).farQ.find? (fun u => u.dest.node == 0) = some (placedTok .l) ∧ (placedTok .l).cls ≠ .stat ∧ hasSpace d 0 1 = true ∧
    resolveXY d 0 (fld n.lit.toNat 24 18) (fld n.lit.toNat 17 12) (fld n.lit.toNat 11 2) (portOf (fld n.lit.toNat 1 0)) = .ok ⟨0, 0, 0, 1, .r⟩ ∧
    nodeCause (.far n) n 8 = none := by
  decide +kernel
-- a record that names a destination, and a target outside the load
theorem wit_FarRefused : nodeCause (.far (rec_ .i32 .l 5 next1)) (rec_ .i32 .l 5 next1) 8 ≠ none ∧
    (let d := devOf (.far (rec_ .i32 .l 5))
     resolveXY d 0 100 100 1 .l = .error .spanf) := by decide +kernel
theorem wit_Stat : let n := rec_ .n32 .l 1 next1
    fires (.stat n) n [.l] [] (devOf (.stat n)) (fun _ => true) = true := by decide +kernel

/-! ### Witnesses: sinks, loops, counters, timers -/

/-- An ordered sink whose X is such that the firing, of SEQ 0, lies `k` after it. -/
def sinkDev (k : Nat) (l : NodeRec := sinkRec) : Dev := (devOf (.sink l)).modSpan 0 fun s => { s with sinks := [⟨0, 0 - BitVec.ofNat 26 k, []⟩] }
theorem wit_Sink_plain : fires (.sink (rec_ .i32 .l 0)) (rec_ .i32 .l 0) [.l] [] (devOf (.sink (rec_ .i32 .l 0))) (fun x => x.o.l.isSome) = true := by decide +kernel
-- each range of k at its ends: 0; 1 and 63; 64 and 2^25; beyond
theorem wit_Sink : ([0, 1, 63, 64, 2 ^ 25, 2 ^ 25 + 1, 2 ^ 26 - 1].all fun k => fires (.sink sinkRec) sinkRec [.l] [] (sinkDev k) fun x =>
    x.o.l.isSome && decide ((x.o.seq - (sinkOf ((sinkDev k).span 0) 0).x).toNat = k)) = true := by decide +kernel

-- a stage with room for one more, and a full one
theorem wit_Sink_stage : ([63, 64].all fun k =>
    let d := (devOf (.sink sinkRec)).modSpan 0 fun s => { s with sinks := [⟨0, 0 - 1, List.replicate k ⟨placedTag, 5, false, placedTok .l, none, none, none⟩⟩] }
    fires (.sink sinkRec) sinkRec [.l] [] d fun x => decide ((sinkOf (d.span 0) 0).stage.length = k) && decide ((x.o.seq - (sinkOf (d.span 0) 0).x).toNat = 1)) = true := by
  decide +kernel

/-- The sink in slot 1 holds a firing that is next. -/
def stagedDev : Dev :=
  (withSink (devOf (.commitSet (rec_ .i32 .l 0x401)))).modSpan 0 fun s => { s with sinks := [⟨1, 5, [⟨placedTag, 5, false, placedTok .l, none, none, none⟩]⟩] }
theorem wit_SinkRelease : let f : Focus := ⟨0, 1, placedTag, .l⟩
    ({ stagedDev with occ := .site f } : Dev).cidOf (pageOfFe f.span) = some 0 ∧ runs (stagedDev.graph 0) = true ∧
    (∃ e ∈ (sinkOf (stagedDev.span 0) 1).stage, e.seq = (sinkOf (stagedDev.span 0) 1).x) ∧
    (∀ e ∈ (sinkOf (stagedDev.span 0) 1).stage, seqPrecedes e.seq (sinkOf (stagedDev.span 0) 1).x = false) ∧ seqPrecedes 5 (6 : BitVec 26) = true := by decide +kernel
theorem wit_CommitSet : fires (.commitSet (rec_ .i32 .l 0x401)) (rec_ .i32 .l 0x401) [.l] [] stagedDev (fun x =>
    decide (nodeAt stagedDev 0 (x.lit % 2 ^ 10) = some (.sink sinkRec)) && sinkRec.seq && (lane32? x.lPay 0).isSome) = true := by decide +kernel

-- LOOPB with a window of 4 and batches of 2
def loopRec : NodeRec := { rec_ .i32 .lrc (3 + 1 * 2 ^ 15) next1 with dstb := .to 0 0 2 .l }
def loopDev (l : List LoopSt := []) (n : Nat := 8) : Dev :=
  { (devOf (.loopb loopRec) (pay [n])).modSpan 0 fun s => { s with loops := l } with focus := placedSite, occ := .site placedSite }
theorem wit_LoopEntry : ([0, 8].all fun n => fires (.loopb loopRec) loopRec [.l] [] (loopDev [] n) fun x =>
    x.o.l.isSome && (loopAt ((loopDev [] n).span 0) 0 0).isNone && (freeRun ((loopDev [] n).page 0).runs (loopBytes loopRec)).isSome
    && decide (lane32? x.lPay 0 = some n)) = true := by decide +kernel
def loopOf (n adm : Nat) (live : List Nat) (exit : Option (Nat × Token)) : LoopSt := ⟨0, 0, n, placedTok .l, adm, live, exit, 0, 0⟩
theorem wit_LoopAdmit : ([loopOf 8 0 [] none, loopOf 8 6 [] none, loopOf 7 6 [4] none, loopOf 0xFFFFFFFF 6 [4, 5] none].all fun l =>
    let d := loopDev [l]
    decide (d.cidOf 0 = some 0) && decide (nodeAt d 0 0 = some (.loopb loopRec)) && decide (loopAt (d.span 0) 0 0 = some l) && runs (d.graph 0)
    && decide ((d.graph 0).st = .resident) && (d.graph 0).preempt.isNone && !d.parkedFrame 0 0 && hasSpace d 0 (named [loopRec.dsta])
    && (dstCause loopRec.dsta).isNone && (dstCause loopRec.dstb).isNone) = true := by decide +kernel
theorem wit_LoopAdmit_batch : BatchEnds (loopOf 8 6 [4] none) loopRec 7 ∧ BatchEnds (loopOf 7 6 [4] none) loopRec 6 ∧ BatchEnds (loopOf 0xFFFFFFFF 6 [4, 5] none) loopRec 7 := by
  unfold BatchEnds; decide +kernel
-- the first of a batch, and one of the batch under way
theorem wit_LoopAdmit_may : MayAdmit ((loopDev []).graph 0) (loopOf 8 6 [4] none) loopRec 8 ∧ MayAdmit ((loopDev []).graph 0) { loopOf 8 6 [4] none with upto := 8 } loopRec 8 :=
  ⟨.inr ⟨by decide +kernel, by decide +kernel, by decide +kernel, 7, wit_LoopAdmit_batch.1, rfl⟩, .inl (by decide +kernel)⟩
theorem wit_LoopAdmit_dests : resolveBoth (loopDev []) 0 loopRec = .ok (some ⟨0, 0, 0, 1, .l⟩, some ⟨0, 0, 0, 2, .l⟩) := by decide +kernel
-- the iteration with ITER 0 retires: the loop goes on, or this was its last
theorem wit_LoopRetire : ([loopOf 8 4 [0, 3] none, loopOf 1 1 [0] none].all fun l => fires (.loopb loopRec) loopRec [.r] [] (loopDev [l]) fun x =>
    decide (nodeAt (loopDev [l]) 0 0 = some (.loopb loopRec)) && decide (loopAt ((loopDev [l]).span 0) 0 x.f.tag.frame = some l)
    && decide (l.live.find? (fun i => BitVec.ofNat 16 i == x.f.tag.iter) = some 0)) = true := by decide +kernel
theorem wit_LoopExit : ([loopOf 8 4 [0, 3] none, loopOf 8 4 [0, 3] (some (2, placedTok .c))].all fun l => fires (.loopb loopRec) loopRec [.c] [] (loopDev [l]) fun x =>
    x.o.c.isSome && decide (loopAt ((loopDev [l]).span 0) 0 x.f.tag.frame = some l)
    && decide (l.live.find? (fun i => BitVec.ofNat 16 i == x.f.tag.iter) = some 0)) = true := by decide +kernel

-- CNTR: the N-th firing, one before it, and N of 0 for 2^32
theorem wit_Cntr : ([1, 2, 0].all fun lit => let n := rec_ .i32 .l lit next1
    fires (.cntr n) n [.l] [] (devOf (.cntr n)) fun _ => true) = true := by decide +kernel
theorem wit_Timer : ([(rec_ .i32 .l 0 next1, 1), (rec_ .i32 .l 9 next1, 1), (rec_ .i32 .l 9, 0)].all fun (e : NodeRec × Nat) =>
    fires (.timer e.1) e.1 [.l] [] (devOf (.timer e.1)) fun x => decide (x.dests.length = e.2)) = true := by decide +kernel
def dueDev : Dev := (devOf (.timer (rec_ .i32 .l 9 next1))).modSpan 0 fun s => { s with timers := [⟨0, 0, [⟨0, 0, 0, 1, .l⟩], placedTok .l⟩] }
theorem wit_TimerDue : dueTimer (dueDev.span 0) 0 = some ⟨0, 0, [⟨0, 0, 0, 1, .l⟩], placedTok .l⟩ ∧
    (placedTok .l).cls ≠ .stat ∧ hasSpace dueDev 0 1 = true ∧ dueDev.cidOf 0 = some 0 ∧ runs (dueDev.graph 0) = true := by decide +kernel
/-- EOSW with an end-of-stream token for `k` items on R, and 1 item counted. -/
def eoswRec : NodeRec := { rec_ .i32 .lr 0 next1 with dstb := .to 0 0 2 .l }
def eoswDev (q : Port) (k : Nat) : Dev :=
  let d := (devOf (.eosw eoswRec)).modPage 0 fun p => { p with toks := [⟨tokAt .l (pay []), .store, false, .plain⟩, ⟨{ tokAt .r (pay [k]) with cls := .control }, .store, false, .plain⟩] }
  { d.modSpan 0 fun s => { s with eosws := [⟨0, 0, 1, []⟩] } with focus := { placedSite with port := q } }
theorem wit_Eosw : fires (.eosw eoswRec) eoswRec [.l] [] (eoswDev .l 1) (fun x => decide (x.f.port = .l ∧ (eoswAt ((eoswDev .l 1).span 0) 0 0).held = [])) = true ∧
    ([(2, true), (1, false)].all fun (e : Nat × Bool) => fires (.eosw eoswRec) eoswRec [.r] [] (eoswDev .r e.1) fun x =>
      decide (x.f.port = .r ∧ (eoswAt ((eoswDev .r e.1).span 0) 0 0).held = [])
      && x.o.r.any fun t => decide (t.cls ≠ .data ∧ t.cls ≠ .stat) && (e.2 == decide ((eoswAt ((eoswDev .r e.1).span 0) 0 0).count < (lane32? t.payload 0).getD 0))) = true := by
  decide +kernel

/-! ### Witnesses: frames returned, rounds, arrivals, the spill path -/

def inFrame (f : BitVec 14) (d : Dev) : Dev :=
  let t : Tag := ⟨0, f, 0⟩
  { d.modPage 0 fun p => { p with toks := p.toks.map fun e => { e with tok := { e.tok with tag := t } } } with focus := { placedSite with tag := t } }
/-- One leaf of 64 KiB at VA 0 and PA 0x10000, readable, writable and open to atomics, in the page's TLB. -/
def withLeaf (d : Dev) : Dev := d.modPage 0 fun p => { p with tlb := [⟨0, 0, 0x10000, 0x10000, 0x703⟩] }
def withMem (a : Nat) (bs : List Byte) (d : Dev) : Dev := { d with mem := { d.mem with cells := setBytes d.mem.cells a bs } }

def fretnRec : NodeRec := { rec_ .i32 .l 0 with tga := .fret }
/-- Frame 1 was called from frame 2, iteration 3; its continuation is port R of node 5 of the same span. -/
def linkV : Nat := linkOf ⟨0, 2, 3⟩ (some ⟨0, 0, 0, 5, .r⟩)
def fretnDev : Dev := withMem 0x10010 (bytesOf linkV 16) (withLeaf (inFrame 1 (devOf (.fretn fretnRec))))
theorem wit_Fretn : fires (.fretn fretnRec) fretnRec (portsOf (.fretn fretnRec) fretnRec) [] fretnDev (fun x =>
    x.f.tag.frame != 0 && decide ((linkHome fretnDev x.pg x.cid x.f.tag.frame .rd).1 = .ok (some 0x10010))
    && decide ((linkHome fretnDev x.pg x.cid x.f.tag.frame .wr).1 = .ok (some 0x10010)) && linkRead fretnDev (some 0x10010) == linkV && bitAt linkV 0
    && decide (linkDest fretnDev x.cid linkV = .ok (some ⟨0, 0, 0, 5, .r⟩)) && decide ((fretnDev.graph x.cid).load = some placedLoad)) = true := by decide +kernel
/-- FCALL from frame 0 of a context whose pool holds frames 1 and 2; the link of frame 1 goes to memory, or its leaf is in state POISON. -/
def fcallRec : NodeRec := { rec_ .i32 .l 0 next1 with tga := .fnew, dstb := .to 0 0 5 .r }
def fcallDev (leaf : Nat) : Dev :=
  ((devOf (.fcall fcallRec)).modPage 0 fun p => { p with tlb := [⟨0, 0, 0x10000, 0x10000, leaf⟩] }).modGraph 0 fun g => { g with pool := [1, 2] }
theorem wit_Fcall : ([(0x703, some 0x10010), (0x723, none)].all fun (e : Nat × Option Nat) =>
    let d := fcallDev e.1
    fires (.fcall fcallRec) fcallRec (portsOf (.fcall fcallRec) fcallRec) [] d fun x => decide ((d.graph x.cid).pool = [1, 2])
      && decide ((linksPending d (d.page x.pg)).length < 4096) && decide ((linkHome d x.pg x.cid 1 .wr).1 = .ok e.2)) = true := by decide +kernel

-- ROUND: before the first round, and in round 2 once marker 1 has come by every input
theorem wit_Round : ([({} : RoundSt), { round := 2, inputs := [(.loader, some 1), (.span 0, some 1)] }].all fun r =>
    let d := (devOf (.round (rec_ .i32 .l 0 next1))).modSpan 0 fun s => { s with rnd := r }
    fires (.round (rec_ .i32 .l 0 next1)) (rec_ .i32 .l 0 next1) (portsOf (.round (rec_ .i32 .l 0 next1)) (rec_ .i32 .l 0 next1)) [] d fun x => !roundHeld d x.key) = true := by
  decide +kernel

/-- One token in transit to the placed span. -/
def inNet (t : Token) (d : Dev) (src : Src := .span 0) : Dev := { d with net := [⟨0, src, netOf t.cls, t⟩], occ := .flight 0 }
def flightOf (t : Token) (src : Src := .span 0) : Flight := ⟨0, src, netOf t.cls, t⟩
def arrDev (t : Token) (i : Instr := .add (rec_ .i32 .lr 0)) (src : Src := .span 0) : Dev := inNet t ((devOf i).modPage 0 fun p => { p with toks := p.toks.take 1 }) src
theorem deliverable (t : Token) (h : t.dest.die = 0 ∧ placedLoad.holds (t.dest.die * 80 + t.dest.page) = true) (i : Instr) (src : Src)
    (hl : ((arrDev t i src).graph 0).load = some placedLoad) : Deliverable (arrDev t i src) 0 (flightOf t src) placedLoad :=
  { occ := rfl, inNet := rfl, load := hl, here := ⟨h.1.symm, h.2⟩, head := rfl }
theorem wit_Deliverable : Deliverable (arrDev (tokAt .r (pay []))) 0 (flightOf (tokAt .r (pay []))) placedLoad :=
  deliverable _ (by decide +kernel) _ _ (by decide +kernel)
def markerAt (n : BitVec 16) : Token := { tokAt .l (List.replicate 8 Lane.none) with cls := .marker, tag := ⟨0, 0, n⟩ }
theorem wit_MarkerArrival : Deliverable (arrDev (markerAt 0) (src := .loader)) 0 (flightOf (markerAt 0) .loader) placedLoad ∧ (markerAt 0).cls = .marker ∧
    placedLoad.holds (pageOfFe (markerAt 0).dest.key) = true :=
  ⟨deliverable _ (by decide +kernel) _ _ (by decide +kernel), by decide +kernel⟩
/-- What each clause of an arrival that is taken asks beside `Deliverable`. -/
def takenB (d : Dev) (t : Token) : Bool :=
  decide (t.cls ≠ .marker) && decide ((d.graph 0).st ≠ .queued) && (meets d (flightOf t)).isNone && portFree d t && (arrivalCause d t).isNone
  && !d.parkedFrame ((d.cidOf (pageOfFe t.dest.key)).getD 0) t.tag.frame
  && (match nodeAt d t.dest.key t.dest.node with | some (.far _) => false | _ => true)
def stickyTok : Token := { tokAt .r (pay [4]) with ma := .sticky }
def stickyDev (t : Token) : Dev := (arrDev t).modPage 0 fun p => { p with toks := p.toks ++ [⟨{ stickyTok with payload := pay [] }, .store, false, .plain⟩] }
theorem wit_TokenArrival_once : takenB (arrDev (tokAt .r (pay []))) (tokAt .r (pay [])) = true ∧ storeUsed (arrDev (tokAt .r (pay []))) 0 < 64 := by decide +kernel
theorem wit_TokenArrival_full : let d := (arrDev (tokAt .r (pay []))).modPage 0 fun p => { p with toks := List.replicate 63 ⟨tokAt .l (pay []), .store, false, .plain⟩ }
    takenB d (tokAt .r (pay [])) = true ∧ storeUsed d 0 = 63 := by decide +kernel
theorem wit_TokenArrival_sticky : takenB (stickyDev stickyTok) stickyTok = true ∧ ∃ e ∈ ((stickyDev stickyTok).page 0).toks,
    e.tok.ma = .sticky ∧ e.tok.dest = stickyTok.dest ∧ e.tok.tag.frame = stickyTok.tag.frame ∧ e.tok.tag.cid = stickyTok.tag.cid := by decide +kernel
theorem wit_TokenArrival_purge : takenB (stickyDev { stickyTok with ma := .purge }) { stickyTok with ma := .purge } = true := by decide +kernel
-- a token for port P of a node that takes L and R
theorem wit_RefusedArrival : let t := tokAt .p (pay [])
    t.cls ≠ .marker ∧ ((arrDev t).graph 0).st ≠ .queued ∧ meets (arrDev t) (flightOf t) = none ∧ arrivalCause (arrDev t) t = some .illop ∧
    (arrDev t).cidOf (pageOfFe t.dest.key) = some 0 ∧ ((arrDev t).graph 0).ending = none ∧ ((arrDev t).graph 0).st ≠ .stopped ∧
    (arrDev t).parkedFrame 0 t.tag.frame = false ∧ portFree (arrDev t) t = true := by decide +kernel
/-- Frame 0 is parked by a fault. -/
def parkedDev (d : Dev) : Dev := d.modGraph 0 fun g => { g with faults := [⟨9, .illop, false, false, false, 0, 0, 0, 0, 0, 0, 0, some 0⟩] }
theorem wit_ParkedArrival : let t := tokAt .r (pay [])
    let u := tokAt .p (pay [])
    (parkedDev (arrDev t)).parkedFrame 0 t.tag.frame = true ∧ arrivalCause (parkedDev (arrDev t)) t = none ∧ portFree (parkedDev (arrDev t)) t = true ∧
    (parkedDev (arrDev u)).parkedFrame 0 u.tag.frame = true ∧ arrivalCause (parkedDev (arrDev u)) u = some .illop := by decide +kernel
-- an arrival of the same cycle at an earlier port, or of an earlier cycle at a later one
theorem wit_PortFree : ([(0, 0), (5, 3)].all fun (e : Nat × Nat) =>
    portFree (((arrDev (tokAt .r (pay []))).modSpan 0 fun x => { x with arrived := some (e.1, e.2) })) (tokAt .r (pay []))) = true := by decide +kernel
theorem wit_FarArrival : let d := arrDev (tokAt .l (pay [])) (.far (rec_ .i32 .l 5))
    nodeAt d 0 0 = some (.far (rec_ .i32 .l 5)) ∧ arrivalCause d (tokAt .l (pay [])) = none ∧ d.parkedFrame 0 0 = false := by decide +kernel

/-- A combining entry at the receiver's box for inputs 0 (its own span) and 4 (from the west). -/
def combOf (held : List CombHeld) : CombEntry := ⟨1, 0, 0b10001, .f32, 0, ⟨0, 0, 1, 0, .l⟩, held⟩
def combTok : Token := { tokAt .l (pay [0x3F800000]) with dest := ⟨0, 0, 1, 0, .l⟩ }
def combDev (held : List CombHeld) : Dev := { inNet combTok {} with combs := [combOf held] }
theorem wit_SwitchCombine : ([([], false), ([⟨0, 0, combTok⟩], true)].all fun (e : List CombHeld × Bool) =>
    let d := combDev e.1
    let f := flightOf combTok
    let mine := (combOf e.1).held.filter fun h => h.tok.tag == f.tok.tag
    decide (d.occ = .flight 0) && decide (d.net[0]? = some f) && decide (meets d f = some (0, 4)) && decide (d.combs[0]? = some (combOf e.1)) && isHead d 0 f
    && mine.all (·.inp != 4) && (e.2 == decide (((List.range 8).filter (bitAt (combOf e.1).inmask ·)).length ≤ mine.length + 1))) = true := by decide +kernel

theorem wit_SwitchCombine_entry : let d := { combDev [] with combs := [], occ := .comb (combOf []) true }
    (d.occ = .comb (combOf []) true ∧ (combOf []).held = [] ∧ (combOf []).ok = true ∧ (d.combs.filter (·.box = (combOf []).box)).length < 4) ∧
    ({ d with occ := .comb (combOf []) false } : Dev).occ = .comb (combOf []) false := by decide +kernel

/-- A token waits for the spill engine; of a table of two entries the given ones are in use. -/
def spillDev (used : List Nat) : Dev :=
  { (devOf (.add (rec_ .i32 .lr 0))).modPage 0 fun p => { p with spillLog := 1, toks := [⟨tokAt .l (pay []), .vc1, false, .plain⟩] ++ used.map fun i =>
      ⟨tokAt .l (pay []), .table i, false, .plain⟩ } with occ := .entry 0 0 }
def spillE : Entry := ⟨tokAt .l (pay []), .vc1, false, .plain⟩
def usedAt (d : Dev) (i : Nat) : Prop := ∃ u ∈ (d.page 0).toks, u.place = .table i
theorem wit_SpillInsert_hyp : ([[], [0], [1], [0, 1]].all fun used => let d := spillDev used
    decide (d.occ = .entry 0 0) && decide ((d.page 0).toks[0]? = some spillE) && decide (d.cidOf 0 = some 0) && decide (spillE.place = .vc1)
    && decide (nextSpill (d.graph 0) (d.page 0) = some 0)) = true := by decide +kernel
theorem wit_SpillInsert_free : let home := spillIndex spillE.tok 1
    (0 < 2 ^ 1 ∧ ¬ usedAt (spillDev []) ((home + 0) % 2)) ∧
    (1 < 2 ^ 1 ∧ ¬ usedAt (spillDev [home]) ((home + 1) % 2) ∧ ∀ m' < 1, usedAt (spillDev [home]) ((home + m') % 2)) := by unfold usedAt; decide +kernel
theorem wit_SpillInsert_full : (∀ i < 2, usedAt (spillDev [0, 1]) i) ∧ ((spillDev [0, 1]).graph 0).st = .resident := by unfold usedAt; decide +kernel
/-- The context is parked, with `n` arrivals held already. -/
theorem wit_SpillInsert_parked : ([15, 16].all fun n =>
    let d := ((spillDev [0, 1]).modPage 0 fun p => { p with toks := p.toks ++ (List.range n).map fun k => { spillE with place := .held k } }).modGraph 0 fun g => { g with st := .parked }
    decide (((d.page 0).toks.filter fun u => (heldPlace u).isSome).length = n) && decide (nextSpill (d.graph 0) (d.page 0) = some 0)) = true := by decide +kernel
/-- The partner on R stands in the table. -/
def lookDev : Dev :=
  { (devOf (.add (rec_ .i32 .lr 0))).modPage 0 fun p => { p with toks := [⟨tokAt .l (pay []), .store, false, .plain⟩, ⟨tokAt .r (pay []), .table 5, false, .plain⟩] }
    with occ := .site placedSite }
theorem wit_SpillLookup : nodeAt lookDev 0 0 = some (.add (rec_ .i32 .lr 0)) ∧ unmatched (.add (rec_ .i32 .lr 0)) .l = false ∧
    portsOf (.add (rec_ .i32 .lr 0)) (rec_ .i32 .lr 0) = [.l, .r] ∧ operandsOf lookDev placedSite [.l, .r] = none ∧ lookupIxs (lookDev.page 0) placedSite [.l, .r] = [1] ∧
    (∃ q ∈ [Port.l, .r], (lookDev.page 0).toks.any (isOnce 0 0 q placedTag) = true) ∧
    (∀ q ∈ [Port.l, .r], ∃ e, pickAt (lookDev.page 0) 0 0 q placedTag = some e ∧ (e.inStore = true ∨ e.place = .table 5)) :=
  ⟨by decide +kernel, by decide +kernel, by decide +kernel, by decide +kernel, by decide +kernel, by decide +kernel, fun q h => by
    rcases List.mem_cons.mp h with rfl | h
    · exact ⟨⟨tokAt .l (pay []), .store, false, .plain⟩, by decide +kernel⟩
    · obtain rfl := List.mem_singleton.mp h
      exact ⟨⟨tokAt .r (pay []), .table 5, false, .plain⟩, by decide +kernel⟩⟩

/-! ### Witnesses: faults, launches, ends, registers -/

/-- Page tables at PA 0x100000 that map 64 KiB at VA 0 to PA 0x10000, all rights. -/
def withTables (d : Dev) : Dev :=
  let put := fun (d : Dev) (e : Nat × Nat) => withMem e.1 (bytesOf e.2 8) d
  [(0x100000, 0x110001), (0x110000, 0x120001), (0x120000, 0x130001), (0x130000, 0x140005), (0x140000, 0x10703)].foldl put
    (d.modCtx 0 fun c => { c with ptroot := 0x100001 })

/-- The same translation, in the TLB of die 0. -/
def withTlb2 (d : Dev) : Dev := { d with mem := { d.mem with tlb2 := [[⟨0, 0, 0x10000, 0x10000, 0x703⟩], [], [], []] } }

/-- A firing meets the hypotheses that every refused one shares. -/
def offered (i : Instr) (d : Dev) (p : NodeRec → Opnds → Bool) : Bool :=
  match partsOf i with
  | some (_, _, n) => matching i && decide (d.cidOf (pageOfFe d.focus.span) = some 0) && runs (d.graph 0)
    && hasSpace d d.focus.span (namedOf i n) && (operandsOf d d.focus (portsOf i n)).any fun o => p n o
  | none => false
def poisoned (q : Port) (d : Dev) : Dev := d.modPage 0 fun p => { p with toks := p.toks.map fun e => if e.tok.dest.port == q then { e with tok := { e.tok with poi := true } } else e }
def unprivileged (d : Dev) : Dev := d.modCtx 0 fun c => { c with cfg := 1 }
def whenP (n : NodeRec) : NodeRec := { n with prd := .t }
theorem wit_Refused_ILLOP : let i := Instr.abs (rec_ .n32 .l 0)
    offered i { devOf (.abs (rec_ .i32 .l 0)) with focus := placedSite } (fun n o => decide (firingCause (devOf (.abs (rec_ .i32 .l 0))) i n 0 o = some .illop)) = true := by
  decide +kernel
theorem wit_Refused_PRIV : let i := Instr.ldnode (rec_ .i32 .l 0 next1)
    offered i (unprivileged (devOf i)) (fun n o => decide (firingCause (unprivileged (devOf i)) i n 0 o = some .priv)) = true := by decide +kernel
theorem wit_Refused_POISONC : let i := Instr.add (whenP (rec_ .i32 .lr 0))
    offered i (poisoned .p (devOf i)) (fun n o => decide (firingCause (poisoned .p (devOf i)) i n 0 o = some .poisonc)) = true := by decide +kernel
theorem wit_Refused_suppressed : let i := Instr.add (whenP (rec_ .i32 .lr 0))
    offered i (devOf i) (fun n o => decide (firingCause (devOf i) i n 0 o = none) && suppresses n o) = true := by decide +kernel
theorem wit_Refused_SPANF : let i := Instr.add (rec_ .i32 .lr 0 (.to 9 0 1 .l))
    offered i (devOf i) (fun n o => decide (firingCause (devOf i) i n 0 o = none) && !suppresses n o && direct i && (orCause (dstCause n.dsta) (dstCause n.dstb)).isNone && decide (resolveBoth (devOf i) 0 n = .error .spanf)) = true := by
  decide +kernel

/-- An instruction made from a record that names port L of node 1, fired in a placed load. -/
def goesNow (f : NodeRec → Instr) (n : NodeRec) (d : Dev → Dev) (l r : Payload) (p : Dev → Fire → Bool) : Bool :=
  let v := d (devOf (f n) l r)
  fires (f n) n (portsOf (f n) n) [] v (p v)
theorem wit_Traps : goesNow .trap (rec_ .i32 .l 7) id (pay [3]) [] (fun _ _ => true) && goesNow .brk (rec_ .i32 .l 0xFFFF) id (pay [3]) [] (fun _ _ => true) = true := by
  decide +kernel
theorem wit_Ends : ([(Instr.doneGraph, rec_ .i32 .l 0), (.doneNext, rec_ .i32 .l 1), (.halt, rec_ .i32 .l 9), (.yield, rec_ .i32 .l 0 next1)].all fun e =>
    goesNow e.1 e.2 id (pay [3]) [] fun _ _ => true) = true := by decide +kernel

-- DX of -16 is a reserved code
theorem wit_Refused_dest : let i := Instr.add (rec_ .i32 .lr 0 (.to (-16) 0 1 .l))
    offered i { devOf (.add (rec_ .i32 .lr 0)) with focus := placedSite } (fun n o => decide (firingCause (devOf (.add (rec_ .i32 .lr 0))) i n 0 o = none)
      && !suppresses n o && (orCause (dstCause n.dsta) (dstCause n.dstb)).isSome) = true := by decide +kernel
-- a MSFULL that came before
theorem wit_Ends_msfull : goesNow .halt (rec_ .i32 .l 9) (fun d => d.modGraph 0 fun g => { g with st := .parked, msfull := some ⟨9, .msfull, false, true, false, 0, 0, 0, 0, 0, 0, 0, none⟩ })
    (pay [3]) [] (fun d x => (d.graph x.cid).msfull.isSome) = true := by decide +kernel

/-- Context 5 in a state, its JOBID, and the privilege of context 0 (whose JOBID is 0). -/
def launchDev (st : CtxSt) (job : Nat) (priv : Bool) (d : Dev) : Dev :=
  let d := withTlb2 ((d.modGraph 5 fun g => { g with st := st }).modCtx 5 fun c => { c with cfg := BitVec.ofNat 64 (1 + job * 2 ^ 16) })
  if priv then d else unprivileged d
theorem wit_Launch : ([(CtxSt.idle, 0, false), (.idle, 1, false), (.idle, 1, true), (.free, 0, true), (.queued, 0, true), (.stopped, 0, true)].all fun e =>
    goesNow .launch (rec_ .i32 .l 0 next1) (launchDev e.1 e.2.1 e.2.2) (pay [64, 0, 5]) [] fun d x =>
      decide (launchOpnds x = some (64, 5)) && (d.page x.pg).accs.all (fun a => a.perfAt d .sys)
      && (vaRead d (.span x.key) (x.pg / 80) x.cid 64 64).toOption.isSome && (vaRead (taken x d) (.span x.key) (x.pg / 80) x.cid 64 64).toOption.isSome) = true := by
  decide +kernel
theorem wit_Waitl : goesNow .waitl (rec_ .i32 .l 0 next1) id (pay [5, 0]) [] (fun d x => decide (lane32? x.lPay 0 = some 5) && decide (lane32? x.lPay 1 = some 0)
    && decide (((d.hold x.cid).waits.filter fun w => w.span == x.key && w.node == x.f.node).length < 16)) = true := by decide +kernel
def waitOf (g : Word) : Wait := ⟨0, 0, 5, g, [{ placedTok .l with dest := ⟨0, 0, 0, 1, .l⟩ }], 3⟩
def waitDev (g : Word) : Dev :=
  { ((devOf (.waitl (rec_ .i32 .l 0 next1))).modHold 0 fun h => { h with waits := [waitOf g] }).modGraph 5 fun t => { t with gen := 7, status := 2, cause := 1 } with now := 4, occ := .wait 0 0 }
-- the generation waited for itself, and an older one as far back as the order of generations reaches
theorem wit_WaitRelease : ([(7 : Word), 6, 7 - 0x7FFFFFFF].all fun g => decide ((waitDev g).occ = .wait 0 0) && decide (((waitDev g).hold 0).waits[0]? = some (waitOf g))
    && decide ((((waitDev g).graph 5).gen - g).toNat < 2 ^ 31) && decide (3 < (waitDev g).now.toNat) && decide (((waitDev g).graph 0).st = .resident)
    && decide (((waitDev g).graph 0).ending = none) && hasSpace (waitDev g) 0 1 && (waitOf g).toks.all fun e => decide (e.cls = .data)) = true := by decide +kernel

theorem wit_WaitRelease_queued : let d := (waitDev 7).modGraph 0 fun g => { g with st := .queued }
    (d.hold 0).waits[0]? = some (waitOf 7) ∧ (d.graph 0).st = .queued ∧ (d.graph 0).ending = none := by decide +kernel

/-- A register node that names context, page or die in R, or takes its own. -/
def sysRec (num : Nat) (other : Bool) : NodeRec := rec_ .i32 (if other then .lr else .l) (num + if other then 2 ^ 12 else 0) next1
theorem wit_Rdsr : (([0, 1, 2, 3, 4, 5, 6, 7, 8, 9, 10, 11, 0x100, 0x101, 0x102, 0x103, 0x104, 0x200, 0x201, 0x202].flatMap fun k => [(k, false), (k, true)]).all fun e =>
    goesNow .rdsr (sysRec e.1 e.2) id (pay []) (pay [if e.1 < 0x100 then 5 else if e.1 < 0x200 then 0x34F else 0x300]) fun d x => decide (regFault x d false = none)) = true := by
  decide +kernel
theorem wit_Wrsr : (([1, 2, 5, 6, 7, 8, 9, 10, 11, 0x102, 0x103, 0x104, 0x200, 0x201, 0x202].flatMap fun k => [(k, false), (k, true)]).all fun e =>
    goesNow .wrsr (sysRec e.1 e.2) id (pay [0xFFFFFFFF, 0xFFFFFFFF]) (pay [if e.1 < 0x100 then 63 else 0]) fun d x => decide (regFault x d true = none)
      && decide (lane64? x.lPay 0 = some 0xFFFFFFFFFFFFFFFF)
      && (e.1 < 0x100 || e.1 ≥ 0x200 || (d.page (regOf x).2).cid.isSome) && (e.1 < 0x200 || decide ((regOf x).2 < d.dies.length))) = true := by decide +kernel
-- FPCTL of its own context, unprivileged
theorem wit_Wrsr_user : goesNow .wrsr (sysRec 1 false) unprivileged (pay [1, 0]) [] (fun d x => decide (regFault x d true = none)) = true := by decide +kernel

/-- Frame 1 of context 0 has an outstanding fault that holds a port, or not; L carries the record's first 32 bytes. -/
def faultOf (port : Bool) (frame : Option (BitVec 14)) : FaultRec := ⟨9, .xlatf, port, frame.isNone, false, 0, 2 ^ 108, 0, 0, 0, 0, 0, frame⟩
def identPay (r : FaultRec) : Payload := (List.range 8).map fun j => Lane.some (fld r.ident (32 * j + 31) (32 * j))
def resumeIn (fs : List FaultRec) (accs : List Access) (d : Dev) : Dev :=
  (withTables (d.modGraph 0 fun g => { g with faults := fs })).modPage 0 fun p => { p with accs := accs, toks := p.toks ++ [⟨{ placedTok .l with tag := ⟨0, 1, 0⟩ }, .vc1, true, .plain⟩] }
def resumes : List (Nat × (NodeRec → Instr)) := [(0, .resumeRetry), (1, .resumeRelease), (2, .resumeKill)]
def resumeRec (k : Nat) : NodeRec := rec_ .i32 .l k next1
theorem wit_Resume_none : (resumes.all fun e => goesNow e.2 (resumeRec e.1) (resumeIn [] []) (identPay (faultOf true (some 1))) [] fun d x => (resumeFault x d).isNone) = true := by
  decide +kernel
theorem wit_Resume_action : ([(0, faultOf false (some 1)), (1, faultOf true (some 1)), (2, faultOf false none)].all fun e => resumes.any fun i => i.1 == e.1 &&
    goesNow i.2 (resumeRec i.1) (resumeIn [e.2] []) (identPay e.2) [] fun d x => decide (resumeFault x d = some e.2)) = true := by decide +kernel
theorem wit_Resume_free : ([(0, faultOf true (some 1)), (1, faultOf false (some 1)), (2, faultOf true (some 1))].all fun e => resumes.any fun i => i.1 == e.1 &&
    goesNow i.2 (resumeRec i.1) (resumeIn [e.2] []) (identPay e.2) [] fun d x =>
      decide (resumeFault x d = some e.2) && decide ((d.graph (resumeCid x)).load = some placedLoad)
      && placedLoad.pages.all fun p => (d.page p).accs.all fun a => decide (a.fault ≠ some e.2.fid)) = true := by decide +kernel
/-- A load of 4 bytes at VA 8 on port 0, held by the fault. -/
def heldAcc : Access :=
  { id := 1, cid := 0, span := 0, node := 0, tok := { placedTok .l with tag := ⟨0, 1, 0⟩ }, kind := .load, phys := false, port := 0, stream := 0, acq := false, rel := false
    scope := .elem, nob := false, fmt := .i32, op := 0, opnd := [], ftz := false, els := [⟨8, none, 4, 0, 0, false, 0, false, false, .todo⟩], round := 0, qpos := none
    acc := some 0, since := 0, fault := some 9, retry := false, aux := [], dataTo := [], doneTo := [], dataSent := false, emit := placedTok .l }
theorem wit_Resume_held : ([(0, faultOf true (some 1))].all fun e => resumes.any fun i => i.1 == e.1 &&
    goesNow i.2 (resumeRec i.1) (resumeIn [e.2] [heldAcc]) (identPay e.2) [] fun d x =>
      let a0 := { heldAcc with fault := none, retry := false, els := heldAcc.els.map fun e => { e with st := .todo, pa := none } }
      decide (resumeFault x d = some e.2) && decide ((d.graph (resumeCid x)).load = some placedLoad)
      && (placedLoad.pages.all fun p => decide ((d.page p).accs.filter (·.fault == some e.2.fid) = if p = 0 then [heldAcc] else []))
      && (transAll 0 a0 true (setAcc ((taken x d).modGraph 0 fun g => { g with faults := [] }) 0 a0)).1.toOption.isSome) = true := by decide +kernel

/-! ### Witnesses: memory nodes -/

/-- Context 0 reaches 64 KiB of memory; streams 3 and 5 of its page go by port 1. -/
def memDev (i : Instr) (l r : Payload) : Dev :=
  (withTables (devOf i l r)).modPage 0 fun p => { p with streams := [⟨3, 1, 1, 1⟩, ⟨5, 1, 1, 1⟩] }

def alignedB (x : Fire) (d : Dev) : Bool :=
  (lane64? x.lPay 0).isSome && !(x.o.l.map (·.poi)).getD false && (streamDef (d.page x.pg) (x.lit % 2 ^ 8)).isSome && vaOf x % gran x == 0
theorem aligned_of {x : Fire} {d : Dev} (h : alignedB x d = true) : aligned x d := by
  simp only [alignedB, Bool.and_eq_true, Bool.not_eq_true', beq_iff_eq] at h
  obtain ⟨⟨⟨h1, h2⟩, h3⟩, h4⟩ := h
  obtain ⟨va, hv⟩ := Option.isSome_iff_exists.mp h1
  exact ⟨va, ⟨hv, h2, h3⟩, by simpa [vaOf, hv] using h4⟩
def atomB (two : Bool) (x : Fire) (d : Dev) : Bool :=
  alignedB x d && (opndAt x 0).isSome && (!two || (opndAt x 2).isSome) && !(x.o.r.map (·.poi)).getD false
theorem atomOk_of {two : Bool} {x : Fire} {d : Dev} (h : atomB two x d = true) : atomOk two x d := by
  simp only [atomB, Bool.and_eq_true, Bool.or_eq_true, Bool.not_eq_true'] at h
  obtain ⟨⟨⟨h1, h2⟩, h3⟩, h4⟩ := h
  exact ⟨aligned_of h1, h2, fun t => by cases h3 with | inl h => rw [t] at h; cases h | inr h => exact h, h4⟩
def gatherB (x : Fire) (d : Dev) : Bool :=
  !(x.o.l.map (·.poi)).getD false && (streamDef (d.page x.pg) (x.lit % 2 ^ 8)).isSome && (gathered x).all fun e => decide (e.1 % gran x = 0)
theorem gatherOk_of {x : Fire} {d : Dev} (h : gatherB x d = true) : gatherOk x d := by
  simp only [gatherB, Bool.and_eq_true, Bool.not_eq_true', List.all_eq_true, decide_eq_true_eq] at h
  exact ⟨h.1.1, h.1.2, h.2⟩
def scratchB (x : Fire) (d : Dev) : Bool :=
  (lane32? x.lPay 0).isSome && !(x.o.l.map (·.poi)).getD false && decide (offsetOf x % gran x = 0) && decide (offsetOf x < 2 ^ 22) &&
  decide (offsetOf x + 4 * runLen x ≤ 2 ^ 22) && scratch d x.pg (offsetOf x) (4 * runLen x)
theorem scratchOk_of {x : Fire} {d : Dev} (h : scratchB x d = true) : scratchOk x d := by
  simp only [scratchB, Bool.and_eq_true, Bool.not_eq_true', decide_eq_true_eq] at h
  exact ⟨h.1.1.1.1.1, h.1.1.1.1.2, h.1.1.1.2, h.1.1.2, h.1.2, h.2⟩

/-- A memory node fires, sure of its operands; no access of its own still waits at its port. -/
def hands (f : NodeRec → Instr) (n : NodeRec) (l r : Payload) (p : Fire → Dev → Bool) : Bool :=
  let d := memDev (f n) l r
  fires (f n) n (portsOf (f n) n) [] d fun x => p x d && (d.page x.pg).accs.all fun a => a.acc.isSome
-- 32-bit and 64-bit elements, all lanes and LEN of 2
theorem wit_MemoryNodes_aligned : ([(Instr.ld, Ary.l), (.st, .lr), (.ldp, .l), (.stp, .lr)].all fun e => [Fmt.i32, .i64].all fun f => [3, 3 + 2 * 2 ^ 13].all fun lit =>
    hands e.1 (rec_ f e.2 lit next1) (pay [64, 0]) (pay [7]) alignedB) = true := by decide +kernel
theorem wit_MemoryNodes_gather : ([(Instr.ldg, Ary.l), (.stg, .lr)].all fun e => [Fmt.i32, .i64].all fun f =>
    hands e.1 (rec_ f e.2 3 next1) (pay [64, 0, 128, 0]) (pay [7]) gatherB) = true := by decide +kernel
-- the lowest offset past the spill region, and the highest run below 0x3E0000
theorem wit_MemoryNodes_scratch : ([(Instr.lds, Ary.l), (.sts, .lr)].all fun e => [0x1000, 0x3E0000 - 32].all fun o =>
    hands e.1 (rec_ .i32 e.2 0 next1) (pay [o]) (pay [7]) scratchB) = true := by decide +kernel
theorem wit_MemoryNodes_atomic : ([(Instr.atom, rec_ .i64 .lr 3 next1, false), (.atoms, rec_ .i32 .lr 3 next1, false), (.atomf, rec_ .f32 .lr (3 + 8 * 2 ^ 13) next1, false),
    (.cas, rec_ .i64 .lr 3 next1, true)].all fun e => hands e.1 e.2.1 (pay [64, 0]) (pay [7]) (atomB e.2.2)) = true := by decide +kernel
theorem wit_MemoryNodes_pref : ([0, 1, 130].all fun len => hands .pref (rec_ .i32 .l 3 next1) (pay [64, 0, len]) [] fun x d =>
    alignedB x d && decide (lane32? x.lPay 2 = some len)) = true := by decide +kernel
theorem wit_MemoryNodes_msend : hands .msend (rec_ .i32 .lr 2 next1) (pay [64]) (pay [5]) (fun x d => (lane32? x.rPay 0).isSome && (d.page x.pg).accs.isEmpty) = true := by
  decide +kernel
theorem wit_Misaligned : ([(Instr.ld, rec_ .i32 .l 3 next1), (.st, rec_ .i32 .lr 3 next1), (.ldp, rec_ .i32 .l 3 next1), (.stp, rec_ .i32 .lr 3 next1), (.atom, rec_ .i32 .lr 3 next1),
    (.cas, rec_ .i32 .lr 3 next1), (.atomf, rec_ .f32 .lr (3 + 8 * 2 ^ 13) next1), (.atoms, rec_ .i32 .lr 3 next1)].all fun e =>
    hands e.1 e.2 (pay [66, 0]) (pay []) fun x d => decide (lane64? x.lPay 0 = some 66) && !(x.o.l.map (·.poi)).getD false && (streamDef (d.page x.pg) (x.lit % 2 ^ 8)).isSome
      && (x.o.r.isNone || ((opndAt x 0).isSome && (opndAt x 2).isSome && !(x.o.r.map (·.poi)).getD false)) && decide (66 % gran x ≠ 0)) = true := by decide +kernel
-- every pair or pair 0, each right
theorem wit_Xlat : ([0, 2, 4, 1, 5].all fun lit => let n := rec_ .n64 .l lit next1
    let d := memDev (.xlat n) (pay [64, 0, 4096, 0]) []
    fires (.xlat n) n (portsOf (.xlat n) n) [] d fun x => (lane64? x.lPay 0).isSome && !(x.o.l.map (·.poi)).getD false && !xlatWaits x d
      && (xlatAll x.pg x.cid (x.lit / 2 % 4) (xlatPairs x) (taken x d)).1.toOption.isSome) = true := by decide +kernel

/-- An accepted access on stream 3 that is not yet performed. -/
def openAcc : Access := { heldAcc with fault := none, port := 1, stream := 3 }
def withAccs (l : List Access) (d : Dev) : Dev := d.modPage 0 fun p => { p with accs := l }
def openOf (i : Instr) (streams : List Nat) (x : Fire) (d : Dev) (n : NodeRec) : List Nat :=
  ((d.page x.pg).accs.filter fun a =>
      a.acc.isSome && (i != .sbar n || (decide (a.port < 4) && streams.contains a.stream)) && !a.perfAt d (scopeOf (x.lit / 2 ^ 8 % 8))).map (·.id)
theorem wit_Barriers : ([([], []), ([openAcc], [1])].all fun (e : List Access × List Nat) =>
    (let n := rec_ .i32 .l 3 next1
     let d := withAccs e.1 (memDev (.sbar n) (pay []) [])
     fires (.sbar n) n (portsOf (.sbar n) n) [] d fun x => decide (openOf (.sbar n) (sbarStreams x d) x d n = e.2))
    && (let n := rec_ .i32 .l 0x300 next1
        let d := withAccs e.1 (memDev (.fence n) (pay []) [])
        fires (.fence n) n (portsOf (.fence n) n) [] d fun x => decide (openOf (.fence n) [] x d n = e.2))) = true := by decide +kernel

/-- A bank over VA 0x0 to 0xFFFF, with one line of which granule `g` has been written. -/
def bankOf (g : Nat) (dirty : Bool) : Bank := ⟨0, 0x10000, 0x10000, [⟨2, dirty, 2 ^ g, []⟩]⟩
def withBanks (l : List Bank) (d : Dev) : Dev := d.modPage 0 fun p => { p with banks := l }
theorem wit_Bind : ([[], [bankOf 0 true]].all fun bs => let n := rec_ .i32 .l 0 next1
    let d := withBanks bs (devOf (.bind n) (pay [0x10000, 0, 0x10000, 0x20000]))
    fires (.bind n) n (portsOf (.bind n) n) [] d fun x => decide (lane64? x.lPay 0 = some 0x10000) && !(x.o.l.map (·.poi)).getD false && decide (lane32? x.lPay 2 = some 0x10000)
      && decide (lane32? x.lPay 3 = some 0x20000) && decide ((loadBanks d x.cid).length < 64) && (loadBanks d x.cid).all (fun b => decide (0x20000 ≤ b.va ∨ b.va + b.size ≤ 0x10000))
      && (d.page x.pg).banks.all (fun b => decide (0x30000 ≤ b.off ∨ b.off + b.size ≤ 0x20000))
      && decide ((d.page x.pg).spillBase + tableSpan d x.pg (d.page x.pg).spillLog ≤ 0x20000)) = true := by decide +kernel
theorem wit_Unbind : let n := rec_ .i32 .l 0x40000 next1
    let d := withBanks [⟨0x20000, 0x10000, 0x20000, []⟩, bankOf 0 false] (devOf (.bindUnbind n))
    fires (.bindUnbind n) n (portsOf (.bindUnbind n) n) [] d (fun x => decide (lane64? x.lPay 0 = some 0) && !(x.o.l.map (·.poi)).getD false
      && decide ((d.page x.pg).banks[1]? = some (bankOf 0 false))) = true ∧ (bankOf 0 false).va = 0 ∧ ∀ l ∈ (bankOf 0 false).lines, l.dirty = false := by decide +kernel
-- by range and over every bank; with and without DISC
theorem wit_Inval : ([0, 0x10000, 0x20000, 0x30000].all fun lit => let n := rec_ .i32 .l lit next1
    let d := withBanks [bankOf 0 true] (memDev (.inval n) (pay [130, 0, 1]) [])
    fires (.inval n) n (portsOf (.inval n) n) [] d fun x => decide (rangeFault x = none) && !acquireOpen d (d.page x.pg)) = true := by decide +kernel
theorem wit_Flush : ([0, 15].all fun g => let n := rec_ .i32 .l 0x300 next1
    let d := withBanks [bankOf g true] (memDev (.flush n) (pay [128, 0, 64]) [])
    let lf : Leaf := ⟨0, 0x10000, 0x10000, 0x703, 0x140000⟩
    fires (.flush n) n (portsOf (.flush n) n) [] d fun x => decide (rangeFault x = none) && !acquireOpen d (d.page x.pg) && decide (linesIn (d.page x.pg) (bankRange x) = [(0, 2)])
      && decide ((d.page x.pg).banks[0]? = some (bankOf g true)) && decide ((bankOf g true).lines.find? (·.ix == 2) = some ⟨2, true, 2 ^ g, []⟩)
      && decide (walk d x.cid 128 = .ok lf) && decide (walk (taken x d) x.cid 128 = .ok lf) && decide (lf.state ≠ 4) && decide (leafCheck lf .wr = none)
      && decide (movedTo d (homeKey d (lf.pa (128 + 4 * g))) = none)) = true := by decide +kernel

/-- Mailbox 2 of context 0 holds the given messages. -/
def mailDev (l : List Msg) (i : Instr) : Dev := (devOf i).modHold 0 fun h => { h with mail := [(2, l)] }
theorem wit_Mrecv : ([(2, [⟨pay [9], true⟩]), (2 + 16, [⟨pay [9], false⟩, ⟨pay [8], true⟩]), (2 + 16, []), (2, [])].all fun (e : Nat × List Msg) => let n := rec_ .i32 .l e.1 next1
    fires (.mrecv n) n (portsOf (.mrecv n) n) [] (mailDev e.2 (.mrecv n)) fun x => decide (((mailDev e.2 (.mrecv n)).hold x.cid).mail.getD (x.lit % 2 ^ 4) [] = e.2)) = true := by
  decide +kernel
-- a slot of the placed span, the slot 0x3FF, and a place with no span
theorem wit_Nodes : ([(0, 0, Except.ok (0, 0)), (0x3FE, 0, .ok (0, 0x3FE)), (0x3FF, 0, .error 2), (0, 1, .error 1), (0x3FF, 8, .error 1)].all fun (e : Nat × Nat × Except Nat (Nat × Nat)) =>
    let n := rec_ .i32 .l 0 next1
    let m := rec_ .i32 .lr 0 next1
    let p := fun (d : Dev) (x : Fire) => decide (slotFault x = none) && decide (nodeSlot x d = e.2.2)
    fires (.ldnode n) n (portsOf (.ldnode n) n) [] (devOf (.ldnode n) (pay [e.1, e.2.1])) (p (devOf (.ldnode n) (pay [e.1, e.2.1])))
    && fires (.wrnode m) m (portsOf (.wrnode m) m) [] (devOf (.wrnode m) (pay [e.1, e.2.1]) (pay [1, 2, 3])) fun x => p (devOf (.wrnode m) (pay [e.1, e.2.1]) (pay [1, 2, 3])) x
      && (lane32? x.rPay 0).isSome && (lane32? x.rPay 1).isSome && (lane32? x.rPay 2).isSome) = true := by decide +kernel

/-! ### Witnesses: ports -/

def atPort (a : Access) (o : Occ) : Dev := { withAccs [a] (memDev (.ld (rec_ .i32 .l 3)) [] []) with occ := o }
def waiting (k : AccKind) (va : Nat) : Access :=
  { openAcc with kind := k, acc := none, qpos := some 3, port := if k = .lds ∨ k = .sts then 4 else 1, els := [⟨va, none, 4, 0, 0, false, 0, false, false, .todo⟩] }
theorem wit_Arrive : let a := { waiting .load 8 with qpos := none }
    let d := atPort a (.arrive 0 1)
    d.occ = .arrive 0 1 ∧ (d.page 0).accs.find? (·.id == 1) = some a ∧ a.qpos = none ∧
    ∀ y ∈ (d.page 0).accs, y.id < 1 → y.span = a.span → y.node = a.node → y.port = a.port → y.stream = a.stream → y.qpos.isSome = true := by decide +kernel
-- what it is, where, and the fault of a VA beyond the leaf
theorem wit_Accept : ([(AccKind.lds, 0x1000, true), (.sts, 0x1000, true), (.load, 8, true), (.store, 0xFFFC, true), (.atom, 8, true), (.cas, 8, true), (.load, 0x10000, false)].all fun e =>
    let a := waiting e.1 e.2.1
    let d := atPort a (.accept 0 a.port true)
    let a1 := { a with acc := some d.ids, since := d.now.toNat, round := (d.span a.span).rnd.round }
    let d1 := { d with ids := d.ids + 1, opRound := a1.round }
    let d2 := d1.modPage 0 fun p => { p with last := modNth (fun _ => a.stream) a.port p.last, busy := modNth (fun _ => d.now.toNat + pathCycles a) a.port p.busy }
    decide (d.cidOf 0 = some 0) && decide ((d.graph 0).ending = none) && decide ((d.graph 0).st ≠ .stopped)
    && decide ((d.page 0).accs.filter (fun y => y.port == a.port && y.acc.isNone && y.qpos.isSome) = [a]) && canAccept d 0 a
    && (e.1 == .lds || e.1 == .sts || (transAll 0 a1 true d2).1.toOption.isSome == e.2.2)) = true := by decide +kernel

/-- An accepted access with one element at home 0x10008. -/
def homeEl (size : Nat) (val : Nat) : Elem := ⟨8, some 0x10008, size, 0, val, false, 0, false, false, .todo⟩
def accepted (k : AccKind) (size : Nat) (f : Fmt) (op : Nat) (opnd : List Nat) : Access := { openAcc with kind := k, fmt := f, op, opnd, els := [homeEl size 9] }
theorem wit_Pending_hyp : ([(AccKind.load, 4, PerfAct.serve 0), (.store, 8, .apply 0), (.atom, 4, .apply 0), (.cas, 8, .apply 0)].all fun e =>
    let a := accepted e.1 e.2.1 .i32 0 [1]
    let d := atPort a (.perf 0 1 e.2.2)
    decide (d.occ = .perf 0 1 e.2.2) && decide ((d.page 0).accs.find? (·.id == 1) = some a) && a.acc.isSome && a.fault.isNone && decide (a.els[0]? = some (homeEl e.2.1 9))
    && decide ((regionOf d 0x10008).isTier = true) && wayOpen d 0x10008 && !acquireHeld d (d.page 0) a
    && mayRead d (d.page 0) a (homeEl e.2.1 9) && mayWrite d (d.page 0) a (homeEl e.2.1 9)
    && !(readEl d.mem (.span a.span) 0x10008 e.2.1).2.1 && decide (movedTo d 0x10008 = none) && decide (bankAt (d.page 0) 8 = none) && !homePoi d.mem 0x10008 e.2.1) = true := by
  decide +kernel
theorem wit_Pending : Pending (atPort (accepted .load 4 .i32 0 [1]) (.perf 0 1 (.serve 0))) 0 1 0 (accepted .load 4 .i32 0 [1]) (homeEl 4 9) 0x10008 :=
  { here := by decide +kernel, accepted := by decide +kernel, elem := by decide +kernel, tier := by decide +kernel, acquires := by decide +kernel }
/-- A moving leaf takes its copied line's stores at its destination too, apart from the home. -/
theorem wit_Store_moved : let m : Migr := ⟨0, 0, 0, 65536, 0, 0x10000, 0x40000, 0, 1024, .copy, 0, none⟩
    let d := atPort (accepted .store 4 .i32 0 []) (.perf 0 1 (.apply 0))
    movedTo { d with leaven := { d.leaven with migrs := [m] } } 0x10008 = some 0x40008 := by decide +kernel
theorem wit_Atomics : (([0, 1, 2, 3, 4, 5, 6].all fun op => [(Fmt.i32, 32, true), (.n32, 32, false), (.i64, 64, true), (.n64, 64, false)].all fun f =>
    decide (f.2.1 = 8 * (f.2.1 / 8)) && decide ((accepted .atom (f.2.1 / 8) f.1 op [2 ^ f.2.1 - 1]).opnd = [2 ^ f.2.1 - 1])) = true) := by decide +kernel
theorem wit_AccessTokens : ([(PerfAct.data, [⟨0, 0, 0, 1, .l⟩], []), (.done, [], [⟨0, 0, 0, 1, .l⟩])].all fun (e : PerfAct × List Dest × List Dest) =>
    let a := { accepted .load 4 .i32 0 [] with dataTo := e.2.1, doneTo := e.2.2, els := [{ homeEl 4 0 with st := .read [] }], acq := true }
    let d := atPort a (.perf 0 1 e.1)
    decide (d.occ = .perf 0 1 e.1) && decide ((d.page 0).accs.find? (·.id == 1) = some a) && a.fault.isNone && a.acc.isSome && decide (a.emit.cls = .data)
    && a.els.all (fun y => y.st != .todo) && a.perfAt d a.scope && hasSpace d a.span 1 && !a.dataSent) = true := by decide +kernel
-- a message to a context that takes it, to one that is FREE, and to a package with no route
theorem wit_Accept_send : ([(0, 0, none), (9, 0, some FCode.permf), (0, 6, some .linkf)].all fun (e : Nat × Nat × Option FCode) =>
    let a := { waiting .msend 0 with port := 5, aux := [2, e.1, e.2.1] }
    let d := atPort a (.accept 0 5 true)
    canAccept d 0 a && decide ((d.page 0).accs.filter (fun y => y.port == 5 && y.acc.isNone && y.qpos.isSome) = [a]) && decide (sendCause d a = e.2.2)
    && (a.boxPkg d == if e.2.1 = 0 then none else some 5)) = true := by decide +kernel
theorem wit_Accept_pref : let a := waiting .pref 8
    canAccept (atPort a (.accept 0 1 true)) 0 a = true := by decide +kernel

/-! ### Witnesses: engines -/

/-- A load whose one gateway binds one island of a kind. -/
def isle0 (k : IsleKind) : Isle := ⟨k, 0, 0⟩
def bindIsle (k : IsleKind) (d : Dev) : Dev := d.modGraph 0 fun g => { g with load := some { placedLoad with gws := [⟨k, 1, [isle0 k]⟩] } }
/-- Records of the engine nodes, in the order of `engineRows`. -/
def engineLits : List Nat :=
  [0, 0x8000, 0x10000, 0, 0, 0x8000, 0x10000, 0, 0, 0x8000, 0x10000, 0, 0, 0, 0, 0, 0x800, 0x1000, 0, 0x800, 0x1000, 0, 0, 0, 0, 0, 0, 0, 0, 0, 0, 0, 0x800, 0x1000,
   0, 0, 0x800, 0, 0x1800, 0x2000, 0]
def engineRecs : List NodeRec := engineLits.map fun l => rec_ .i32 .l l next1
def sureB (i : Instr) (x : Fire) : Bool :=
  match i with
  | .route _ => (decide (x.lit / 2 ^ 15 % 4 < 2) || ((laneOf x.rPay 0).ok && (laneOf x.rPay 1).ok)) && !(x.o.r.map (·.poi)).getD false && !(x.o.c.map (·.poi)).getD false
  | .migr _ | .mpin _ | .mpinOff _ | .mhint _ | .mrdupMod _ | .mrdupSys _ =>
    !(x.o.l.map (·.poi)).getD false && (lane64? x.lPay 0).any (· % 2 ^ 16 == 0) && (lane64? x.lPay 2).any (· % 2 ^ 16 == 0)
  | _ => !(x.o.l.map (·.poi)).getD false
theorem wit_EngineNodes : engineRows.length = 41 ∧ ((List.zip engineRows engineRecs).all fun (e, n) =>
    let n := match e.1 n with | .route _ => { n with ary := .lrc } | _ => n
    let i := e.1 n
    (gatewayKind i).any fun k =>
      let d := bindIsle k (devOf i)
      fires i n (portsOf i n) [] d fun x => decide (islandOf d x.cid i x.lit = some (isle0 k)) && (e.2 n).all (fun j => (laneOf x.lPay j).ok) && sureB i x
        && decide ((d.chan (isle0 k)).packets.length < 16)) = true := by decide +kernel

def packetOf (i : Instr) (l : Payload := pay []) : Packet :=
  { id := 7, cid := 0, span := 0, node := 0, instr := i, tag := placedTag, seq := 0, outTag := placedTag, outSeq := 0, l, r := [], c := [], poi := false
    a := some ⟨0, 0, 0, 1, .l⟩, b := none, lanes := 8, ftz := false, round := 0, hdr := 0, loc := 0, gw := 0, ix := 0 }
def taskOf (k : TaskKind) (p : Option Packet) (phase : Nat) : Task := { freshTask 7 k with pk := p, phase }
/-- An island of a placed load with a packet, a task and results in its channel. -/
def isleDev (k : IsleKind) (c : Chan) (o : Occ) : Dev := { (withTlb2 (bindIsle k (devOf (.far (rec_ .i32 .l 5))))).modChan (isle0 k) (fun _ => c) with occ := o }
theorem wit_PacketAccept : ([(IsleKind.rack, Instr.combSync), (.leaven, .migr), (.coll, .coll), (.hearth, .mstat)].all fun e =>
    let p := packetOf (e.2 (rec_ .i32 .l 0))
    let d := isleDev e.1 { packets := [p] } (.isle (isle0 e.1))
    decide (d.occ = .isle (isle0 e.1)) && decide ((d.chan (isle0 e.1)).packets = [p]) && (e.1 != .hearth || tileAccepts d (isle0 e.1) p)) = true := by decide +kernel
theorem wit_TaskComplete : let p := packetOf (.mdrainMem (rec_ .i32 .l 0x8000))
    let u := taskOf .packet (some p) 2
    TaskAt (isleDev .hearth { tasks := [u] } (.task (isle0 .hearth) 7)) (isle0 .hearth) 7 u p ∧ u.phase = 2 ∧ u.writes = [] :=
  ⟨⟨by decide +kernel, by decide +kernel, by decide +kernel⟩, by decide +kernel⟩
-- the first result, and the last one that a slot holds behind those of other tasks
theorem wit_Results : ([0, 63].all fun k =>
    let r := fun t : Nat => (⟨t, 0, placedTok .l, true, false⟩ : Result)
    let d := isleDev .peel { results := List.replicate k (r 1) ++ [r 2] } (.result (isle0 .peel) k)
    decide (k < 64) && decide ((d.chan (isle0 .peel)).results[k]? = some (r 2)) && ((d.graph 0).load.isSome) && decide ((d.graph 0).st = .resident)
    && decide ((d.graph 0).ending = none) && ((d.chan (isle0 .peel)).results.take k).all fun y => y.task != 2 && !y.ord) = true := by decide +kernel

def hearthTask (f : NodeRec → Instr) (lit : Nat) (l : Payload) : Dev :=
  isleDev .hearth { tasks := [taskOf .packet (some (packetOf (f (rec_ .i32 .l lit)) l)) 0] } (.task (isle0 .hearth) 7)
-- a route entry of KIND 0, and one of KIND 1 for node 0 of the placed span
theorem wit_TileTasks : ([(Instr.mtaskDef, 0x8000, pay []), (.mscale, 0, pay []), (.mzero, 0x10000, pay []), (.mdrainRoute, 0x10000, pay []),
      (.mdrainRoute, 0x10000, pay [0x40000000]), (.mstat, 0, pay []), (.mstat, 0x8000, pay []), (.mwait, 0, pay [])].all fun e =>
    let d := hearthTask e.1 e.2.1 e.2.2
    let p := packetOf (e.1 (rec_ .i32 .l e.2.1)) e.2.2
    let u := taskOf .packet (some p) 0
    decide (getTask d (isle0 .hearth) 7 = some u) && decide (u.kind = .packet) && decide (u.phase = 0) && !tasksHeld d 0
    && (routeEntry d 0 ((lane32? p.l 0).getD 0)).isSome && decide ((lane32? p.l 1).getD 0 = 0) && decide (tasksBefore d (isle0 .hearth) 7 = []) && (d.chan (isle0 .hearth)).results.isEmpty && (d.graph 0).load.isSome) = true := by decide +kernel

/-- A tile that context 0 holds, with one tray of threshold `thr` on whose filling side `rows` rows stand. -/
def rowTag : RowTag := ⟨placedTag, 0, false, none, false⟩
def trayOf (thr rows : Nat) (left : Option Nat) : Tray := { thr, s0 := { rows := List.replicate rows rowTag, left } }
/-- One whose timer has run out is due (R254). -/
def trayOf' (thr rows : Nat) (left : Option Nat) (due : Bool) : Tray := { trayOf thr rows left with s0 := { rows := List.replicate rows rowTag, left, due } }
def withTray (y : Tray) (d : Dev) : Dev := d.modTile 0 fun t => { t with cid := some 0, trays := [y] }
/-- How a task ends that a chain runs: with a fault, as the last, or with the next slot. -/
def ranB (r : Dev × Except Fail (Option Nat)) : Nat := match r.2 with | .error _ => 0 | .ok none => 1 | .ok (some _) => 2
def chainB (d : Dev) (u : Task) (first : Nat) : Bool :=
  let c := chainCid d (isle0 .hearth) u
  decide (d.occ = .task (isle0 .hearth) 7) && decide (getTask d (isle0 .hearth) 7 = some u) && decide (u.phase = 0) && decide (0 < (chainAt u first).2)
  && decide (u.num.length ≠ 3) && (u.num.isEmpty || !(d.graph c).draining || !(d.graph c).forced) && !tasksHeld d c
/-- Slot 0: K, M and N of 1, FP32; A in memory at VA 0 or in the tray's side, B at the start of the weight store; the last task, or followed by slot 0. -/
def slotWords (amem more : Bool) : List Nat := [0, (if amem then 0x100 else 0) + (if more then 0x08000000 else 0), 0, 0, 0, 0, 4, 4]
def withSlots (ws : List (List Nat)) (d : Dev) : Dev := d.modTile 0 fun t => { t with cid := some 0, slots := (indexed ws).map fun (k, w) => (k, { words := some w }) }
-- the first of its tasks, and the last of sixteen; with no descriptor, with the last one, and with one that has a next
theorem wit_FireStep : ([([], 0), ([slotWords false false], 1), ([slotWords false true], 2)].all fun (e : List (List Nat) × Nat) => [[], [0, 1]].all fun num =>
    let y := { trayOf 2 2 none with rowb := 4, fill := 1, s0 := { rows := [rowTag, rowTag], firing := true } }
    let u := { taskOf (.fire 0 0 false (some rowTag)) none 0 with num }
    let d := withTray y (withSlots e.1 (isleDev .hearth { tasks := [u] } (.task (isle0 .hearth) 7)))
    chainB d u 0 && decide ((d.tile (isle0 .hearth).tileNo).trays[0]? = some y) && ranB (chainRan d (isle0 .hearth) u 0 (d.graph 0).islRound) == e.2) = true := by decide +kernel
def chainP : Packet := packetOf (.mtaskGo (rec_ .i32 .l 0x10000)) (pay [])
def chainU : Task := taskOf .packet (some chainP) 0
def chainDev (more : Bool) : Dev := withTables (withSlots [slotWords true more] (hearthTask .mtaskGo 0x10000 (pay [])))
theorem wit_Chain : [false, true].all (fun more => chainB (chainDev more) chainU chainP.slot && ((chainDev more).graph chainP.cid).load.isSome) = true := by decide +kernel
/-- The die's TLB holds the translation of VA 0, which a walk gives again where it was replaced. -/
theorem fill_chainDev (more : Bool) : fillTlb (chainDev more) 0 0 0 4 = { chainDev more with tick := 1 } := by
  unfold fillTlb freeNat
  have h : (Config.freeBits 1 (chainDev more).tick).toNat = 0 ∨ (Config.freeBits 1 (chainDev more).tick).toNat = 1 := by omega
  cases more <;> rcases h with h | h <;> simp only [h] <;> decide +kernel
/-- The bytes of A that its task sees; a run of no scale bytes after them sees nothing. -/
theorem saw_chainDev (more : Bool) : (taskSaw (chainDev more) (isle0 .hearth) 0 4 0 4).2 = countHot { chainDev more with tick := 1 } 0 := by
  unfold taskSaw
  rw [show (isle0 .hearth).die = 0 from rfl, fill_chainDev]
  cases more <;> decide +kernel
theorem wit_Chain_ran (more : Bool) : ranB (chainRan (chainDev more) (isle0 .hearth) chainU chainP.slot chainP.round) = if more then 2 else 1 := by
  have hr : slotReads (taskChain (chainDev more) (isle0 .hearth) chainU) ((taskChain (chainDev more) (isle0 .hearth) chainU).tile (chainDev more)) 0 = [(0, 4), (0, 0)] := by
    cases more <;> decide +kernel
  have ho : ({ chainDev more with opRound := chainP.round } : Dev) = chainDev more := by cases more <;> rfl
  unfold chainRan
  rw [ho]
  show ranB (runSlot (taskChain (chainDev more) (isle0 .hearth) chainU) 0 (taskSawAll (chainDev more) (isle0 .hearth) 0 4 (slotReads (taskChain (chainDev more) (isle0 .hearth) chainU)
    ((taskChain (chainDev more) (isle0 .hearth) chainU).tile (chainDev more)) 0)).2) = _
  rw [hr, show (taskSawAll (chainDev more) (isle0 .hearth) 0 4 [(0, 4), (0, 0)]).2 = (taskSaw (taskSaw (chainDev more) (isle0 .hearth) 0 4 0 4).2 (isle0 .hearth) 0 4 0 0).2 from rfl,
    saw_chainDev]
  cases more <;> decide +kernel
theorem wit_Trays : ([(1, 1, none, true), (2, 1, some 0, true), (2, 1, some 0, false)].all fun (e : Nat × Nat × Option Nat × Bool) =>
    let y := { trayOf' e.1 e.2.1 e.2.2.1 e.2.2.1.isSome with s1 := { firing := !e.2.2.2 } }
    let d := withTray y (isleDev .hearth {} (.tray 0 0))
    decide (d.occ = .tray 0 0) && decide ((d.tile 0).trays[0]? = some y) && decide (y.fill < 2) && decide (y.thr ≠ 0) && (mayFire d 0 y == e.2.2.2)
    && (if e.1 = 1 then decide (y.thr ≤ y.filling.rows.length)
        else decide (y.filling.rows.length < y.thr) && decide (y.filling.left = some 0) && y.filling.due)) = true := by decide +kernel
-- a drain that waited at its row 0, with no later task in its chain
theorem wit_DrainGoesOn : let u := { chainU with num := [0, 1, 0] }
    let d := withSlots [slotWords true false] (isleDev .hearth { tasks := [u] } (.task (isle0 .hearth) 7))
    d.occ = .task (isle0 .hearth) 7 ∧ getTask d (isle0 .hearth) 7 = some u ∧ u.phase = 0 ∧ u.pk = some chainP ∧ chainP.instr = .mtaskGo (rec_ .i32 .l 0x10000) ∧
    tasksHeld d (chainCid d (isle0 .hearth) u) = false := by decide +kernel

/-! ### Witnesses: expert messages and collectives -/

def routeP (tag : Tag) : Packet := { packetOf (.route (rec_ .i32 .lrc 0)) with tag, r := pay [0x3F800000], c := pay [0, 5] }
def inTask (k : IsleKind) (u : Task) : Dev := isleDev k { tasks := [u] } (.task (isle0 k) 7)
theorem wit_DirectoryFill : let p := routeP placedTag
    let u := taskOf .packet (some p) 0
    let d := (inTask .sifter u).modHold 0 fun h => { h with dirCount := 6 }
    TaskAt d (isle0 .sifter) 7 u p ∧ (match routeScores d (isle0 .sifter) p with
      | .ok sc => decide (routeExperts p sc.1 = (1, [5])) && decide ((neededRanks d 0 0 1 [5]).find? (fun x => (cachedDir d 0 0 x).isNone) = some 5)
      | .error _ => false) = true :=
  ⟨⟨by decide +kernel, by decide +kernel, by decide +kernel⟩, by decide +kernel⟩

/-- A message of a kind in transit to an island of a placed load. -/
def msgOf (kind : Nat) (fs : List (Nat × Nat × Nat)) : EMsg := ⟨hdrOf ((255, 252, kind) :: fs), pay []⟩
def msgDev (k : IsleKind) (m : EMsg) : Dev := { isleDev k {} (.emsg 0) with emsgs := [⟨.ext 9, .isle (isle0 k), m⟩] }
def arrivingB (d : Dev) (kind : Nat) (k : IsleKind) (m : EMsg) : Bool :=
  decide (d.occ = .emsg 0) && decide (d.emsgs[0]? = some ⟨.ext 9, .isle (isle0 k), m⟩) && firstOnPath d 0 ⟨.ext 9, .isle (isle0 k), m⟩ && decide (m.mk_ = kind) && !m.bad
theorem wit_Credit : let m := msgOf 4 [(56, 48, 3)]
    let d := (msgDev .sifter m).modSifter 0 fun s => { s with cid := some 0, credits := [(m.path, ⟨0, 0⟩)] }
    arrivingB d 4 .sifter m = true ∧ (d.sifter (isle0 .sifter).unitNo).cid.isSome = true ∧ (d.sifter (isle0 .sifter).unitNo).credits.find? m.path = some ⟨0, 0⟩ := by decide +kernel
/-- The highest SEQ within a Rack's window. -/
theorem wit_Manifest : ([0, 4095].all fun q =>
    let m := msgOf 3 [(199, 174, q), (89, 86, 1)]
    let p := { routeP placedTag with seq := BitVec.ofNat 26 q }
    let d := ((msgDev .rack m).modChan (isle0 .sifter) fun _ => { tasks := [taskOf .packet (some p) 1] }).modRack 0 fun r => { r with cid := some 0 }
    let r := d.rack 0
    arrivingB d 3 .rack m && !r.spv && !seqPrecedes m.seq r.x && r.mans.all (fun y => y.seq != m.seq) && decide (seqAfter r.x m.seq ≤ 4095)
    && decide ((r.mans.map fun y => 16 * y.kk).sum + 16 * m.kk ≤ 32768) && decide (manifestTask d m = some (isle0 .sifter, taskOf .packet (some p) 1, p))) = true := by decide +kernel
def manOf (k : KState) : Manifest := { tag := placedTag, seq := 0, kk := 1, ks := [k] }
def rackWith (k : KState) (d : Dev) : Dev := d.modRack 0 fun r => { r with cid := some 0, mans := [manOf k], cfg := some ⟨0x40000000, 0, 0, 1⟩ }
-- a part that a contribution or a null completes, one that a further contribution leaves open, and one that has this slice's contribution already
theorem wit_Contrib : ([(1, 1, ({} : KState)), (2, 1, {}), (1, 2, {}), (1, 2, { g := some 2, n := 1, got := [(0, msgOf 1 [])] })].all fun (e : Nat × Nat × KState) =>
    let m := msgOf e.1 [(153, 151, e.2.1)]
    let q := e.2.2
    let d := rackWith q (msgDev .rack m)
    arrivingB d e.1 .rack m && !rackSaved d m && decide ((d.rack 0).cid = some m.tag.cid.toNat)
    && decide (((d.rack 0).mans.find? fun x => x.tag == m.tag && x.seq == m.seq) = some (manOf q)) && decide ((manOf q).ks[m.kidx]? = some q) && !q.done
    && decide ((manOf q).folded = m.kidx) && decide ((manOf q).ks.length ≤ (manOf q).folded + 1) && !(d.rack 0).spv && decide ((d.rack 0).stored < 32768)
    && (q.got.isEmpty || q.got.any fun g => decide (g.1 = m.sl))) = true := by
  decide +kernel
/-- A Rack with a spill region, whose second manifest has `n` contributions in the store. -/
def fullRack (n : Nat) : Rack :=
  { cid := some 0, spb := 1, mans := [manOf {}, { tag := placedTag, seq := 1, kk := 1, ks := [{ g := some 40000, n, got := List.replicate n (1, msgOf 1 []) }] }] }
theorem stored_fullRack (n : Nat) : (fullRack n).stored = n := by simp [Rack.stored, manOf, fullRack]
theorem wit_Contrib_spill : let m := msgOf 1 [(153, 151, 1)]
    let r := fullRack 32768
    r.spv = true ∧ 32768 ≤ r.stored ∧ (r.mans.find? fun x => x.tag == m.tag && x.seq == m.seq) = some (manOf {}) :=
  ⟨rfl, (stored_fullRack _).ge, rfl⟩
-- a row of one contribution, and one of a null
theorem wit_RowCommit : ([({ g := some 1, n := 1 } : KState), { isNull := true }].all fun k =>
    let d := rackWith k (isleDev .rack {} (.isle (isle0 .rack)))
    let r := d.rack 0
    decide (d.occ = .isle (isle0 .rack)) && decide (r.cfg = some ⟨0x40000000, 0, 0, 1⟩) && decide ((r.mans.find? fun y => y.seq == r.x) = some (manOf k))
    && (manOf k).ks.all KState.done && decide (outRows d (isle0 .rack) < 4) && decide ((d.graph 0).ending = none) && (routeDest d 0 0x40000000).isSome) = true := by
  decide +kernel

/-- Context 0 is saved with this tile, whose messages wait there. -/
def savedWith : Save := { kind := 2, load := placedLoad, pages := [], spans := [], isles := { tiles := [(0, 0, 0, {})], racks := [], sifters := [], chains := [] } }
def savedTile : Dev := ((msgDev .hearth (msgOf 0 [])).modTile 0 fun t => { t with held := some 0 }).modGraph 0 fun g => { g with load := none, save := some savedWith }
theorem wit_Dispatch_saved : arrivingB savedTile 0 .hearth (msgOf 0 []) = true ∧ (savedTile.tile 0).cid = none ∧ (savedTile.tile 0).held = some 0 ∧
    (savedTile.graph 0).save = some savedWith ∧ (savedWith.isles.tiles.any fun e => e.2.2.1 == (isle0 .hearth).tileNo) = true := by decide +kernel
theorem wit_Dispatch : (let m := msgOf 0 []
    let d := (msgDev .hearth m).modTile 0 fun t => { t with cid := some 0, trays := [trayOf 2 0 none], inbound := List.replicate 63 m }
    arrivingB d 0 .hearth m && decide ((d.tile 0).trays[m.tray]? = some (trayOf 2 0 none)) && decide ((trayOf 2 0 none).thr ≠ 0) && decide (m.jobid = (d.ctx 0).jobid) && decide ((d.tile 0).inbound.length < 64)
    && (isle0 .hearth).ix < 48) = true ∧
    (let d := msgDev .hearth (msgOf 0 [])
     arrivingB d 0 .hearth (msgOf 0 []) && (d.tile 0).cid.isNone && (d.tile 0).held.isNone) = true := by decide +kernel
theorem wit_Inbound : let m := msgOf 0 []
    let d := (isleDev .hearth {} (.isle (isle0 .hearth))).modTile 0 fun t => { t with cid := some 0, trays := [trayOf 2 1 none], inbound := [m] }
    d.occ = .isle (isle0 .hearth) ∧ (d.chan (isle0 .hearth)).tasks = [] ∧ (d.tile 0).inbound = [m] ∧ (d.tile 0).cid = some 0 ∧ (d.tile 0).trays[m.tray]? = some (trayOf 2 1 none) ∧
    (trayOf 2 1 none).thr ≠ 0 ∧ m.jobid = (d.ctx 0).jobid ∧ (trayOf 2 1 none).hasRoom = true := by decide +kernel
/-- The overflow queue 0 of Sifter 0 holds one entry, of zeros. -/
def queueDev : Dev :=
  let put := fun (d : Dev) (e : Nat × Nat) => withMem e.1 (bytesOf e.2 8) d
  let d := [(0x20000, 0x30000), (0x30000, 0x40000), (0x30008, 4), (0x30010, 1), (0x30018, 0)].foldl put (isleDev .sifter {} (.isle (isle0 .sifter)))
  d.modSifter 0 fun s => { s with cid := some 0, qtb := 0x20001 }
theorem wit_Scan : queueDev.occ = .isle (isle0 .sifter) ∧ (queueDev.sifter 0).cid = some 0 ∧ (queueDev.sifter 0).scanAt ≤ queueDev.now.toNat := by decide +kernel
theorem wit_ScanQueue : let v : OvQueue := ⟨0x30000, 0x40000, 4, 1, 0⟩
    ovQueue queueDev 0 (isle0 .sifter).unitNo 0 = some v ∧ v.used ≠ 0 ∧
    (∀ k, k < 8 → movedTo queueDev (v.at_ + 24 + k) = none) ∧
    (creditEntry queueDev [] (queueDev.sifter (isle0 .sifter).unitNo).credits
      (emsgOfImage (bytesBy queueDev.mem (fun w => w.at .mod) (OvQueue.entry queueDev v v.cons) 576)).path).map (·.1) = some 32 := by decide +kernel

def collOf (ranks : List Nat) (adest : Nat) : CollDesc := ⟨0, 0, 0, 0, 1, 0, 1, 0, 1, 0, 0, 0, adest, ranks, 0, [], false⟩
def collU (phase : Nat) (num : List Nat) (adest : Nat) : Task :=
  { taskOf .packet (some (packetOf (.coll (rec_ .i32 .l 0)))) phase with num, coll := some (collOf [0, 1] adest) }
theorem wit_CollEvents : ([[], [2], [1], [1, 2, 3]].all fun num => decide (getTask (inTask .coll (collU 3 num 0x40000000)) (isle0 .coll) 7 = some (collU 3 num 0x40000000))
    && (((inTask .coll (collU 3 num 0x40000000)).graph 0).load.isSome) && (routeDest (inTask .coll (collU 3 num 0x40000000)) 0 0x40000000).isSome && decide (rteKind 0x40000000 ≠ 0)) = true := by
  decide +kernel
-- its SRCFREE token is pending behind the write that its read returned, and LOCALDONE not yet sent or sent
theorem wit_CollSrcfree : ([[], [2]].all fun num =>
    let p := packetOf (.coll (rec_ .i32 .l 0))
    let r := fun y : Dest => (⟨p.id, p.cid, { tag := p.outTag, seq := p.outSeq, ma := .once, poi := false, cls := .data, lvl := 0, payload := List.replicate p.lanes ⟨0, false⟩, dest := y }, false, false⟩ : Result)
    let u := { collU 3 num 0 with pend := (p.a.toList.map r).map fun t => ([5], t) }
    let d := inTask .coll u
    decide (getTask d (isle0 .coll) 7 = some u) && decide (u.coll = some (collOf [0, 1] 0)) && decide (u.pk = some p) && decide (u.phase = 3) && ((d.graph 0).load.isSome)
    && !u.num.contains 1 && wDone d.mem (.isle (isle0 .coll) 7) u.scope 5 && decide (u.pend.length = 1)) = true := by decide +kernel
theorem wit_CollTimeout : let u := collU 1 [] 0
    let d0 := inTask .coll u
    let d := { d0 with now := 0x100000, sb := { d0.sb with ctl := 2 ^ 32 } }
    getTask d (isle0 .coll) 7 = some u ∧ (d.graph 0).ending = none ∧ (d.graph 0).st ≠ .stopped ∧ d.sb.ctl.toNat / 2 ^ 32 % 2 ^ 16 = 1 ∧
    (collOf [0, 1] 0).joined + 1 * 2 ^ 20 ≤ d.now.toNat ∧ allJoined d (collOf [0, 1] 0) = false := by decide +kernel
theorem wit_BraidStart : let p := packetOf (.bdiag (rec_ .i32 .l 0))
    let u := taskOf .packet (some p) 0
    let d := { inTask .braid u with braid := { lock := [(0, 0, [7, 8])] } }
    getTask d (isle0 .braid) 7 = some u ∧ (∃ e ∈ d.braid.lock, e.2.2.head? = some 7) ∧ tasksHeld d 0 = false := by decide +kernel
theorem wit_PatchEmit : let u := { taskOf .packet (some (packetOf (.pdec (rec_ .i32 .l 0)))) 4 with pend := [([], ⟨7, 0, placedTok .l, false, false⟩)] }
    getTask (inTask .peel u) (isle0 .peel) 7 = some u ∧ u.coll = none ∧ ((inTask .peel u).graph 0).load.isSome = true := by decide +kernel

/-! ### Witnesses: migration, tiering, residency -/

/-- A release ring that is empty, and a leaf of 64 KiB in HBM that context 0 maps. -/
def lvDev (o : Occ) : Dev :=
  let put := fun (d : Dev) (e : Nat × Nat) => withMem e.1 (bytesOf e.2 8) d
  let d := [(0x2000E0, 0x210000), (0x2000E8, 4)].foldl put (withTables (devOf (.far (rec_ .i32 .l 5))))
  { d with occ := o, leaven := { d.leaven with regs := { d.leaven.regs with frb := 0x200001 } } }
def migrOf (copied : Nat) (phase : MigPhase) : Migr := ⟨5, 0, 0, 65536, 1, 0x10000, 0x040000000000, 0, copied, phase, 0, none⟩
def migrDev (m : Migr) : Dev := { lvDev (.migr 5) with leaven := { (lvDev (.migr 5)).leaven with migrs := [m] } }
def leaf0 : Leaf := ⟨0, 65536, 0x10000, 0x703, 0x140000⟩
theorem wit_MigrAt : ∀ m ∈ [migrOf 0 .waiting, migrOf 0 .copy, migrOf 1023 .copy, migrOf 1024 .copy, migrOf 1024 .switch, migrOf 1024 .finish, migrOf 3 (.abort 2), migrOf 3 (.restore 1)],
    (migrDev m).occ = .migr m.id ∧ (migrDev m).leaven.migrs.find? (·.id == m.id) = some m ∧ walk (migrDev m) m.cid m.va = .ok leaf0 ∧ leaf0.size = m.size ∧ leaf0.va = m.va ∧
    (migrDev m).mem.wf = true ∧ m.quiet (migrDev m) = true ∧ shooting (migrDev m) m.id = false ∧ wayOpen (migrDev m) (homeKey (migrDev m) m.dst) = true ∧ movedTo (migrDev m) (homeKey (migrDev m) leaf0.pte) = none := by
  decide +kernel
theorem wit_Shootdown : let x : Shoot := ⟨3, 0, 0, some 65536, false, [], some 5⟩
    let d := { lvDev (.shoot 3) with leaven := { (lvDev (.shoot 3)).leaven with shoots := [x] } }
    d.leaven.shoots.find? (·.id == x.id) = some x ∧ shootDone d x = true := by decide +kernel
theorem wit_MigrationEnter : let m := migrOf 0 .waiting
    nextMigr (migrDev m) = some m ∧ movable (migrDev m) leaf0 = true ∧ pinnedLeaf (migrDev m) 0 leaf0 = false ∧ leafBusy (migrDev m) 0 leaf0 = false ∧
    ((migrDev m).leaven.migrs.filter started).length < maxMove (migrDev m) ∧ hasRoom (migrDev m) 1 = true := by decide +kernel
-- the leaf has become RDUP, and the destination is another package
theorem wit_MigrationEnter_leaves : let m := { migrOf 0 .waiting with dst := 2 ^ 52 + 0x040000000000 }
    let d := withMem 0x140000 (bytesOf 0x10713 8) (migrDev m)
    let l := { leaf0 with bits := 0x713 }
    d.leaven.migrs.find? (·.id == m.id) = some m ∧ nextMigr d = some m ∧ walk d m.cid m.va = .ok l ∧ l.size = m.size ∧ l.va = m.va ∧ movable d l = true ∧ l.state = 2 ∧
    isLocal d m.dst = false ∧ pinnedLeaf d 0 l = false ∧ leafBusy d 0 l = false ∧ (d.leaven.migrs.filter started).length < maxMove d ∧ hasRoom d 1 = true ∧ d.mem.wf = true ∧
    movedTo d (homeKey d l.pte) = none := by decide +kernel
-- the destination's link is down
theorem wit_CopyFails : let m := { migrOf 0 .copy with tier := 2, dst := 0x100000000000 }
    let d := { migrDev m with mem := { (migrDev m).mem with cxl := [(false, 2 ^ 20), (true, 0), (true, 0), (true, 0)] } }
    wayOpen d (homeKey d m.dst) = false ∧ m.copied * 64 < m.size := by decide +kernel
theorem wit_Deadline : let m := migrOf 3 .copy
    let d := { migrDev m with now := 0x100000 }
    d.leaven.regs.ctl.toNat / 2 ^ 16 % 2 ^ 16 = 0x100 ∧ m.started + 0x100 * 2 ^ 12 ≤ d.now.toNat := by decide +kernel
theorem wit_AbortTold : let p := packetOf (.migr (rec_ .i32 .l 0x1800))
    let u := taskOf .packet (some p) 1
    let m := { migrOf 3 (.restore 1) with task := some (isle0 .leaven, 7) }
    let d := { (inTask .leaven u) with leaven := (migrDev m).leaven, occ := .migr 5 }
    d.leaven.migrs.find? (·.id == m.id) = some m ∧ shooting d m.id = false ∧ isLocal d m.dst = true ∧ getTask d (isle0 .leaven) 7 = some u := by decide +kernel
/-- The frame table at 0x80000000; the entry of the leaf's frame names context 0 and has the given hotness. -/
def hotDev (hot : Nat) (o : Occ) : Dev :=
  let d := withMem 0x80000004 (bytesOf (0x8000 + hot) 4) (lvDev o)
  { d with now := 0x01000000, leaven := { d.leaven with regs := { d.leaven.regs with ftb := 0x80000001, ctl := d.leaven.regs.ctl ||| 3, auto := 1 }
                                                        spare := [(2, 0x040000000000)] } }
-- the period of context 0 ends at this cycle; of no owner (64) before it
theorem wit_HotDecay : ([0, 64].all fun k => let d := hotDev 9 (.frame k)
    decide (d.occ = .frame k) && bitAt d.leaven.regs.ftb.toNat 0 && decide (d.leaven.decays.getD k 0 + periodOf d k ≤ d.now.toNat) && d.mem.wf && d.leaven.migrs.isEmpty) = true := by
  decide +kernel
theorem wit_PopularityDecay : let d := hotDev 0 (.ctx 0)
    (d.graph 0).load.isSome = true ∧ d.leaven.popDecays.getD 0 0 + periodOf d (0 % 64) ≤ d.now.toNat := by decide +kernel
theorem wit_Tiering : let d := hotDev 4 (.leaf 0 0 1)
    walk d 0 0 = .ok leaf0 ∧ d.leaven.regs.ctl.getLsbD 0 = true ∧ d.leaven.regs.ftb.getLsbD 0 = true ∧ bitAt d.leaven.regs.auto.toNat 0 = true ∧
    (∀ e ∈ frameEntries d leaf0.frame leaf0.size, bitAt (readEntry d e) 15 = true ∧ readEntry d e / 2 ^ 8 % 2 ^ 6 = 0) ∧ qualifies d leaf0 1 = true ∧ pteTier leaf0.bits ≠ 1 ∧
    movable d leaf0 = true ∧ leaf0.state = 0 ∧ pinnedLeaf d 0 leaf0 = false ∧ leafBusy d 0 leaf0 = false ∧ leafAsked d 0 leaf0 = false ∧
    (popFrame (purged [poolOf 1 leaf0.size] (noteRings d)) (poolOf 1 leaf0.size)).isSome = true := by decide +kernel
/-- Expert 0 of context 0, with its residency entry and directory entry, its popularity, and its tile. -/
def expertDev (res pop : Nat) (acts : List (Nat × Nat × Nat)) : Dev :=
  let put := fun (d : Dev) (e : Nat × Nat) => withMem e.1 (bytesOf e.2 8) d
  let d := [(0x201000, 0x202000), (0x201008, 1), (0x202000, 0), (0x202008, 0x100000000 + 64), (0x203000, 1 + res * 8)].foldl put (hotDev 0 (.expert 0 0))
  let d := ((d.modHold 0 fun h => { h with dirBase := 0x203000, dirCount := 1 }).modSifter 0 fun s => { s with cid := some 0, pop := [(0, pop)] }).modTile 0 fun t => { t with cid := some 0 }
  { d with leaven := { d.leaven with regs := { d.leaven.regs with xrt := 0x201001 }, acts } }
theorem wit_Residency : ([(0, 0x1000), (2, 0x07FF)].all fun e =>
    let d := expertDev e.1 e.2 []
    decide (resEntry d 0 0 = some ⟨0, 64, false⟩) && d.leaven.regs.ctl.getLsbD 1 && decide (boundSifters d 0 ≠ []) && decide (0 < (d.hold 0).dirCount) && dirOk (readDir d 0 0)
    && decide (d.leaven.regs.thr.toNat / 2 ^ 48 % 2 ^ 16 = 0x1000) && decide (popularity d 0 0 = e.2) && decide (dirRes (readDir d 0 0) = e.1)
    && tilesBound d 0 (readDir d 0 0) && tilesFree d (readDir d 0 0) && decide (movedTo d (dirKey d 0 0) = none)) = true := by decide +kernel
theorem wit_FillComplete : let d := expertDev 0 0x1000 [(0, 0, 2)]
    (0, 0, 2) ∈ d.leaven.acts ∧ filling d 0 0 = false ∧ movedTo d (dirKey d 0 0) = none := by decide +kernel

/-! ### Witnesses: errors, sensors, cycles -/

def base0 : Dev := devOf (.far (rec_ .i32 .l 5))
def withCxl (d : Dev) : Dev := { d with mem := { d.mem with cxl := [(true, 2 ^ 20), (true, 0), (true, 0), (true, 0)] } }
def at_ (o : Occ) (d : Dev := base0) : Dev := { d with occ := o }
-- the first and the last unit of each kind, and its last place
theorem wit_Errors : ([ErrAt.store 0 0, .store 319 (2 ^ 22 - 1), .weight 0 0, .weight 191 (2 ^ 24 - 1), .array 191, .node 0, .node 319, .other 0 7 0, .other 4 12 1023,
      .tier 0x100000000003, .tier 0x10000].all fun e => [true, false].all fun b =>
    let d := at_ (.err e b 3)
    decide (d.occ = .err e b 3) && decide (d.dies.length = 5)) = true ∧
    regionOf base0 0x10000 = .hbm ∧ regionOf (withCxl base0) 0x100000000003 = .cxl 0 ∧ regionOf base0 0x040000000000 = .lpddr := by decide +kernel
theorem wit_ErrorNode : let stored := (indexed (base0.page 0).toks).filter fun e => e.2.place == .store
    (stored[3 % stored.length]?.isSome && !rollsBack base0 ((base0.cidOf 0).getD 64)) = true := by decide +kernel

/-- Die 3 with events and a log. -/
def dieDev (es : List Event) (log : List LogEnt) (win : Word64) (k : Nat) : Dev := at_ (.die 3 k) { base0 with dies := base0.dies.set 3 { events := es, log, errwin := win } }
def event (kind src : Nat) : Event := ⟨kind, src, 7, 0, 5⟩
-- a lasting source with one event (COUNT 1), and one that is not; a log with room, and a full one; an event that another source's precedes
theorem wit_ErrorLog : ([(⟨1, 5, 7, 0, 5⟩, 1, 0), (⟨2, 6, 7, 0, 5⟩, 1, 15), (⟨2, 3, 7, 0, 5⟩, 0x10, 16), (⟨3, 8, 7, 0, 5⟩, 1, 16)].all fun (e : Event × Nat × Nat) =>
    let d := dieDev [event 1 9, e.1] (List.replicate e.2.2 ⟨event 1 9, 0, 0⟩) (BitVec.ofNat 64 (0x0000400000000000 + e.2.1)) 1
    let x := d.die 3
    decide (x.events[1]? = some e.1) && decide (x.at_ ≠ some d.now.toNat) && decide (x.log.length = e.2.2)
    && decide (∀ f ∈ x.events.take 1, f.src = e.1.src → f.idx ≠ e.1.idx) && (isLasting { x with tracked := trackEvent x.tracked e.1 d.now.toNat } e.1 == decide (e.2.1 = 1))) = true := by
  decide +kernel
theorem wit_SpareRemap : (at_ (.die 4 0)).occ = .die 4 0 ∧ 4 < (at_ (.die 4 0)).dies.length := by decide +kernel

/-- Context 0 under containment, whose read has met an error after a cut, with one line of the log. -/
def cutOf (d : Dev) : Cut := ⟨1, ⟨1, placedLoad, [(0, d.page 0)], [(0, d.span 0)], ⟨[], [], [], []⟩⟩, [], [5], [waitOf 7]⟩
def undoOf (d : Dev) : Undo := ⟨[(3, 0x10000, List.replicate 64 7, [])], some (cutOf d), [], 3, false, true, 128⟩
def rollDev (draining : Bool) : Dev :=
  let d := at_ (.ctx 0) ((base0.modCtx 0 fun c => { c with cfg := 7 }).modGraph 0 fun g => { g with draining, forced := true })
  let d := { d with net := [flightOf (placedTok .l), { flightOf (placedTok .l) with cid := 1 }] }
  d.modHold 0 fun h => { h with undo := some (undoOf base0) }
theorem wit_Rollback : ([false, true].all fun b =>
    let d := rollDev b
    decide ((d.hold 0).undo = some (undoOf base0)) && (undoOf base0).hit && decide ((d.graph 0).load = some placedLoad) && decide ((d.graph 0).ending = none)
    && decide ((d.graph 0).st = .resident) && decide ((undoOf base0).cut = some (cutOf base0)) && rollsBack d 0 && !engineBusy d 0 && decide ((d.graph 0).draining = b)) = true := by decide +kernel

-- junction, stack and module limits, one below, at the throttle limit, below the trip limit and at it
theorem wit_Sensors : ([(0, 0, 799), (0, 0, 800), (4, 0, 919), (3, 0, 920), (1, 2, 719), (1, 2, 720), (0, 1, 799), (0, 1, 800), (4, 1, 5399), (4, 1, 5400)].all fun (e : Nat × Nat × Int) =>
    let d := at_ (.sensor e.1 e.2.1 e.2.2)
    (limitsOf d e.1 e.2.1).isSome && decide (e.2.1 < (d.die e.1).sensors.length) && decide (e.2.1 < (d.die e.1).throttle.length) && !d.tripped) = true ∧
    limitsOf base0 0 0 = some (800, some 920) ∧ limitsOf base0 1 2 = some (720, some 800) ∧ limitsOf base0 4 1 = some (5400, none) := by decide +kernel
theorem wit_Tripped : ∃ s : State, s.dev.tripped = true ∧ s.agenda = [.fire placedSite] :=
  ⟨{ stOf { base0 with tripped := true } with agenda := [.fire placedSite] }, rfl, rfl⟩
/-- Context 0, alone, with a charged page and a DEFICIT. -/
def cycleDev (deficit : Word64) : Dev :=
  ({ base0 with graphs := [(0, { base0.graph 0 with load := some placedLoad })] }.modPage 0 fun p => { p with charged := true }).modCtx 0 fun c => { c with deficit }
theorem wit_Cycle : ([0, 1, 2, BitVec.intMin 64].all fun k => let d := cycleDev k
    decide (d.graphs = [(0, d.graph 0)]) && decide ((d.graph 0).load = some placedLoad) && decide placedLoad.pages.Nodup && decide ((d.graph 0).spent < 2 ^ 63)
    && isCharged d 0 0) = true := by decide +kernel

/-! ### Witnesses: the loader -/

/-- An image of one load of one page without records, at VA 0 (R117 to R119). -/
def imageDev (magic : Nat) : Dev :=
  let put := fun (d : Dev) (e : Nat × Nat) => withMem e.1 (bytesOf e.2 8) d
  let d := [(0x10000, 0x100000000 + magic), (0x10008, 1), (0x10010, 0x40), (0x10020, 0xB0), (0x10040, 0x100000101), (0x10048, 0x80)].foldl put (withTables (at_ (.ctx 0)))
  let d := d.modGraph 0 fun g => { g with st := .queued, load := none }
  { d with loader := { d.loader with runq := [[], [], [0], []] } }
theorem wit_ImageCheck : ([0x4C534D55, 0].all fun m => let d := imageDev m
    decide ((d.graph 0).st = .queued) && !(d.graph 0).checked && decide ((d.graph 0).ending = none) && d.leaven.shoots.isEmpty && decide ((d.graph 0).msfull = none) && decide (4 ≤ (d.ctx 0).faultq.toNat % 16)
    && (match checkImage d 0 with | .ok (loads, segs) => m != 0 && loads.length == 1 && segs.isEmpty | .error r => m == 0 && r.cause == 1)) = true := by decide +kernel

def imgOf (w h : Nat) : ImgLoad := { w, h, spans := [⟨0, 0, 0, 0⟩], nodes := [], gws := [], streams := [], banks := [], toks := [⟨0, 0, 0, 3, .c, .sticky, 0, pay [7]⟩] }
/-- Context 1 is queued with a checked image of one load; context 0 holds what `place` says. -/
def queueDevOf (img : ImgLoad) (place : Load) : Dev :=
  let d := (at_ .none).modGraph 0 fun g => { g with load := some place, lrec := { g.lrec with savepa := 0x80000, savesize := 2 ^ 40 } }
  let d := place.pages.foldl (fun d p => d.modPage p fun x => { x with cid := some 0 }) d
  let d := (d.modGraph 1 fun g => { g with st := .queued, checked := true, image := [img] }).modCtx 1 fun c => { c with prio := 0 }
  { d with loader := { d.loader with runq := [[1], [], [], []], decide := true, placed := 3 } }
theorem wit_Waiting : ([(1, 1), (10, 8)].all fun (e : Nat × Nat) =>
    let img := imgOf e.1 e.2
    let d : Dev := queueDevOf img placedLoad
    decide (d.loader.runq.flatten = [1]) && decide ((d.graph 1).st = .queued) && decide ((d.graph 1).load = none) && (d.graph 1).checked && decide ((d.graph 1).ending = none)
    && !(d.graph 1).yielded && !(d.graph 1).newPrio && decide ((d.graph 1).image[(d.graph 1).ix]? = some img) && regsOk d 1 [img] && !heldByBlocked d 1 && decide (d.occ = .none)) = true := by
  decide +kernel
theorem wit_Decision_due : (queueDevOf (imgOf 1 1) placedLoad).loader.decide = true ∧
    (let d := { queueDevOf (imgOf 1 1) placedLoad with now := 2 ^ 16, loader := { runq := [[1], [], [], []] } }
     d.loader.decide = false ∧ d.loader.last + 2 ^ 16 ≤ d.now.toNat) := by decide +kernel
theorem wit_Decision_place : findPlace (queueDevOf (imgOf 1 1) placedLoad) 1 (imgOf 1 1) (diesFor (queueDevOf (imgOf 1 1) placedLoad) 1) [] [] = some (0, 0, 1, []) := by decide +kernel
/-- Every die has one page taken, so that no load of 10 by 8 pages finds a place; die 0's page is in its fourth row. -/
def fullDev (img : ImgLoad) (place : Load) : Dev :=
  let d := queueDevOf img place
  { d with pages := [(80, { cid := some 9 }), (160, { cid := some 9 }), (240, { cid := some 9 })] ++ d.pages }
theorem wit_Decision_victims : let d := fullDev (imgOf 10 8) placedLoad
    findPlace d 1 (imgOf 10 8) (diesFor d 1) [] [] = none ∧ d.loader.compact = none ∧ compactDie d 1 (imgOf 10 8) = none ∧ (d.graph 1).blocked = false ∧ d.loader.reserve = [] ∧
    chooseVictims d 1 (imgOf 10 8) = some [0] := by decide +kernel
def tall : Load := ⟨0, 0, 4, 0, 1, 1, [], 0⟩
theorem wit_Decision_compact : let img := imgOf 10 7
    let d := { fullDev img tall with pages := [(120, { cid := some 9 }), (200, { cid := some 9 }), (280, { cid := some 9 })] ++ (at_ .none).pages.drop 1 ++ [(40, { cid := some 0 })] }
    findPlace d 1 img (diesFor d 1) [] [] = none ∧ d.loader.compact = none ∧ (d.graph 1).compacted ≠ some d.loader.placed ∧ compactDie d 1 img = some 0 := by decide +kernel
theorem wit_Deficit : ([0, 0 - 1].all fun k => let d := at_ (.ctx 0) (cycleDev k)
    decide ((d.graph 0).st = .resident) && decide (i64 (d.ctx 0).deficit ≤ 0)) = true := by decide +kernel
theorem wit_Blocked : let d := { at_ (.ctx 1) (queueDevOf (imgOf 1 1) placedLoad) with now := 2 ^ 24 }
    (d.graph 1).st = .queued ∧ (d.graph 1).load = none ∧ (d.graph 1).checked = true ∧ (d.graph 1).queuedAt + 2 ^ 24 ≤ d.now.toNat := by decide +kernel

/-- Context 1 has a place in the south-east corner of die 3. -/
def placing (save : Option Save) : Dev :=
  (at_ (.ctx 1) (queueDevOf (imgOf 1 1) placedLoad)).modGraph 1 fun g => { g with load := some ⟨0, 3, 7, 9, 1, 1, [], 0⟩, save }
theorem wit_Placement : ([none, some (cutOf base0).save].all fun sv => let d := placing sv
    decide ((d.graph 1).load = some ⟨0, 3, 7, 9, 1, 1, [], 0⟩) && decide ((d.graph 1).image[(d.graph 1).ix]? = some (imgOf 1 1)) && decide ((d.graph 1).st = .queued)
    && decide ((d.graph 1).ending = none) && decide ((d.graph 1).save = sv) && decide (((imgOf 1 1).spans.map fun p => ((3 * 80 + (7 + p.py) * 10 + 9 + p.px) * 64 + p.fe)).Nodup)
    && decide ((d.hold 1).inbound = []) && decide ((d.hold 1).away = []) && sv.all fun s =>
      let at_ := fun k : Nat => 3 * 80 + (7 + k / 16) * 10 + 9 + k % 16
      let x := areaSave d 1 s
      decide ((x.pages.map fun e => at_ e.1).Nodup) && x.pages.all (fun e => (⟨0, 3, 7, 9, 1, 1, [], 0⟩ : Load).pages.contains (at_ e.1))
      && decide ((x.spans.map fun e => at_ (e.1 / 64) * 64 + e.1 % 64).Nodup) && !x.pages.isEmpty && !x.spans.isEmpty) = true := by
  decide +kernel

/-- Context 0 is asked to stop, or is stopping; `size` is its save area's. -/
def stopping (g : Graph → Graph) (size : Nat) (now : Word64) : Dev :=
  { (at_ (.ctx 0)).modGraph 0 fun x => g { x with lrec := { x.lrec with savepa := 0x80000, savesize := size } } with now, loader := { runq := [[], [], [], []], asks := [0] } }
theorem wit_PreemptionRequest : let d := stopping id (2 ^ 40) 5
    (d.graph 0).load = some placedLoad ∧ (d.graph 0).st = .resident ∧ (d.graph 0).ending = none ∧ 0 ∈ d.loader.asks ∧ (d.graph 0).preempt = none ∧ (d.graph 0).skip = false := by decide +kernel
theorem wit_PreemptionSave : ([true, false].all fun live =>
    let d := (stopping (fun g => { g with preempt := some ⟨0⟩ }) (2 ^ 40) (2 ^ 20)).modSpan 0 fun s => { s with loops := if live then [loopOf 8 4 [0, 3] none] else [] }
    decide ((d.graph 0).preempt = some ⟨0⟩) && decide ((d.graph 0).msfull = none) && !(d.graph 0).draining && (atBoundary d 0 true == !live) && decide (0 + 2 ^ 20 ≤ d.now.toNat)) = true := by
  decide +kernel
theorem wit_PreemptionEnd : ([(true, 2 ^ 40), (false, 2 ^ 40), (false, 0)].all fun (e : Bool × Nat) =>
    let d := stopping (fun g => { g with preempt := some ⟨0⟩, draining := true, forced := e.1 }) e.2 0
    (d.graph 0).draining && decide ((d.hold 0).undo = none) && quiet d 0 && settled d 0 && !engineWork e.1 d 0
    && (saveFits d 0 (saveOf d 0 placedLoad (if e.1 then 2 else 1)) == decide (0 < e.2))) = true := by decide +kernel

/-- Context 0 is to move on die 0, from row 4. -/
def moving (draining : Bool) : Dev :=
  let d := at_ (.ctx 0) { base0 with pages := [(40, base0.page 0)], spans := [(40 * 64, base0.span 0)] }
  { d.modGraph 0 fun g => { g with load := some tall, reloc := true, draining } with loader := { compact := some ⟨0, 1, [0], 0, false⟩ } }
theorem wit_Relocation : ([false, true].all fun b => let d := moving b
    (d.graph 0).reloc && decide ((d.graph 0).preempt = none) && ((d.graph 0).draining == b) && atBoundary d 0 false && decide (∀ p ∈ tall.pages, (d.page p).score = [] ∧ (d.page p).accs = [])
    && !storeTask d 0 tall && quiet d 0 && settled d 0 && decide (firstFit d 0 tall = some (0, 0)) && decide ((d.hold 0).undo = none)) = true := by decide +kernel
/-- A compaction for context 1, whose load takes 10 by `h` pages. -/
def compacting (h : Nat) (todo : List Nat) (reloc : Bool) : Dev :=
  let d := { fullDev (imgOf 10 h) tall with now := 2 ^ 20, loader := { compact := some ⟨0, 1, todo, 0, false⟩, placed := 3 } }
  { d with pages := [(120, { cid := some 9 }), (200, { cid := some 9 }), (280, { cid := some 9 }), (40, { cid := some 0 })] }.modGraph 0 fun g => { g with reloc }
theorem wit_Compaction : ([(1, [0], false), (7, [], false), (7, [0], false), (7, [0], true)].all fun (e : Nat × List Nat × Bool) =>
    let d := compacting e.1 e.2.1 e.2.2
    decide (d.loader.compact = some ⟨0, 1, e.2.1, 0, false⟩) && decide ((d.graph 1).image[(d.graph 1).ix]? = some (imgOf 10 e.1))
    && ((findPlace d 1 (imgOf 10 e.1) (diesFor d 1) [] []).isSome == decide (e.1 = 1)) && decide ((d.graph 0).load = some tall) && decide ((d.graph 0).st = .resident)
    && decide ((d.graph 0).ending = none) && decide ((d.graph 0).preempt = none) && ((d.graph 0).reloc == e.2.2) && !(d.graph 0).draining && decide (0 + 2 ^ 20 ≤ d.now.toNat)) = true := by decide +kernel

-- the load that was asked has reached no boundary: a loop of it is at work
theorem wit_CompactionSkip :
    let d := ((compacting 7 [0] true).modSpan (40 * 64) fun s => { (base0.span 0) with loops := [loopOf 8 4 [0, 3] none], nodes := s.nodes })
    d.loader.compact = some ⟨0, 1, [0], 0, false⟩ ∧ (d.graph 1).image[(d.graph 1).ix]? = some (imgOf 10 7) ∧ (d.graph 0).reloc = true ∧ (d.graph 0).draining = false ∧
    atBoundary d 0 false = false ∧ 0 + 2 ^ 20 ≤ d.now.toNat := by decide +kernel

/-- Context 0 has a record to post to its queue of 16 entries at VA 0. -/
def postDev (st : CtxSt) (prod cons : Nat) (trap : Word64) : Dev :=
  let put := fun (d : Dev) (e : Nat × Nat) => withMem e.1 (bytesOf e.2 8) d
  let d := [(0x10000, prod), (0x10008, cons), (0x10010, 5)].foldl put ((withTables (at_ (.ctx 0))).modGraph 0 fun g => { g with posts := [faultOf true (some 1)], st })
  d.modCtx 0 fun c => { c with trapnode := trap }
-- an empty queue, one with one free entry across the wrap of the indices, and a full one; resident with and without a trap node, and queued
theorem wit_FaultPost : ([(CtxSt.resident, 0, 0, 1), (.resident, 3, 2 ^ 64 - 12, 1), (.parked, 16, 0, 0), (.queued, 0, 0, 0)].all fun (e : CtxSt × Nat × Nat × Word64) =>
    let d := postDev e.1 e.2.1 e.2.2.1 e.2.2.2
    let d' := d.modGraph 0 fun g => { g with posts := [] }
    let base := (d.ctx 0).faultq.toNat / 2 ^ 12 % 2 ^ 45 * 2 ^ 12
    let num := fun o v => match loaderNum d' 0 (base + o) 8 with | .ok x => x == v | .error _ => false
    let puts := fun a l => match loaderPut d' 0 a l with | .ok _ => true | .error _ => false
    decide ((d.graph 0).posts = [faultOf true (some 1)]) && num 0 e.2.1 && num 8 e.2.2.1 && num 16 5 && puts (base + 64 + 64 * (e.2.1 % 16)) (faultOf true (some 1)).bytes
    && puts (base + 16) (bytesOf 6 8) && ((trapDest d 0).isSome == (e.2.2.2 == 1)) && decide ((d.graph 0).ending = none) && decide ((d.graph 0).st = e.1)) = true := by decide +kernel
-- the table grows to its greatest size, and cannot grow further
def fullTable (logn : Word64) : Dev :=
  ((at_ (.ctx 0)).modGraph 0 fun g => { g with st := .parked, msfull := some { faultOf false none with code := .msfull } }).modCtx 0 fun c => { c with spillsize := logn }
theorem wit_Msfull : ([6, 13, 14].all fun n => let d := fullTable (BitVec.ofNat 64 n)
    decide ((d.graph 0).load = some placedLoad) && decide ((d.graph 0).st = .parked) && decide ((d.graph 0).ending = none) && (d.graph 0).msfull.isSome
    && decide ((d.ctx 0).spillsize.toNat % 32 + 1 = n + 1) && (tablesFit d 0 ((d.ctx 0).spillbase.toNat / 2 ^ 12 % 2 ^ 10 * 2 ^ 12) (n + 1) || n == 14)) = true := by decide +kernel

/-- Context 0 ends; one more load of its image may follow. -/
def endDev (k : EndKind) (swept : Bool) (more : Bool) : Dev :=
  (at_ (.ctx 0)).modGraph 0 fun g => { g with ending := some ⟨k, 9, swept⟩, image := if more then [imgOf 1 1, imgOf 1 1] else [imgOf 1 1], lrec := { g.lrec with irq := true, vec := 2 } }
theorem wit_Ends_carried : ([EndKind.graph, .next, .clear, .kill, .reject].all fun k => [false, true].all fun b => let d := endDev k b (k == .next)
    decide ((d.graph 0).ending = some ⟨k, 9, b⟩) && drainedSys d 0 && decide ((d.graph 0).posts = []) && decide ((d.graph 0).load = some placedLoad)
    && placedLoad.pages.all (fun p => (d.page p).banks.all fun b => b.lines.all fun n => !n.dirty)
    && decide ((d.graph 0).ix + 1 < (d.graph 0).image.length ↔ k = .next)) = true := by decide +kernel

/-! ### Witnesses: registers, the aperture, commands, the debug window -/

-- every per-context register, of the first and the last context, with every bit written
theorem wit_SystemRegs : ([0, 1, 2, 3, 4, 5, 6, 7, 8, 0xB].all fun num => [0, 63].all fun tgt =>
    decide ((at_ (.reg num tgt (0 - 1))).occ = .reg num tgt (0 - 1)) && decide (tgt < 64) && (ctxMask num).isSome) = true ∧ (stOf base0).sec.boot = 1 := by decide +kernel
theorem wit_SystemRegs_EN : regArm base0 0 9 1 = .ctxcfgEnSet ∧ (base0.graph 9).st = .free ∧ regArm base0 0 0 0 = .ctxcfgEnClear ∧ (base0.graph 0).st = .resident ∧
    (let d := base0.modGraph 0 fun g => { g with st := .idle }
     (d.graph 0).st = .idle) := by decide +kernel
theorem wit_SystemRegs_spill : let d := base0.modGraph 0 fun g => { g with st := .parked }
    ([6, 14].all fun n => decide (regArm d 4 0 (BitVec.ofNat 64 n) = .spillRegisterWrite) && decide ((d.graph 0).msfull = none) && tablesFit d 0 0 n) = true ∧ (∀ p ∈ placedLoad.pages, ∀ e ∈ (d.page p).toks, heldPlace e = none) ∧ (d.hold 0).inbound = [] ∧ (d.hold 0).traps = [] := by decide +kernel
-- the enable is cleared, and the context is halted, cleared or killed, with MSFULL pending
theorem wit_SystemRegs_msfull : (fullTable 14).graph 0 |>.msfull.isSome := by decide +kernel
-- a page that no load holds, and one that a load holds
theorem wit_SystemRegs_page : (base0.page 319).cid = none ∧ (base0.page 0).cid ≠ none ∧ base0.dies.length = 5 := by decide +kernel

/-- A write of the host, and one that a store has queued. -/
def asking (w : CtlWrite) (d : Dev) : Dev := at_ (.aperture w) d
theorem wit_Asked (w : CtlWrite) (d : Dev) (h : d.host.pieces = []) :
    Asked (stOf (asking w d)) w (asking w d) ∧ Asked (stOf (at_ .queued { d with ctlq := [w] })) w { at_ .queued { d with ctlq := [w] } with ctlq := [] } :=
  ⟨⟨rfl, .inl ⟨rfl, h, rfl⟩⟩, ⟨rfl, .inr (.inr ⟨rfl, h, [], rfl, rfl⟩)⟩⟩
/-- A part of a longer write that is still to be made. -/
theorem wit_Asked_piece (w : CtlWrite) : let d := at_ .queued { base0 with host := { base0.host with pieces := [w] } }
    Asked (stOf d) w { d with host := { d.host with pieces := [] } } ∧ base0.host.pieces = [] :=
  ⟨⟨rfl, .inr (.inl ⟨rfl, [], rfl, rfl⟩)⟩, rfl⟩
theorem wit_LongWrite : ([(⟨0x10, 16, 5⟩ : CtlWrite), ⟨0x7FFFF8, 9, 0⟩].all fun w => decide (8 < w.size) && decide (w.off < 0x800000)) = true := by decide +kernel
theorem wit_ControlRegs : ([0x20, 0x10000, 0x10058 - 8, 0x22000, 0x23FF8, 0x30000, 0x30008, 0x30040, 0x30078].all fun o => (ctlMask o).isSome) = true ∧ ctlMask 0x30080 = none ∧ ctlMask 0x24000 = none := by
  decide +kernel
theorem wit_SbctlSame : base0.sb.ctl.getLsbD 0 = false := by decide +kernel
theorem wit_Lvshcmd : let d := { base0 with leaven := { base0.leaven with shoots := [⟨1, 0, 0, none, true, [], none⟩] } }
    d.leaven.shoots.any (·.cmd) = true ∧ base0.leaven.shoots.any (·.cmd) = false := by decide +kernel
theorem wit_Recovery : ([(⟨0x800000, 8, 5⟩ : CtlWrite), ⟨0xFFFFFF, 1, 5⟩].all fun w => decide (0x800000 ≤ w.off) && decide (w.off + w.size ≤ 0x1000000)) = true := by decide +kernel
theorem wit_Partial : ([(⟨0x10, 4, 5⟩ : CtlWrite), ⟨0x27, 1, 0⟩].all fun w => w.partly) = true := by decide +kernel
/-- Sterabel enabled or not, and a port in a state. -/
def portDev (en : Bool) (k st : Nat) : Dev := { base0 with now := 77, sb := { base0.sb with ctl := if en then 1 else 0, ports := [(k, { state := st, lanes := 4, fecc := 3, crcf := 1, retry := 2 })] } }
theorem wit_Ports : ([(true, 0, 2), (true, 63, 4), (false, 0, 3), (false, 63, 1)].all fun (e : Bool × Nat × Nat) =>
    let d := portDev e.1 e.2.1 e.2.2
    decide ((port d e.2.1).state = e.2.2) && (d.sb.ctl.getLsbD 0 == e.1) && decide (d.dies.length = 5)) = true := by decide +kernel

/-- Context 0 in a state, with a save area. -/
def cmdDev (st : CtxSt) (size : Nat) : Dev := base0.modGraph 0 fun g => { g with st, lrec := { g.lrec with savepa := 0x80000, savesize := size } }
theorem wit_Commands : ([(CtxSt.resident, 2 ^ 40, true, true, false), (.parked, 0, false, true, false), (.queued, 2 ^ 40, false, true, false), (.stopped, 2 ^ 40, false, false, true),
      (.idle, 2 ^ 40, false, false, false)].all fun (e : CtxSt × Nat × Bool × Bool × Bool) =>
    let g := (cmdDev e.1 e.2.1).graph 0
    (decide ((g.st = .resident ∨ g.st = .parked) ∧ g.ending = none ∧ g.preempt = none ∧ g.skip = false ∧ saveFits (cmdDev e.1 e.2.1) 0 (captureLoad (cmdDev e.1 e.2.1) 0 placedLoad 1) = true) == e.2.2.1)
    && (decide ((g.st = .queued ∨ g.st = .resident ∨ g.st = .parked) ∧ g.ending = none) == e.2.2.2.1) && (decide (g.st = .stopped ∧ g.ending = none) == e.2.2.2.2)
    && ((cmdDev e.1 e.2.1).ctx 0).en) = true := by decide +kernel
theorem wit_Debug_disabled : base0.glob.dbgEn = false := by decide +kernel
theorem wit_Commands_disabled : (base0.ctx 1).en = false := by decide +kernel

/-- The debug window enabled, on a class, a die, a unit and an address. -/
def dbgDev (cls die unit a : Nat) (st : CtxSt) : Dev :=
  { (base0.modGraph 0 fun g => { g with st }).modTile 0 fun t => { t with cid := some 0 } with
    glob := { base0.glob with dbgEn := true, dbgsel := BitVec.ofNat 64 (cls * 2 ^ 60 + die * 2 ^ 55 + unit * 2 ^ 40 + a) } }
-- held units, stopped ones and free ones; the first and the last place of each
theorem wit_Debug : ([(0, 0, 0, 0, CtxSt.resident, true), (1, 0, 0, 0, .resident, true), (4, 0, 0, 0, .resident, true), (0, 0, 0, 2 ^ 22 - 8, .stopped, false), (0, 3, 79, 0, .resident, false),
      (4, 0, 0, 2 ^ 24 - 8, .stopped, false), (4, 3, 47, 0, .resident, false), (1, 0, 0, 0xBFFFF, .stopped, false), (1, 3, 79, 0, .resident, false)].all fun (e : Nat × Nat × Nat × Nat × CtxSt × Bool) =>
    let d := dbgDev e.1 e.2.1 e.2.2.1 e.2.2.2.1 e.2.2.2.2.1
    let sel := d.glob.dbgsel.toNat
    d.glob.dbgEn && decide (sel / 2 ^ 60 % 16 = e.1) && decide (sel / 2 ^ 55 % 8 = e.2.1) && decide (sel / 2 ^ 40 % 256 = e.2.2.1) && decide (sel % 2 ^ 40 = e.2.2.2.1)
    && ((debugBinder d e.1 e.2.1 e.2.2.1 e.2.2.2.1).any (fun x => (d.graph x).st != .stopped) == e.2.2.2.2.2)
    && (debugSize e.1 e.2.1 e.2.2.1).any fun n => decide (e.2.2.2.1 + 1 ≤ n)) = true := by decide +kernel
-- the loop area of a page store, and a place beyond the state of a unit
theorem wit_Debug_ends : debugSize 0 3 79 = some 0x400000 ∧ 0x3E0000 ≤ 0x400000 - 1 ∧ ¬ (∃ n, debugSize 4 3 47 = some n ∧ 2 ^ 24 + 1 ≤ n) ∧ debugSize 4 3 48 = none := by decide +kernel
theorem wit_Debug_outside_table : ∀ k < 8, tabledAt (dbgDev 0 0 0 (2 ^ 22 - 8) .stopped) 0 (2 ^ 22 - 8 + k) = none := by decide +kernel

/-- An image whose header is the byte 2, signed so that both multipliers are 1: `r` and `s` are the digest, the key is the point of that abscissa less the base point. -/
def goodImage : Firmware :=
  let h : BitVec 384 := 0xdb475240477c5e4497a2c5724ca485f5b1f2c2fc0602b92bae234238ec8d4e873a7148c739593e95a7f4dfe7c6e69f69
  { version := Config.minVersion, length := 0, header := [2], body := [], digest := h, sig := h ++ h
    key := 0xb42062144550e6f1c1eab261bc2f03156627cfba964fb8b26e2ec1644432b6873cf698069cf8aabcd7ebc2754650b412ced6ff89af867f08cc08fa4c6a369dc0e2ee4f55350a07a3820e84657604c645d002b3907e62a6a02e4847ea6bb59fbc }
theorem test_sha384_byte : sha384 [2] = goodImage.digest := by decide +kernel
theorem test_ecdsa : ecdsaOk goodImage.key goodImage.digest goodImage.sig = true := by decide +kernel
/-- The image is good where slot 0 of the fuses holds the hash of its key, not revoked. -/
theorem wit_imageOk (hk : Config.keyHash 0 = sha384 ((bytesOf goodImage.key.toNat 96).reverse)) (hr : Config.keyRevoked 0 = false) : imageOk goodImage = true := by
  have h : (List.range 4).any (fun k => Config.keyHash k == sha384 ((bytesOf goodImage.key.toNat 96).reverse) && !Config.keyRevoked k) = true :=
    List.any_eq_true.mpr ⟨0, by decide, by simp [hk, hr]⟩
  have hd : goodImage.digest == sha384 (goodImage.header ++ goodImage.body) := beq_iff_eq.mpr test_sha384_byte.symm
  have hs : ecdsaOk goodImage.key (sha384 (goodImage.header ++ goodImage.body)) goodImage.sig = true := by
    rw [show goodImage.header ++ goodImage.body = [2] from rfl, test_sha384_byte]; exact test_ecdsa
  unfold imageOk
  simp only [h, hd, hs, Bool.and_true, decide_eq_true_eq, Bool.and_eq_true]
  exact ⟨rfl, Nat.le_refl _⟩
theorem wit_imageBad : imageOk { goodImage with length := 1 } = false := rfl

/-! ### Witnesses: the host, the links, the security processor -/

/-- The bytes of a host write, and a channel whose record names a context. -/
def ringDev (ch : Nat) (recCid : Nat) (st : CtxSt) : Dev :=
  let d := (at_ (.bar0 (4096 * ch + 0x40) [1, 0, 0, 0])).modGraph 0 fun g => { g with st }
  { d with host := { d.host with wins := [(ch, { lrec := BitVec.ofNat 512 (recCid * 2 ^ 256 + 5), irec := BitVec.ofNat 512 (9 * 2 ^ 32 + 0x81 * 2 ^ 56 + 7 * 2 ^ 256) })] } }
theorem wit_Ring : ([(3, 0, CtxSt.idle, 0), (0, 0, .free, 1), (0, 0, .resident, 2), (255, 0, .idle, 4)].all fun (e : Nat × Nat × CtxSt × Nat) =>
    let d := ringDev e.1 e.2.1 e.2.2.1
    let c := e.1 / 4
    let v := (win d e.1).lrec.toNat
    decide (e.1 < 256) && decide ((if v / 2 ^ 256 % 64 ≠ c then 4 else match (d.graph c).st with | .free => 1 | .idle => 0 | _ => 2) = e.2.2.2)) = true ∧
    ({ stOf (ringDev 0 0 .idle) with sec := {} } : State).sec.boot ≠ 1 := by decide +kernel
def iringDev (k : Nat) (st : CtxSt) : Dev :=
  { ringDev 3 0 st with occ := .bar0 (4096 * 3 + 0xC0) [1, 0, 0, 0] }.modHold 0 fun h => { h with inbound := List.replicate k (placedTok .l) }
theorem wit_Iring : ([(0, CtxSt.idle, false), (63, .queued, true), (64, .queued, true), (0, .resident, true), (63, .parked, true)].all fun (e : Nat × CtxSt × Bool) =>
    let d := iringDev e.1 e.2.1
    let g := d.graph 0
    (decide ((g.st = .queued ∨ g.st = .resident ∨ g.st = .parked) ∧ g.ending = none) == e.2.2) && decide ((d.hold 0).inbound.length = e.1)) = true := by decide +kernel
-- at a resident load: page (0,0) is in it, page (15,7) is not; at a queued one, and at one that has ended
theorem wit_Iring_place : (let d := iringDev 0 .resident
    ((d.graph 0).load.any fun l => (l.feAt 0 0).isSome && (l.feAt 127 0).isNone) && !d.parkedFrame 0 0 && decide ((d.graph 0).st ≠ .queued) && decide ((d.graph 0).ending = none)) = true ∧
    ((iringDev 0 .queued).graph 0).st = .queued := by decide +kernel

/-- BAR 2 with HWBASE 0: the first bytes, the last of HBM, and a place across the end of HBM. -/
def barDev (off : Nat) (a : HostAcc) : Dev := at_ (.bar2 off a) { base0 with host := { base0.host with barLog := 40 } }
theorem wit_Bar2 : ([(0, 8, true), (0x007FFFFFFFF8, 8, true), (0x007FFFFFFFFC, 8, false)].all fun (e : Nat × Nat × Bool) =>
    let d := barDev e.1 (.read e.2.1)
    decide (e.1 < 2 ^ d.host.barLog) && (bar2Ok d (d.host.hwbase.toNat + e.1) e.2.1 == e.2.2) && decide (frameEntry d e.1 = none) && d.leaven.migrs.isEmpty) = true := by decide +kernel
theorem wit_LaunchRecord : ([(0, 0), (255, 15)].all fun (e : Nat × Nat) => decide (e.1 < 256) && decide (e.2 < 16)) = true := by decide +kernel

/-- A flit with its CRC, or with every bit of it wrong. -/
def withCrc (f : Flit) (good : Bool) : Flit := { f with crc := if good then crc32 f.covered else ~~~crc32 f.covered }
theorem crcOk_withCrc (f : Flit) (g : Bool) : (withCrc f g).crcOk = g := by
  have h : ∀ x : BitVec 32, (~~~x == x) = false := fun x => by
    simp only [beq_eq_false_iff_ne, ne_eq, ← BitVec.toNat_inj, BitVec.toNat_not]; omega
  have e : (withCrc f g).covered = f.covered := rfl
  unfold Flit.crcOk
  rw [e]
  cases g
  · exact h _
  · exact beq_self_eq_true _
def flitOf (dst eseq lseq : Nat) (good : Bool := true) : Flit :=
  withCrc { vc := 1, lseq, ack := 2, src := 3, dst, eseq, payload := List.replicate 240 7, crc := 0 } good
/-- A port that is up and expects flit 4, after `tries` refusals; the next flit of the source and channel is number 2. -/
def flitDev (tries : Nat) (o : Occ) : Dev :=
  at_ o { base0 with sb := { base0.sb with ctl := 1, ports := [(63, { state := 2, lanes := 4, next := 4, tries, fecc := 0xFFFE })], expect := [((3 * 1024 + 0) * 4 + 1, 2)] } }
-- in order, already given, early, and for another package; a wrong number and a wrong CRC, at the last refusal that stays up and at the one that does not
theorem wit_Flits : ([(0, flitOf 0 2 4), (0, flitOf 0 1 4), (0, flitOf 0 3 4), (0, flitOf 5 2 4), (7, flitOf 0 2 5), (7, flitOf 0 2 4 false), (8, flitOf 0 2 4 false)].all fun (e : Nat × Flit) =>
    let d := flitDev e.1 (.flit 63 5 e.2)
    decide ((port d 63).state = 2) && decide (d.dies.length = 5) && decide ((port d 63).next = 4) && decide ((port d 63).tries = e.1) && decide (d.pkg = 0) && d.sb.early.isEmpty
    && decide (d.sb.expect.getD ((e.2.src * 1024 + 0) * 4 + e.2.vc) 0 = 2)) = true := by decide +kernel
/-- The CRC-32 of the nine digits, as IEEE 802.3 has it. -/
theorem test_crc32 : crc32 [0x31, 0x32, 0x33, 0x34, 0x35, 0x36, 0x37, 0x38, 0x39] = 0xCBF43926 := by decide +kernel
/-- The port has sent flits 1 and 2 of its own and has two that wait, one of REQ and one of RSP, with a credit for each. -/
def sendDev (replays : Nat) (a : PortAct) : Dev :=
  let o := fun (vc n : Nat) (p : FlitAt) => (⟨{ flitOf 5 n n with vc, src := 0 }, p, true⟩ : OutFlit)
  let d := flitDev 0 (.portAct 63 a)
  { d with sb := { d.sb with rt := [(5, 2 ^ 63)], out := [o 0 1 (.sent 63), o 0 2 (.sent 63), o 0 3 .waiting, o 1 4 .waiting],
                             ports := [(63, { port d 63 with sendNo := 3, replays, credit := [1, 1, 0, 0] })] } }
theorem wit_PortActs : (sendDev 0 .send).occ = .portAct 63 .send ∧ (port (sendDev 0 .send) 63).state = 2 ∧ servedVc (sendDev 0 .send) 63 = some 1 ∧
    (readyFlit (sendDev 0 .send) 63 1).isSome = true ∧ (readyFlit (sendDev 0 .send) 63 0).isSome = true ∧ (port (sendDev 0 .send) 63).lastVc ≠ 1 ∧
    ([0, 7, 8].all fun r => [1, 2].all fun n => (takenFlits (sendDev r (.refused n)) 63 n).1.any fun o => o.at_ == .sent 63) = true ∧
    (sendDev 0 (.arrived 5 0 2)).sb.out.length = 4 := by decide +kernel
theorem wit_Training : ([(2, 4), (3, 2), (0, 0)].all fun (e : Nat × Nat) =>
    let d := at_ (.port 63 e.1 e.2 0x7FF) (portDev true 63 1)
    decide ((port d 63).state = 1) && d.sb.ctl.getLsbD 0) = true := by decide +kernel

/-- The access of port 1, of 4 bytes at a physical place. -/
def farAcc (pa : Nat) : Access := { openAcc with els := [⟨8, some pa, 4, 0, 0, false, 0, false, false, .todo⟩] }
def deadDev (pa : Nat) (o : Occ) : Dev := { withCxl (withAccs [farAcc pa] { base0 with pages := [(0, base0.page 0)] }) with occ := o, now := 2 ^ 26, sb := { base0.sb with ctl := 0xFFFF0000 } }
-- the greatest deadline, to the cycle; a remote place, a CXL one, and the host window
theorem wit_Deadlines : ([2 ^ 52, 0x100000000000].all fun pa =>
    let d := { deadDev pa (.arrive 0 1) with now := 0xFFFF * 2 ^ 10 }
    decide (d.sb.ctl.toNat / 2 ^ 16 % 2 ^ 16 = 0xFFFF) && decide ((farAcc pa).since + 0xFFFF * 2 ^ 10 ≤ d.now.toNat) && decide (Machine.openAcc d = some (0, farAcc pa))
    && decide (openPart d (farAcc pa) (fun k => toRemote k || toCxl d k) = (farAcc pa).els.head?)) = true := by decide +kernel
theorem wit_RouteTimeout : let d := deadDev (2 ^ 52) (.arrive 0 1)
    Machine.openAcc d = some (0, farAcc (2 ^ 52)) ∧ openPart d (farAcc (2 ^ 52)) (fun k => toRemote k && routeDead d (k / 2 ^ 52 - 1) 0) = (farAcc (2 ^ 52)).els.head? ∧
    (d.graph 0).ending = none ∧ (d.graph 0).st ≠ .stopped := by decide +kernel
-- an engine task waits for its write to a remote place, with the greatest deadline, to the cycle; no port leads there
theorem wit_TaskDeadlines : (let u := { taskOf .packet (some (packetOf (.pcopy (rec_ .i32 .l 0)))) 2 with writes := [77], since := some 0 }
    let d0 := inTask .peel u
    let d := { d0 with now := 0xFFFF * 2 ^ 10, sb := { base0.sb with ctl := 0xFFFF0000 }, mem := { d0.mem with wlog := [⟨77, 2 ^ 52, [5], [], false, .isle (isle0 .peel) 7, none, []⟩] } }
    decide (d.occ = .task (isle0 .peel) 7) && decide (getTask d (isle0 .peel) 7 = some u) && decide (d.sb.ctl.toNat / 2 ^ 16 % 2 ^ 16 = 0xFFFF) && openWrite d u
    && decide (u.since = some 0) && decide (0 + 0xFFFF * 2 ^ 10 ≤ d.now.toNat) && waitsForRoute { d with now := 2 ^ 26 } u && decide ((d.graph 0).ending = none) && decide ((d.graph 0).st ≠ .stopped)) = true := by decide +kernel
theorem wit_CompletionTimeout : let d := deadDev 0x300000000000 (.arrive 0 1)
    Machine.openAcc d = some (0, farAcc 0x300000000000) ∧ isRead (farAcc 0x300000000000).kind = true ∧ regionOf d 0x300000000000 = .hostWin := by decide +kernel
theorem wit_CxlDown : let d := deadDev 0x100000000000 (.cxl 0)
    d.mem.cxl[0]? = some (true, 2 ^ 20) ∧ d.pages = [(0, d.page 0)] ∧ (d.page 0).accs = [farAcc 0x100000000000] ∧ (farAcc 0x100000000000).acc.isSome = true ∧
    openPart d (farAcc 0x100000000000) (fun b => !toRemote b && regionOf d b == .cxl 0) = (farAcc 0x100000000000).els.head? ∧
    openTasks d (fun b => !toRemote b && regionOf d b == .cxl 0) = [] ∧ (∀ e ∈ (withCxl { base0 with pages := [] }).pages, e.2.accs = []) := by decide +kernel
-- a task under way whose write the link has not taken
theorem wit_CxlDown_task : let u := { taskOf .packet (some (packetOf (.pcopy (rec_ .i32 .l 0)))) 2 with writes := [77], since := some 0 }
    let d0 := withCxl (inTask .peel u)
    let d := { d0 with occ := .cxl 0, mem := { d0.mem with wlog := [⟨77, 0x100000000000, [5], [], false, .isle (isle0 .peel) 7, none, []⟩] } }
    d.mem.cxl[0]? = some (true, 2 ^ 20) ∧ openTasks d (fun b => !toRemote b && regionOf d b == .cxl 0) = [(isle0 .peel, u)] ∧ (∀ e ∈ d.pages, e.2.accs = []) ∧
    (d.graph 0).ending = none ∧ (d.graph 0).st ≠ .stopped := by decide +kernel

/-- A request of package 5, of a privileged context or not, at the last words of HBM or across a hole. -/
def reqOf (priv : Bool) (pa : Nat) (k : ReqKind) : RemReq := ⟨5, 1, 0, priv, pa, k⟩
def reqDev (en : Bool) (r : RemReq) : Dev := at_ (.request r) { (withMem 0x7FFFFFFFF8 [9] base0) with sb := { base0.sb with ctl := if en then 1 else 0 } }
theorem wit_Requests : ([(true, 0x7FFFFFFFF8, true), (false, 0x7FFFFFFFF8, false), (true, 0x3FFFFFFFFFF, false), (true, 0x200000000008, true)].all fun (e : Bool × Nat × Bool) =>
    let r := reqOf e.1 e.2.1 (.read 8)
    let d := reqDev true r
    (requestOk d r == e.2.2) && decide (frameEntry d r.pa = none) && d.leaven.migrs.isEmpty && d.sb.ctl.getLsbD 0 && !(reqDev false r).sb.ctl.getLsbD 0) = true := by decide +kernel
theorem wit_RequestMail : ([0, 63].all fun n =>
    let d := (reqDev true (reqOf false 0x200000000008 (.msend 0 3 ⟨pay [1], false⟩))).modHold 0 fun h => { h with mail := [(3, List.replicate n ⟨pay [2], false⟩)] }
    decide ((d.graph 0).st ≠ .free) && decide ((d.ctx 0).jobid = 0) && !(regionOf d 0x200000000008).isTier && decide (((d.hold 0).mail.getD 3 []).length = n)) = true := by decide +kernel

-- a mailbox of a context that is free, or of another job
theorem wit_RequestMail_refused : (base0.graph 5).st = .free ∧ (base0.ctx 0).jobid ≠ 1 ∧ base0.dies.length = 5 := by decide +kernel
-- the host's configuration space, its reads of registers, an AtomicOp, and an early write of a window
theorem wit_HostOther : ([34, 43].all fun n => decide ((at_ (.config (.barSize n))).occ = .config (.barSize n)) && decide (34 ≤ n ∧ n ≤ 43)) = true ∧
    (at_ (.bar0Atomic 8)).occ = .bar0Atomic 8 ∧ (at_ (.bar0Read 0x1000020 8)).occ = .bar0Read (0x1000000 + 0x20) 8 ∧
    targetOk 10 63 = true ∧ (sysReg base0 10 63 63 63).isSome = true ∧
    touches 0x80 4 0x40 = none ∧ touches 0x80 4 0xC0 = none ∧ touches 0xFFFFC 4 0xC0 = none ∧ base0.dies.length = 5 := by decide +kernel

-- boot after a cold reset: the images by `wit_imageOk` and `wit_imageBad`
theorem wit_ColdReset : (at_ (.firmware [goodImage, goodImage, goodImage] [0, 0, 0, 0])).occ = .firmware [goodImage, goodImage, goodImage] [0, 0, 0, 0] ∧ base0.mem.wlog = [] := ⟨rfl, by decide +kernel⟩
def secOf (boot failed : Nat) : State := { dev := base0, sec := { boot := BitVec.ofNat 3 boot, failed } }
theorem wit_Recovery_verify : (secOf 2 0).dev.occ = .none ∧ (secOf 2 0).sec.boot = 2 ∧ (secOf 3 2).sec.boot = 3 ∧ (secOf 3 2).sec.failed = 2 ∧ (secOf 3 2).sec.slots.length = 16 ∧
    (secOf 3 2).sec.slots[2]? = some 0 := by decide +kernel
/-! The recovery buffer has any image that the host has written to it; at first it has zeros. -/

theorem find_zipIdx (l : List Byte) : ∀ (k n : Nat) (b : Byte), (b, n) ∈ l.zipIdx k → Tab.find? ((l.zipIdx k).map fun p => (p.2, p.1)) n = some b := by
  induction l with
  | nil => intro k n b h; simp at h
  | cons a r ih =>
    intro k n b h
    rw [List.zipIdx_cons] at h ⊢
    rcases List.mem_cons.mp h with h | h
    · obtain ⟨rfl, rfl⟩ := Prod.mk.inj h
      simp [Tab.find?]
    · have hk : k + 1 ≤ n := (List.mem_zipIdx h).1
      have := ih (k + 1) n b h
      simp only [Tab.find?, List.map_cons, List.find?_cons] at this ⊢
      rw [show (k == n) = false from by simp; omega]
      exact this
/-- So a good image may stand there, and a bad one. -/
theorem wit_Recovery_written (d : Dev) (i : Firmware) (h : d.host.recovery = indexed i.bytes) : inRecovery d i = true := by
  unfold inRecovery
  rw [List.all_eq_true]
  rintro ⟨n, b⟩ hm
  obtain ⟨⟨b', n'⟩, hp, he⟩ := List.mem_map.mp hm
  obtain ⟨rfl, rfl⟩ := Prod.mk.inj he
  rw [h]
  simp only [Tab.getD, indexed, find_zipIdx i.bytes 0 _ _ hp, Option.getD_some, beq_self_eq_true]
theorem wit_Recovery_empty : inRecovery base0 { goodImage with version := 5 } = false := by decide +kernel
theorem wit_MeasurementExtend : ([4, 13].all fun k => decide ((stOf base0).sec.slots[k]? = some 0) && decide (4 ≤ k ∧ k ≤ 13)) = true ∧ (stOf base0).sec.slots[15]? = some 0 := by decide +kernel
theorem wit_Spdm : ([0, 1, 2, 3].all fun n => ({ (stOf base0) with sec := { (stOf base0).sec with spdm := n } } : State).sec.spdm == n) = true := by decide +kernel

end Sys2Proof.Tests
end

/-! ## Records written out from their fields (R86, R100, R104)

`packRec` places the fields of R86 side by side, so each of them is read back from the bits it was placed in. The encodings of R104 are four
records packed in this way. -/

namespace Sys2Proof.Fields
open Sys2Proof.Machine

/-! ### Codes and destinations -/

theorem encFmt_lt (f : Fmt) : encFmt f < 2 ^ 4 := by cases f <;> decide
theorem encAry_lt (a : Ary) : encAry a < 2 ^ 2 := by cases a <;> decide
theorem encPrd_lt (p : Prd) : encPrd p < 2 ^ 2 := by cases p <;> decide
theorem encTga_lt (t : Tga) : encTga t < 2 ^ 3 := by cases t <;> decide
theorem encPort_lt (q : Port) : encPort q < 2 ^ 2 := by cases q <;> decide
theorem boolNat_lt (b : Bool) : boolNat b < 2 := by cases b <;> decide

@[simp] theorem decFmt_encFmt (f : Fmt) : decFmt (encFmt f) = f := by cases f <;> rfl
@[simp] theorem decAry_encAry (a : Ary) : decAry (encAry a) = a := by cases a <;> rfl
@[simp] theorem decPrd_encPrd (p : Prd) : decPrd (encPrd p) = p := by cases p <;> rfl
@[simp] theorem decTga_encTga (t : Tga) : decTga (encTga t) = .ok t := by cases t <;> rfl
@[simp] theorem decPort_encPort (q : Port) : decPort (encPort q) = q := by cases q <;> rfl

theorem fld_eq_div_mod (x hi lo : Nat) : fld x hi lo = x / 2 ^ lo % 2 ^ (hi + 1 - lo) := by
  rw [fld, Nat.shiftRight_eq_div_pow]

theorem encDst_lt (d : Dst) : encDst d < 2 ^ 22 := by
  rcases d with _ | ⟨dx, dy, node, q⟩
  · decide
  · have hq := encPort_lt q
    simp only [encDst]
    omega

/-- A destination is read back from its 22 bits, but for node 0x3FF with offsets and port 0, whose code is that of no destination (R101). -/
theorem decDst_encDst {d : Dst} (h : d ≠ .to 0 0 0x3FF .l) : decDst (encDst d) = d := by
  rcases d with _ | ⟨dx, dy, node, q⟩
  · rfl
  · have hq := encPort_lt q
    have hx : fld (encDst (.to dx dy node q)) 21 17 = dx.toNat := by simp only [encDst, fld_eq_div_mod]; omega
    have hy : fld (encDst (.to dx dy node q)) 16 12 = dy.toNat := by simp only [encDst, fld_eq_div_mod]; omega
    have hn : fld (encDst (.to dx dy node q)) 11 2 = node.toNat := by simp only [encDst, fld_eq_div_mod]; omega
    have hp : fld (encDst (.to dx dy node q)) 1 0 = encPort q := by simp only [encDst, fld_eq_div_mod]; omega
    have hne : encDst (.to dx dy node q) ≠ 0xFFC := by
      intro he
      rw [he] at hx hy hn hp
      have hdx : dx = 0 := BitVec.eq_of_toNat_eq hx.symm
      have hdy : dy = 0 := BitVec.eq_of_toNat_eq hy.symm
      have hnode : node = 0x3FF := BitVec.eq_of_toNat_eq hn.symm
      have hl : q = .l := by rw [← decPort_encPort q, ← hp]; rfl
      exact h (by rw [hdx, hdy, hnode, hl])
    simp [decDst, hne, hx, hy, hn, hp]

/-! ### The fields of a packed record -/

/-- The bits of every field of R86 hold the field's own code. -/
theorem packRec_fields (opc : Nat) (n : NodeRec) :
    fld (packRec opc n) 95 88 = opc % 2 ^ 8 ∧ fld (packRec opc n) 87 84 = encFmt n.fmt ∧ fld (packRec opc n) 83 82 = encAry n.ary ∧
    fld (packRec opc n) 81 80 = encPrd n.prd ∧ fld (packRec opc n) 79 77 = encTga n.tga ∧ packRec opc n / 2 ^ 76 % 2 = boolNat n.seq ∧
    fld (packRec opc n) 75 54 = encDst n.dsta ∧ fld (packRec opc n) 53 32 = encDst n.dstb ∧ fld (packRec opc n) 31 0 = n.lit.toNat := by
  have hfmt := encFmt_lt n.fmt
  have hary := encAry_lt n.ary
  have hprd := encPrd_lt n.prd
  have htga := encTga_lt n.tga
  have hseq := boolNat_lt n.seq
  have hdsta := encDst_lt n.dsta
  have hdstb := encDst_lt n.dstb
  simp only [packRec, fld_eq_div_mod]
  omega

theorem packRec_seq (opc : Nat) (n : NodeRec) : bitAt (packRec opc n) 76 = n.seq := by
  obtain ⟨-, -, -, -, -, hseq, -⟩ := packRec_fields opc n
  rw [bitAt, Nat.testBit_eq_decide_div_mod_eq, hseq]
  cases n.seq <;> rfl

/-- A record packed from an opcode and fields decodes to the opcode's instruction with those fields, provided that no destination has the code of
none without being none (R101). -/
theorem decodeNat_packRec {opc : Nat} {n : NodeRec} {mk : NodeRec → Instr} (hopc : opc < 2 ^ 8) (hmk : ctorOf opc n.lit.toNat = .ok mk)
    (ha : n.dsta ≠ .to 0 0 0x3FF .l) (hb : n.dstb ≠ .to 0 0 0x3FF .l) : decodeNat (packRec opc n) = .ok (mk n) := by
  obtain ⟨hop, hfmt, hary, hprd, htga, -, hdsta, hdstb, hlit⟩ := packRec_fields opc n
  rw [Nat.mod_eq_of_lt hopc] at hop
  rw [decodeNat, hop, hlit, hmk, htga, decTga_encTga, hfmt, hary, hprd, hdsta, hdstb, packRec_seq]
  simp only [decFmt_encFmt, decAry_encAry, decPrd_encPrd, decDst_encDst ha, decDst_encDst hb, BitVec.ofNat_toNat, BitVec.setWidth_eq]

/-- The same of the 96 bits themselves, which hold every bit of the packed fields. -/
theorem decodeRec_of_packRec {r : Record} {opc : Nat} {n : NodeRec} {mk : NodeRec → Instr} (hr : r.toNat = packRec opc n)
    (hmk : ctorOf opc n.lit.toNat = .ok mk) (ha : n.dsta ≠ .to 0 0 0x3FF .l) (hb : n.dstb ≠ .to 0 0 0x3FF .l) : decodeRec r = .ok (mk n) := by
  have hopc : opc < 2 ^ 8 := by
    have hlt := r.isLt
    rw [hr, packRec] at hlt
    omega
  rw [decodeRec, hr]
  exact decodeNat_packRec hopc hmk ha hb

/-! ### The encodings of R104

Each word is the packing of its fields, computed from R86 and R100, and its opcode has the one row of R110. -/

/-- Settles O17: each of the four words packs its fields, so decoding reads them back. -/
theorem decodedWords : Obligations.DecodedWords := by
  refine ⟨?fadd, ?fmul, ?add, ?far⟩
  case fadd => exact decodeRec_of_packRec (opc := 0x40) (by decide) rfl (by decide) (by decide)
  case fmul => exact decodeRec_of_packRec (opc := 0x42) (by decide) rfl (by decide) (by decide)
  case add => exact decodeRec_of_packRec (opc := 0x03) (by decide) rfl (by decide) (by decide)
  case far => exact decodeRec_of_packRec (opc := 0x28) (by decide) rfl (by decide) (by decide)

end Sys2Proof.Fields

/-! ## Elements of a payload, and the operations on them (R54, R125, R132, R133, R138)

An element operation reads the elements of two payloads and packs its results into a payload; where each result fits the width of the format, the
elements read back from that payload are the results (`elems_packElems_map2`). The statements on division, shifts and HASH then speak of single
elements: of a pattern's value and of how many bits a result needs. -/

namespace Sys2Proof.Elements
open Sys2Proof.Machine Sys2Proof.Claims

/-! ### Patterns and values of a width (R54) -/

theorem rd_eq_valOf (n : Nat) (sg : Bool) (p : Nat) : rd n sg p = valOf p n sg := by simp [rd, valOf]

theorem wr_eq_patOf (n : Nat) (v : Int) : wr n v = patOf v n := rfl

theorem patOf_lt (v : Int) (n : Nat) : patOf v n < 2 ^ n := by
  have hpos : (0 : Int) < 2 ^ n := by positivity
  rw [patOf, Int.toNat_lt (Int.emod_nonneg v hpos.ne')]
  exact_mod_cast Int.emod_lt_of_pos v hpos

theorem patOf_natCast {p n : Nat} (hp : p < 2 ^ n) : patOf p n = p := by
  rw [patOf, Int.emod_eq_of_lt (Int.natCast_nonneg p) (by exact_mod_cast hp), Int.toNat_natCast]

theorem patOf_sub_two_pow (v : Int) (n : Nat) : patOf (v - 2 ^ n) n = patOf v n := by rw [patOf, patOf, Int.sub_emod_right]

theorem patOf_valOf {p n : Nat} (sg : Bool) (hp : p < 2 ^ n) : patOf (valOf p n sg) n = p := by
  rw [valOf]
  split
  · rw [patOf_sub_two_pow, patOf_natCast hp]
  · exact patOf_natCast hp

theorem two_pow_pred {n : Nat} (hn : 0 < n) : (2 : Int) ^ n = 2 * 2 ^ (n - 1) := by
  rw [← pow_succ', Nat.sub_add_cancel hn]

@[simp] theorem intLo_signed (n : Nat) : intLo n true = -2 ^ (n - 1) := rfl
@[simp] theorem intHi_signed (n : Nat) : intHi n true = 2 ^ (n - 1) - 1 := rfl
@[simp] theorem intLo_unsigned (n : Nat) : intLo n false = 0 := rfl
@[simp] theorem intHi_unsigned (n : Nat) : intHi n false = 2 ^ n - 1 := rfl
@[simp] theorem valOf_unsigned (p n : Nat) : valOf p n false = p := rfl

theorem valOf_signed (p n : Nat) : valOf p n true = if (2 : Int) ^ (n - 1) ≤ p then (p : Int) - 2 ^ n else p := by
  have hcast : (2 : Int) ^ (n - 1) ≤ p ↔ 2 ^ (n - 1) ≤ p := by norm_cast
  simp [valOf, hcast]

/-- Every value in the range of a width is the value of a pattern. -/
theorem exists_valOf_eq {v : Int} {n : Nat} {sg : Bool} (hn : 0 < n) (hlo : intLo n sg ≤ v) (hhi : v ≤ intHi n sg) :
    ∃ p < 2 ^ n, valOf p n sg = v := by
  have hpow := two_pow_pred hn
  zify
  cases sg with
  | false =>
    rw [intLo_unsigned] at hlo
    rw [intHi_unsigned] at hhi
    exact ⟨v.toNat, by omega, Int.toNat_of_nonneg hlo⟩
  | true =>
    rw [intLo_signed] at hlo
    rw [intHi_signed] at hhi
    simp only [valOf_signed]
    by_cases hv : 0 ≤ v
    · exact ⟨v.toNat, by omega, by rw [if_neg (by omega), Int.toNat_of_nonneg hv]⟩
    · exact ⟨(v + 2 ^ n).toNat, by omega, by rw [if_pos (by omega)]; omega⟩

theorem valOf_patOf {v : Int} {n : Nat} {sg : Bool} (hn : 0 < n) (hlo : intLo n sg ≤ v) (hhi : v ≤ intHi n sg) : valOf (patOf v n) n sg = v := by
  obtain ⟨p, hp, rfl⟩ := exists_valOf_eq hn hlo hhi
  rw [patOf_valOf sg hp]

theorem valOf_range {p n : Nat} (sg : Bool) (hn : 0 < n) (hp : p < 2 ^ n) : intLo n sg ≤ valOf p n sg ∧ valOf p n sg ≤ intHi n sg := by
  have hpow := two_pow_pred hn
  zify at hp
  cases sg with
  | false =>
    rw [intLo_unsigned, intHi_unsigned, valOf_unsigned]
    omega
  | true =>
    rw [intLo_signed, intHi_signed, valOf_signed]
    split <;> omega

theorem valOf_eq_zero {p n : Nat} (sg : Bool) (hp : p < 2 ^ n) : valOf p n sg = 0 ↔ p = 0 := by
  constructor
  · intro h
    rw [← patOf_valOf sg hp, h]
    simp [patOf]
  · rintro rfl
    simp [valOf]

/-! ### Elements of a lane -/

/-- The elements of width `w` in a lane, all present or all absent. -/
def groupEls (w : Nat) (ok : Bool) (h : Nat → Nat) : List (Option Nat) := (List.range (32 / w)).map fun k => if ok then some (h k) else none

/-- The pattern of element `k` of a lane. -/
def laneFld (w : Nat) (a : Lane) (k : Nat) : Nat := fld a.nat (w * k + w - 1) (w * k)

def laneEls (w : Nat) (a : Lane) : List (Option Nat) := groupEls w a.ok (laneFld w a)

@[simp] theorem groupEls_length (w : Nat) (ok : Bool) (h : Nat → Nat) : (groupEls w ok h).length = 32 / w := by simp [groupEls]

@[simp] theorem laneEls_length (w : Nat) (a : Lane) : (laneEls w a).length = 32 / w := groupEls_length ..

theorem groupEls_congr {w : Nat} {ok : Bool} {g h : Nat → Nat} (hgh : ∀ k < 32 / w, g k = h k) : groupEls w ok g = groupEls w ok h :=
  List.map_congr_left fun k hk => by rw [hgh k (List.mem_range.1 hk)]

theorem width_pos {w : Nat} (hw : w ∣ 32) : 0 < w := Nat.pos_of_dvd_of_pos hw (by decide)

theorem laneFld_eq {w : Nat} (hw : w ∣ 32) (a : Lane) (k : Nat) : laneFld w a k = a.nat / (2 ^ w) ^ k % 2 ^ w := by
  have := width_pos hw
  rw [laneFld, fld, Nat.shiftRight_eq_div_pow, pow_mul, show w * k + w - 1 + 1 - w * k = w by omega]

theorem laneFld_lt {w : Nat} (hw : w ∣ 32) (a : Lane) (k : Nat) : laneFld w a k < 2 ^ w :=
  laneFld_eq hw a k ▸ Nat.mod_lt _ (Nat.two_pow_pos w)

/-! ### A lane from its elements -/

/-- The bits of a lane built from present elements are those elements as digits. -/
theorem laneFrom_nat {w : Nat} (hw : w ∣ 32) {h : Nat → Nat} (hlt : ∀ k, h k < 2 ^ w) :
    (laneFrom w (groupEls w true h)).nat = Nat.ofDigits (2 ^ w) ((List.range (32 / w)).map h) := by
  have hbase : 1 < 2 ^ w := Nat.one_lt_two_pow (width_pos hw).ne'
  have hsum : ((indexed (groupEls w true h)).map fun (k, e) => e.getD 0 * 2 ^ (w * k)).sum = Nat.ofDigits (2 ^ w) ((List.range (32 / w)).map h) := by
    rw [Nat.ofDigits_eq_sum_mapIdx]
    congr 1
    apply List.ext_getElem <;> simp [indexed, groupEls, pow_mul]
  have hbits : Nat.ofDigits (2 ^ w) ((List.range (32 / w)).map h) < 2 ^ 32 := by
    have := Nat.ofDigits_lt_base_pow_length (l := (List.range (32 / w)).map h) hbase (by simpa using fun k _ => hlt k)
    rwa [List.length_map, List.length_range, ← pow_mul, Nat.mul_div_cancel' hw] at this
  have hfull : (groupEls w true h).length * w = 32 ∧ (groupEls w true h).all Option.isSome := by
    simp [groupEls, Nat.div_mul_cancel hw]
  rw [laneFrom, if_pos hfull, hsum]
  simpa [Lane.nat, Lane.some] using hbits

theorem laneFrom_ok {w : Nat} (hw : w ∣ 32) (ok : Bool) (h : Nat → Nat) : (laneFrom w (groupEls w ok h)).ok = ok := by
  have : 32 / w ≠ 0 := (Nat.div_pos (Nat.le_of_dvd (by decide) hw) (width_pos hw)).ne'
  cases ok <;> simp [laneFrom, groupEls, Nat.div_mul_cancel hw, Lane.none, Lane.some, this]

/-- The elements a lane was built from are read back from it. -/
theorem laneEls_laneFrom {w : Nat} (hw : w ∣ 32) (ok : Bool) {h : Nat → Nat} (hlt : ∀ k, h k < 2 ^ w) :
    laneEls w (laneFrom w (groupEls w ok h)) = groupEls w ok h := by
  rw [laneEls, laneFrom_ok hw]
  cases ok with
  | false => rfl
  | true =>
    refine groupEls_congr fun k hk => ?_
    rw [laneFld_eq hw, laneFrom_nat hw hlt, Nat.ofDigits_div_pow_eq_ofDigits_drop k (Nat.two_pow_pos w) _ (by simpa using fun k _ => hlt k),
      List.drop_eq_getElem_cons (by simpa using hk), Nat.ofDigits_cons]
    simp [Nat.mod_eq_of_lt, hlt]

/-! ### Formats whose elements lie within a lane -/

theorem fmtBits_dvd_or_pair (f : Fmt) : fmtBits f ∣ 32 ∨ fmtBits f = 64 := by cases f <;> simp [fmtBits]

theorem elems_of_dvd {f : Fmt} (hf : fmtBits f ∣ 32) (p : Payload) : elems f p = p.flatMap (laneEls (fmtBits f)) := by
  have hword : p.map (fun a => if a.ok then some a.nat else none) = p.flatMap (laneEls 32) := by
    have hlane (a : Lane) : laneEls 32 a = [if a.ok then some a.nat else none] := by
      simp [laneEls, groupEls, laneFld_eq, Nat.mod_eq_of_lt (show a.nat < 4294967296 from a.val.isLt)]
    rw [List.map_eq_flatMap, funext hlane]
  rw [elems]
  split
  next h => rw [h] at hf; exact absurd hf (by decide)
  next h => rw [h]; exact hword
  next => rfl

theorem packElems_of_dvd {f : Fmt} (hf : fmtBits f ∣ 32) (n : Nat) (es : List (Option Nat)) :
    packElems f n es = (List.range n).map fun j => laneFrom (fmtBits f) ((es.drop (j * (32 / fmtBits f))).take (32 / fmtBits f)) := by
  rw [packElems]
  split
  next h => rw [h] at hf; exact absurd hf (by decide)
  next => rfl

theorem packElems_flatten {f : Fmt} (hf : fmtBits f ∣ 32) {gs : List (List (Option Nat))} (hgs : ∀ g ∈ gs, g.length = 32 / fmtBits f) :
    packElems f gs.length gs.flatten = gs.map (laneFrom (fmtBits f)) := by
  rw [packElems_of_dvd hf]
  induction gs with
  | nil => rfl
  | cons g gs ih =>
    have hg : g.length = 32 / fmtBits f := hgs g List.mem_cons_self
    have ih := ih fun g' hg' => hgs g' (List.mem_cons_of_mem g hg')
    rw [List.map_cons, ← ih, List.length_cons, List.range_succ_eq_map, List.map_cons, List.map_map, List.flatten_cons]
    congr 1
    · simp [← hg]
    · refine List.map_congr_left fun j _ => ?_
      rw [Function.comp, Nat.succ_mul, Nat.add_comm, ← List.drop_drop, List.drop_left' hg]

theorem zipWith_flatMap {α β γ : Type} (op : β → β → γ) (e : α → List β) {k : Nat} (he : ∀ a, (e a).length = k) {l r : List α}
    (hlr : l.length = r.length) :
    List.zipWith op (l.flatMap e) (r.flatMap e) = (List.zipWith (fun a b => List.zipWith op (e a) (e b)) l r).flatten := by
  induction l generalizing r with
  | nil => rfl
  | cons a l ih =>
    cases r with
    | nil => simp at hlr
    | cons b r =>
      rw [List.flatMap_cons, List.flatMap_cons, List.zipWith_append (by rw [he, he]), ih (by simpa using hlr)]
      rfl

/-! ### An operation of two elements (R125) -/

theorem map2_eq_zipWith (g : Nat → Nat → Nat) (l r : List (Option Nat)) : map2 g l r = List.zipWith (Option.map₂ g) l r := by
  rw [map2]
  congr 1
  funext x y
  cases x <;> cases y <;> rfl

theorem mem_map2 {g : Nat → Nat → Nat} {l r : List (Option Nat)} {v : Nat} (h : some v ∈ map2 g l r) :
    ∃ x y, some x ∈ l ∧ some y ∈ r ∧ g x y = v := by
  rw [map2_eq_zipWith, ← List.map_uncurry_zip_eq_zipWith] at h
  obtain ⟨⟨x, y⟩, hxy, hv⟩ := List.mem_map.1 h
  obtain ⟨u, w, rfl, rfl, rfl⟩ := Option.map₂_eq_some_iff.1 hv
  exact ⟨u, w, (List.of_mem_zip hxy).1, (List.of_mem_zip hxy).2, rfl⟩

theorem map2_congr {g h : Nat → Nat → Nat} {l r : List (Option Nat)} (hgh : ∀ x y, some x ∈ l → some y ∈ r → g x y = h x y) :
    map2 g l r = map2 h l r := by
  rw [map2_eq_zipWith, map2_eq_zipWith, ← List.map_uncurry_zip_eq_zipWith, ← List.map_uncurry_zip_eq_zipWith]
  refine List.map_congr_left fun ⟨x, y⟩ hxy => ?_
  obtain ⟨hx, hy⟩ := List.of_mem_zip hxy
  match x, y with
  | none, _ => rfl
  | some _, none => rfl
  | some u, some v => exact congrArg some (hgh u v hx hy)

/-- The results of an operation on the elements of two lanes: present where both lanes are valid. -/
def laneMap2 (g : Nat → Nat → Nat) (w : Nat) (a b : Lane) : List (Option Nat) :=
  groupEls w (a.ok && b.ok) fun k => g (laneFld w a k) (laneFld w b k)

theorem zipWith_laneEls (g : Nat → Nat → Nat) (w : Nat) (a b : Lane) :
    List.zipWith (Option.map₂ g) (laneEls w a) (laneEls w b) = laneMap2 g w a b := by
  rw [laneMap2, laneEls, laneEls, groupEls, groupEls, groupEls, List.zipWith_map, List.zipWith_self]
  cases a.ok <;> cases b.ok <;> rfl

theorem laneEls_laneFrom_laneMap2 {w : Nat} (hw : w ∣ 32) {g : Nat → Nat → Nat} (hg : ∀ x < 2 ^ w, ∀ y < 2 ^ w, g x y < 2 ^ w) (a b : Lane) :
    laneEls w (laneFrom w (laneMap2 g w a b)) = laneMap2 g w a b :=
  laneEls_laneFrom hw _ fun k => hg _ (laneFld_lt hw a k) _ (laneFld_lt hw b k)

theorem map2_elems_of_dvd {f : Fmt} (hf : fmtBits f ∣ 32) (g : Nat → Nat → Nat) {l r : Payload} (hlr : l.length = r.length) :
    map2 g (elems f l) (elems f r) = (List.zipWith (laneMap2 g (fmtBits f)) l r).flatten := by
  rw [map2_eq_zipWith, elems_of_dvd hf, elems_of_dvd hf, zipWith_flatMap _ _ (laneEls_length _) hlr]
  simp only [zipWith_laneEls]

theorem elems_packElems_map2_of_dvd {f : Fmt} (hf : fmtBits f ∣ 32) {g : Nat → Nat → Nat} {l r : Payload} (hlr : l.length = r.length)
    (hg : ∀ x < 2 ^ fmtBits f, ∀ y < 2 ^ fmtBits f, g x y < 2 ^ fmtBits f) :
    elems f (packElems f l.length (map2 g (elems f l) (elems f r))) = map2 g (elems f l) (elems f r) := by
  have hgroup : ∀ e ∈ List.zipWith (laneMap2 g (fmtBits f)) l r,
      e.length = 32 / fmtBits f ∧ laneEls (fmtBits f) (laneFrom (fmtBits f) e) = e := by
    rw [← List.map_uncurry_zip_eq_zipWith]
    exact List.forall_mem_map.2 fun ⟨a, b⟩ _ => ⟨groupEls_length .., laneEls_laneFrom_laneMap2 hf hg a b⟩
  have hpack := packElems_flatten hf fun e he => (hgroup e he).1
  rw [List.length_zipWith, ← hlr, Nat.min_self] at hpack
  rw [map2_elems_of_dvd hf g hlr, hpack, elems_of_dvd hf, List.flatMap_map, List.flatten_eq_flatMap]
  exact List.flatMap_congr fun e he => (hgroup e he).2

/-! ### Formats of a lane pair -/

/-- The two lanes of an element of 64 bits. -/
def pairLanes : Option Nat → Payload
  | some v => [Lane.some (v % 2 ^ 32), Lane.some (v / 2 ^ 32)]
  | none => [.none, .none]

/-- The element that two lanes hold. -/
def pairEl (e : Lane × Lane) : Option Nat := if e.1.ok && e.2.ok then some (e.1.nat + e.2.nat * 2 ^ 32) else none

theorem elems_of_pair {f : Fmt} (hf : fmtBits f = 64) (p : Payload) : elems f p = (pairsOf p).map pairEl := by
  rw [elems, hf]
  rfl

theorem pairLanes_eq (e : Option Nat) (he : ∀ v, e = some v → v < 2 ^ 64) : ∃ a b, pairLanes e = [a, b] ∧ pairEl (a, b) = e := by
  cases e with
  | none => exact ⟨.none, .none, rfl, rfl⟩
  | some v =>
    have hv : v < 2 ^ 64 := he v rfl
    have hlanes : v % 2 ^ 32 % 2 ^ 32 + v / 2 ^ 32 % 2 ^ 32 * 2 ^ 32 = v := by omega
    exact ⟨_, _, rfl, by simpa [pairEl, Lane.some, Lane.nat] using hlanes⟩

theorem elems_flatMap_pairLanes {f : Fmt} (hf : fmtBits f = 64) {es : List (Option Nat)} (hes : ∀ v, some v ∈ es → v < 2 ^ 64) :
    elems f (es.flatMap pairLanes) = es := by
  rw [elems_of_pair hf]
  induction es with
  | nil => rfl
  | cons e es ih =>
    obtain ⟨a, b, hlanes, hel⟩ := pairLanes_eq e fun v hv => hes v (hv ▸ List.mem_cons_self)
    rw [List.flatMap_cons, hlanes, List.cons_append, List.cons_append, List.nil_append, pairsOf, List.map_cons, hel,
      ih fun v hv => hes v (List.mem_cons_of_mem e hv)]

theorem elems_litPayload_i64 (n lit : Nat) : elems .i64 (litPayload .i64 n lit) = List.replicate (n / 2) (some (patOf (valOf lit 32 true) 64)) := by
  have hpairs : litPayload .i64 n lit = (List.replicate (n / 2) (some (patOf (valOf lit 32 true) 64))).flatMap pairLanes := by
    rw [List.flatMap_replicate]
    rfl
  rw [hpairs, elems_flatMap_pairLanes rfl]
  intro v hv
  obtain rfl : v = _ := Option.some.inj (List.eq_of_mem_replicate hv)
  exact patOf_lt ..

theorem packElems_of_pair {f : Fmt} (hf : fmtBits f = 64) {n : Nat} {es : List (Option Nat)} (hn : es.length = n / 2) :
    packElems f n es = es.flatMap pairLanes := by
  have hrange : packElems f n es = (List.range (n / 2)).flatMap fun m => pairLanes (es[m]?).join := by
    rw [packElems, hf]
    rfl
  have hes : (List.range (n / 2)).map (fun m => (es[m]?).join) = es := by
    apply List.ext_getElem <;> simp +contextual [← hn]
  rw [hrange, ← List.flatMap_map, hes]

theorem length_pairsOf (p : Payload) : (pairsOf p).length = p.length / 2 := by
  induction p using pairsOf.induct with
  | case1 a b p ih =>
    rw [pairsOf, List.length_cons, ih, List.length_cons, List.length_cons]
    omega
  | case2 p hp =>
    match p with
    | [] => rfl
    | [_] => simp [pairsOf]
    | a :: b :: p => exact absurd rfl (hp a b p)

theorem elems_packElems_map2_of_pair {f : Fmt} (hf : fmtBits f = 64) {g : Nat → Nat → Nat} {l r : Payload} (hlr : l.length = r.length)
    (hg : ∀ v, some v ∈ map2 g (elems f l) (elems f r) → v < 2 ^ 64) :
    elems f (packElems f l.length (map2 g (elems f l) (elems f r))) = map2 g (elems f l) (elems f r) := by
  have hlen : (map2 g (elems f l) (elems f r)).length = l.length / 2 := by
    simp [map2_eq_zipWith, elems_of_pair hf, length_pairsOf, hlr]
  rw [packElems_of_pair hf hlen, elems_flatMap_pairLanes hf hg]

/-! ### Elements fit their width -/

theorem elems_lt {f : Fmt} {p : Payload} {v : Nat} (hv : some v ∈ elems f p) : v < 2 ^ fmtBits f := by
  rcases fmtBits_dvd_or_pair f with hf | hf
  · rw [elems_of_dvd hf] at hv
    obtain ⟨a, -, ha⟩ := List.mem_flatMap.1 hv
    obtain ⟨k, -, hk⟩ := List.mem_map.1 ha
    obtain ⟨-, rfl⟩ : _ ∧ laneFld (fmtBits f) a k = v := by simpa using hk
    exact laneFld_lt hf a k
  · rw [elems_of_pair hf] at hv
    obtain ⟨⟨a, b⟩, -, hab⟩ := List.mem_map.1 hv
    obtain ⟨-, rfl⟩ : _ ∧ a.nat + b.nat * 2 ^ 32 = v := by simpa [pairEl] using hab
    have ha : a.nat < 2 ^ 32 := a.val.isLt
    have hb : b.nat < 2 ^ 32 := b.val.isLt
    rw [hf]
    omega

theorem elems_packElems_map2 {f : Fmt} {g : Nat → Nat → Nat} {l r : Payload} (hlr : l.length = r.length)
    (hg : ∀ x < 2 ^ fmtBits f, ∀ y < 2 ^ fmtBits f, g x y < 2 ^ fmtBits f) :
    elems f (packElems f l.length (map2 g (elems f l) (elems f r))) = map2 g (elems f l) (elems f r) := by
  rcases fmtBits_dvd_or_pair f with hf | hf
  · exact elems_packElems_map2_of_dvd hf hlr hg
  · refine elems_packElems_map2_of_pair hf hlr fun v hv => ?_
    obtain ⟨x, y, hx, hy, rfl⟩ := mem_map2 hv
    exact hf ▸ hg x (elems_lt hx) y (elems_lt hy)

theorem map2_elems_congr {f : Fmt} {g h : Nat → Nat → Nat} {l r : Payload} (hgh : ∀ x < 2 ^ fmtBits f, ∀ y < 2 ^ fmtBits f, g x y = h x y) :
    map2 g (elems f l) (elems f r) = map2 h (elems f l) (elems f r) :=
  map2_congr fun x y hx hy => hgh x (elems_lt hx) y (elems_lt hy)

/-! ### Results of two operands -/

theorem counts_sum_eq_zero {ks : List Counts} (hks : ∀ k ∈ ks, k = .zero) : Counts.sum ks = .zero := by
  rw [List.eq_replicate_of_mem hks, Counts.sum]
  induction ks.length with
  | zero => rfl
  | succ n ih => exact ih

theorem el2_el (a : Args) (g : Nat → Nat → Nat) :
    el2 a (fun x y => el (g x y)) = Res.both (packElems a.fmt a.n (map2 g (elems a.fmt a.l) (elems a.fmt a.r))) := by
  have hels : List.zipWith (fun x y => x.bind fun u => y.map fun v => el (g u v)) (elems a.fmt a.l) (elems a.fmt a.r) =
      (map2 g (elems a.fmt a.l) (elems a.fmt a.r)).map (Option.map el) := by
    rw [map2_eq_zipWith, List.map_zipWith]
    congr 1
    funext x y
    cases x <;> cases y <;> rfl
  rw [el2, hels, gatherEls, List.map_map, counts_sum_eq_zero]
  · have : Option.map Prod.fst ∘ Option.map el = id := by funext x; cases x <;> rfl
    rw [this, List.map_id]
  · rintro k hk
    obtain ⟨_, he, hk⟩ := List.mem_filterMap.1 hk
    obtain ⟨e, -, rfl⟩ := List.mem_map.1 he
    cases e with
    | none => cases hk
    | some v => exact (Option.some.inj hk).symm

theorem holds_el2 {a : Args} (ha : Sized a) {g : Nat → Nat → Nat}
    (hg : ∀ x < 2 ^ fmtBits a.fmt, ∀ y < 2 ^ fmtBits a.fmt, g x y < 2 ^ fmtBits a.fmt) :
    Holds a.fmt (el2 a fun x y => el (g x y)) (map2 g (elems a.fmt a.l) (elems a.fmt a.r)) := by
  obtain ⟨-, hl, hr, -⟩ := ha
  rw [el2_el, ← hl]
  exact ⟨elems_packElems_map2 (hl.trans hr.symm) hg, rfl, rfl⟩

/-! ### Division (R132) -/

theorem tmod_between (x y : Int) : (0 ≤ x → 0 ≤ x.tmod y ∧ x.tmod y ≤ x) ∧ (x ≤ 0 → x ≤ x.tmod y ∧ x.tmod y ≤ 0) := by
  have hpos {x : Int} (hx : 0 ≤ x) : 0 ≤ x.tmod y ∧ x.tmod y ≤ x := by
    have habs := Int.natAbs_tmod x y ▸ Nat.mod_le x.natAbs y.natAbs
    have hnonneg := Int.tmod_nonneg y hx
    omega
  refine ⟨hpos, fun hx => ?_⟩
  have := hpos (x := -x) (by omega)
  rw [Int.neg_tmod] at this
  omega

/-- A remainder lies between 0 and the dividend, so it needs no more bits. -/
theorem tmod_range {n : Nat} {sg : Bool} {x : Int} (y : Int) (hx : intLo n sg ≤ x ∧ x ≤ intHi n sg) :
    intLo n sg ≤ x.tmod y ∧ x.tmod y ≤ intHi n sg := by
  have hzero : intLo n sg ≤ 0 ∧ 0 ≤ intHi n sg := by
    have hsigned : (0 : Int) < 2 ^ (n - 1) := by positivity
    have hunsigned : (0 : Int) < 2 ^ n := by positivity
    cases sg with
    | false => rw [intLo_unsigned, intHi_unsigned]; omega
    | true => rw [intLo_signed, intHi_signed]; omega
  obtain ⟨hpos, hneg⟩ := tmod_between x y
  rcases Int.le_total 0 x with h | h
  · have := hpos h; omega
  · have := hneg h; omega

theorem patOf_neg_one (n : Nat) : patOf (-1) n = 2 ^ n - 1 := by
  have hpos := Nat.two_pow_pos n
  have h : (-1 : Int) = ((2 ^ n - 1 : Nat) : Int) - 2 ^ n := by push_cast [Nat.cast_sub hpos]; ring
  rw [h, patOf_sub_two_pow, patOf_natCast (by omega)]

theorem quotient_pattern {n x y : Nat} (sg : Bool) (hy : y < 2 ^ n) :
    patOf (intDiv (valOf x n sg) (valOf y n sg)).1 n = if y = 0 then 2 ^ n - 1 else wr n ((rd n sg x).tdiv (rd n sg y)) := by
  simp only [intDiv, valOf_eq_zero sg hy, rd_eq_valOf, wr_eq_patOf]
  split
  · exact patOf_neg_one n
  · rfl

theorem remainder_pattern {n x y : Nat} (sg : Bool) (hx : x < 2 ^ n) (hy : y < 2 ^ n) :
    patOf (intDiv (valOf x n sg) (valOf y n sg)).2 n = if y = 0 then x else wr n ((rd n sg x).tmod (rd n sg y)) := by
  simp only [intDiv, valOf_eq_zero sg hy, rd_eq_valOf, wr_eq_patOf, Int.tmod_def]
  split
  · exact patOf_valOf sg hx
  · rfl

/-- The value of a remainder's pattern is the remainder. -/
theorem rd_wr_tmod {n x : Nat} (sg : Bool) (hn : 0 < n) (hx : x < 2 ^ n) (y : Int) :
    rd n sg (wr n ((rd n sg x).tmod y)) = (rd n sg x).tmod y := by
  simp only [rd_eq_valOf, wr_eq_patOf]
  obtain ⟨hlo, hhi⟩ := tmod_range y (valOf_range sg hn hx)
  exact valOf_patOf hn hlo hhi

theorem remainder_neg_iff {n x : Nat} {sg : Bool} {y : Int} (hn : 0 < n) (hx : x < 2 ^ n) (hne : wr n ((rd n sg x).tmod y) ≠ 0) :
    rd n sg (wr n ((rd n sg x).tmod y)) < 0 ↔ rd n sg x < 0 := by
  have hne : (rd n sg x).tmod y ≠ 0 := fun h => hne (by rw [h]; exact patOf_natCast (Nat.two_pow_pos n))
  rw [rd_wr_tmod sg hn hx]
  obtain ⟨hpos, hneg⟩ := tmod_between (rd n sg x) y
  omega

theorem rd_signed_min {n : Nat} (hn : 0 < n) : rd n true (2 ^ (n - 1)) = -2 ^ (n - 1) := by
  have hpow := two_pow_pred hn
  rw [rd, if_pos ⟨rfl, le_rfl⟩, Nat.cast_pow, Nat.cast_ofNat]
  omega

theorem rd_all_ones {n : Nat} (hn : 0 < n) : rd n true (2 ^ n - 1) = -1 := by
  have hpos : (0 : Int) < 2 ^ (n - 1) := by positivity
  rw [rd_eq_valOf, ← patOf_neg_one]
  exact valOf_patOf hn (by rw [intLo_signed]; omega) (by rw [intHi_signed]; omega)

theorem signed_min_tdiv_neg_one {n : Nat} (hn : 0 < n) :
    wr n ((rd n true (2 ^ (n - 1))).tdiv (rd n true (2 ^ n - 1))) = 2 ^ (n - 1) := by
  have hquot : (-2 ^ (n - 1) : Int).tdiv (-1) = (2 ^ (n - 1) : Nat) := by simp
  rw [rd_signed_min hn, rd_all_ones hn, hquot, wr_eq_patOf, patOf_natCast (Nat.pow_lt_pow_right one_lt_two (by omega))]

theorem signed_min_tmod_neg_one {n : Nat} (hn : 0 < n) : wr n ((rd n true (2 ^ (n - 1))).tmod (rd n true (2 ^ n - 1))) = 0 := by
  rw [rd_all_ones hn, Int.tmod_eq_zero_of_dvd (by simp), wr_eq_patOf]
  exact patOf_natCast (Nat.two_pow_pos n)

/-! ### The formats and their results -/

theorem intFormats_widths {f : Fmt} {n : Nat} {sg : Bool} (h : (f, n, sg) ∈ intFormats) : n = fmtBits f ∧ sg = fmtSigned f :=
  (by decide : ∀ e ∈ intFormats, e.2.1 = fmtBits e.1 ∧ e.2.2 = fmtSigned e.1) _ h

theorem fmtBits_pos (f : Fmt) : 0 < fmtBits f := by cases f <;> decide

/-- Settles O12, for any width: a pattern is 0 only where its value is, and a remainder lies between 0 and the dividend. -/
theorem division : Obligations.Division := by
  rintro ⟨f, n, sg⟩ hf a rfl ha
  obtain ⟨rfl, rfl⟩ := intFormats_widths hf
  have hn := fmtBits_pos a.fmt
  simp only [← Int.tmod_def]
  refine ⟨?quotient, ?remainder, fun hsg => ?minimum, fun x hx y hy => ?sign⟩
  case quotient =>
    rw [← map2_elems_congr fun x _ y hy => quotient_pattern _ hy]
    exact holds_el2 ha fun _ _ _ _ => patOf_lt ..
  case remainder =>
    rw [← map2_elems_congr fun x hx y hy => remainder_pattern _ hx hy]
    exact holds_el2 ha fun _ _ _ _ => patOf_lt ..
  case minimum =>
    have hones : 2 ^ fmtBits a.fmt - 1 ≠ 0 := by have := Nat.one_lt_two_pow hn.ne'; omega
    rw [if_neg hones, if_neg hones, hsg]
    exact ⟨signed_min_tdiv_neg_one hn, signed_min_tmod_neg_one hn⟩
  case sign =>
    split
    · exact fun _ => Iff.rfl
    · exact remainder_neg_iff hn hx

/-- Settles O13: no shift's result needs more than the width, and the literal's lane pairs hold LIT sign-extended. -/
theorem shifts : Obligations.Shifts := by
  refine ⟨?counts, fun m _ => ?literal, by decide⟩
  case counts =>
    rintro ⟨f, n, sg⟩ hf a rfl ha
    obtain ⟨rfl, rfl⟩ := intFormats_widths hf
    have hpow := Nat.two_pow_pos (fmtBits a.fmt)
    refine ⟨?shl, ?shr, ?sar, ?rol⟩
    case shl => exact holds_el2 ha fun _ _ _ _ => Nat.mod_lt _ hpow
    case shr => exact holds_el2 ha fun _ hx _ _ => (Nat.div_le_self ..).trans_lt hx
    case sar =>
      simp only [rd_eq_valOf, wr_eq_patOf]
      exact holds_el2 ha fun _ _ _ _ => patOf_lt ..
    case rol => exact holds_el2 ha fun _ _ _ _ => Nat.mod_lt _ hpow
  case literal =>
    have hones : patOf (valOf 0xFFFFFFFF 32 true) 64 = 2 ^ 64 - 1 := by decide
    rw [elems_litPayload_i64, hones]

/-- The second mixing step of `hash32` leaves 32 bits, and the last one keeps them. -/
theorem hash32_lt (x s : Nat) : hash32 x s < 2 ^ 32 := by
  have hmix (k : Nat) : k % 2 ^ 32 < 2 ^ 32 := Nat.mod_lt k (Nat.two_pow_pos 32)
  exact Nat.xor_lt_two_pow (hmix _) ((Nat.div_le_self ..).trans_lt (hmix _))

/-- Settles O15: the hash fits a word, so a lane holds it whole. -/
theorem hashWords : Obligations.HashWords := by
  intro a ha hbits
  exact (holds_el2 ha fun x _ s _ => hbits ▸ hash32_lt x s).1

end Sys2Proof.Elements
